-- ==== Sys2Proof/Word.lean ====
section
/-! DEFINITION. The word types of the Treug device and their plainest arithmetic (R2, R26, R36). -/

namespace Sys2Proof

/-- A scalar, mask or system register, and an address (R26). -/
abbrev Word := BitVec 64
/-- One byte of any tier. -/
abbrev Byte := BitVec 8
/-- A vector register, a stream element, a mailbox entry or a packet: 64 bytes (R26). -/
abbrev Vec := BitVec 512
/-- One instruction word (R15). -/
abbrev IWord := BitVec 96

/-- A Boolean as a bit of a word. -/
def bit01 (b : Bool) : Word := if b then 1 else 0

end Sys2Proof
end

