-- ==== Sys2Proof/Syntax.lean ====
section
/-! DEFINITION. The syntax: the fields of an instruction word (R15, R24), the data that an event of the machine carries,
and `Instr`, one constructor for each row of spec/opcode_table.json. A row that is an instruction carries its word's
fields; a row that is an event (a step of an engine, of another agent or of the outside) carries what the event names. -/

namespace Sys2Proof

/-- A 24-bit operand field by its kind (R24). `raw` is a field with bits that R25 forbids. -/
inductive Operand where
  | reg (n : BitVec 7)
  | imm (v : BitVec 22)
  | loc (a : BitVec 22)
  | lit
  | raw (x : BitVec 24)
deriving DecidableEq, Repr

/-- The fields of an instruction word but its opcode (R15, Table 2-1). -/
structure Fields where
  sense : Bool
  pred : BitVec 3
  stall : BitVec 4
  y : Bool
  b : Bool
  t : Bool
  rsv : Bool
  sel : BitVec 2
  opD : Operand
  opA : Operand
  opB : Operand
deriving DecidableEq, Repr

/-- A PFX word (R30, Table 2-6). The fields that must hold a fixed value are kept as read. -/
structure Pfx where
  guard : BitVec 4
  z81 : BitVec 5
  b : Bool
  t : Bool
  z74 : Bool
  ovr : BitVec 4
  s : Bool
  l : Bool
  z67 : BitVec 4
  lit : Word
deriving DecidableEq, Repr

/-- What an access does to its bytes, for the permissions of R360. -/
inductive AccKind where
  | read | write | readWrite
  /-- The page's layout alone, of an inactive lane's address (R126). -/
  | look
deriving DecidableEq, Repr

/-- The agent of a translated access: its process identifier, its root table and its mode (R356, R358, R360). -/
structure Requester where
  pid : BitVec 16
  root : Word
  user : Bool
deriving DecidableEq, Repr

/-- The atomic operations of Table 12-2. -/
inductive AtomOp where
  | add | and | or | xor | min | max | minu | maxu | fadd | fmin | fmax | swp | cas
deriving DecidableEq, Repr

/-- What an atomic of another agent brings beside its format and operands (R229, R232): the operation, the agent's cluster, the hint, and
the rounding mode captured at its issue. -/
structure AtomForm where
  op : AtomOp
  cluster : Nat
  hint : BitVec 2
  rm : BitVec 3
deriving DecidableEq, Repr

/-- A word at its home, and the cluster whose agent accesses it (R233). -/
structure HomeWord where
  cluster : Nat
  pa : Nat
deriving DecidableEq, Repr

/-- A line that returns to its home, and the cluster of the access that needs it there; none where it is evicted (R233, R234). -/
structure LineReturn where
  line : Nat
  by' : Option Nat
deriving DecidableEq, Repr

/-- The Kiln commands (R147, R182). -/
inductive KilnOp where
  | ldb | mul | mulb | zero | est | norm | normRel
deriving DecidableEq, Repr

/-- An order key (R279): its six components, most significant first, and a number `uid` of the model's own that tells two submissions of
one core apart before the order has set their beats, and whether it is a gang's (R295). -/
structure TxKey where
  beat : Nat
  cls : Nat
  die : Nat
  clus : Nat
  core : Nat
  seq : Nat
  uid : Nat
  gang : Bool
deriving DecidableEq, Repr

/-- A window of a package's export table (R367): base and length in 64 KiB units of package offset. -/
structure ExportWindow where
  base : Nat
  len : Nat
  r : Bool
  w : Bool
  mask : BitVec 8
deriving DecidableEq, Repr

/-- A continuation record that an exchange phase brought to this cluster (R307): the key of its place, its words, and its posting task
and posting count (Table 18-1). -/
structure ArrivedRecord where
  srcPidx : Nat
  srcCore : Nat
  order : Nat
  words : BitVec 256
  poster : BitVec 32
  index : Nat
deriving DecidableEq, Repr

/-- Where an error arises that its code cannot correct (Table 10-5): a register, by the number under which the model keeps it, an
accumulator chunk (16 × tile + chunk), a local-window address of a core (of the scratchpad, for 8), a cell of the B store, or a granule of a
global tier. -/
inductive MemError where
  | register (n : BitVec 7)
  | chunk (n : Nat)
  | local (owner addr : Nat)
  | cell (n : Nat)
  | global (pa : Nat)
deriving DecidableEq, Repr

/-- A place that holds a wait of another core (R247): a barrier line, the gang barrier, a mutex, an event line, the deferred list of a
word, a barrier of the superstep, the offers to a chain, a circular buffer. -/
inductive WaitPlace where
  | barrier (b : Nat)
  | gang
  | mutex (x : Nat)
  | event (e : Nat)
  | deferred (pa : Nat)
  | superstep
  | chain
  | slot (b : Nat)
deriving DecidableEq, Repr

/-- What another core of the cluster, another cluster or Mboith does to the state that this core shares, where the opcode table gives it no
row of its own. It stands in `State.outside`, and happens with a GLOBAL_ACCESS_PERFORM whose number is past the accesses of this core. -/
inductive OtherAct where
  /-- An agent of a cluster reads or writes up to 8 bytes at their home. (R204, R233) -/
  | globalAccess (cluster pa n : Nat) (data : Option Word)
  /-- Another core writes its local store, or the scratchpad. (R98, R169) -/
  | localStore (core : Nat) (addr : BitVec 22) (n : Nat) (data : Vec)
  /-- Another core invalidates translations: of a page of a PID, of a PID, or all. (R370) -/
  | invalidate (pid : Option (BitVec 16)) (va : Option Word)
  /-- Another core's Kiln command arrives. (R147) -/
  | kilnIssue (core : Nat) (op : KilnOp) (header bspec : Word) (d : Nat) (cb top : Bool) (table : List (Nat × BitVec 8))
      (pages : List (Nat × Nat))
  /-- Another core's Kiln command starts. (R148) -/
  | kilnStart (k : Nat)
  /-- Another core's Kiln command completes. (R152) -/
  | kilnComplete (k : Nat)
  /-- Another core's queue starts a slice pass. (R136, R151) -/
  | passStart (core panel : Nat) (f64 : Bool) (cycles : Nat)
  /-- Another core's context has a weight, and its queue a pass that can start or none. (R151, R351) -/
  | queueState (core : Nat) (kwgt : Word) (ready : Bool)
  /-- Another core arms the exchange engine. (R319) -/
  | xrun (core base count : Nat) (top : Bool)
  /-- A transfer of another cluster's exchange program lands here. (R316) -/
  | landing (daddr : BitVec 25) (fmt : BitVec 5) (top : Bool) (len : Nat) (bytes : List (Nat × BitVec 8)) (bad : List Nat) (after : Nat)
  /-- A task of another core posts a record. (R304 to R307) -/
  | post (core : Nat) (w : BitVec 256)
  /-- Another core's context requests a gear, or comes with a request. (R341) -/
  | gear (core : Nat) (n : Bool)
  /-- Another core executes `TEXIT`, with its exit code and signature. (R310, R313) -/
  | ends (core code : Nat) (sig : Word)
  /-- Another core executes `STOP`, or Mboith discards its context. (R104, R310) -/
  | stops (core : Nat) (watchdog : Bool)
  /-- Mboith fills an entry of the partition's placement table. (R333) -/
  | placement (entry pidx : Nat)
  /-- Mboith publishes a queue's descriptor. (R250) -/
  | bindQueue (pa : Nat) (va root : Word)
  /-- A read of the corresponding member of the primary gang returns. (R312) -/
  | primaryRead (x : Vec) (flags : BitVec 5)
  /-- Mboith assigns a function of the host to a process. (R366) -/
  | hostFunction (fn : Nat) (who : Requester)
  /-- What the other clusters of a launch's partition report: tasks outstanding, tasks that have ended since, and error bits. (R302) -/
  | elsewhere (launch outstanding ran : Nat) (err : BitVec 4)
  /-- The free cores of another cluster of the partition. (R334) -/
  | freeCores (pidx : Nat) (cores : BitVec 8)
  /-- A record comes for which this cluster is reserved. (R334) -/
  | reservedRecord (w : BitVec 256) (poster : BitVec 32) (index : Nat)
  /-- A gang migrates to this cluster. (R334) -/
  | gangArrives (id : Word) (cores shadow : BitVec 8) (poster : BitVec 32) (index : Nat) (ctxbuf sig : Word)
  /-- A request withdraws another core's wait at the place that holds it. (R247) -/
  | withdraws (core : Nat) (p : WaitPlace)
  /-- A context resumes on another core, and holds mutexes, bit x for mutex x. (R243) -/
  | resumes (core : Nat) (held : Word)
  /-- Another core executes `CBGET`, and waits where there is no slot. (R272) -/
  | takesSlot (core b : Nat)
  /-- Another core executes `CBPUT` of a slot that it holds. (R272) -/
  | putsSlot (core b slot : Nat)
  /-- Member 0 of a shadow gang executes `TSUB.G`, whose transaction is not performed. (R295, R312) -/
  | shadowSubmits (key : TxKey) (sstep : Word) (tiles : List (Nat × Bool))
  /-- A cluster can accept nothing more in this exchange phase. (R317) -/
  | full (pidx : Nat)
  /-- A redundant run has differed on a cluster: a control core hears of it. (R313, R398) -/
  | mismatch (taskid : Word)
  /-- An error arises that a code corrects. (R207) -/
  | corrected
  /-- An error arises that no code corrects. (R207) -/
  | error (e : MemError)
deriving DecidableEq, Repr

/-- The operations and events of the opcode table, in its order. -/
inductive Instr where
  /-- Prefix word that supplies a rounding override, saturation and a 64-bit literal to the next word; it issues and retires together with that consumer as one instruction. (R30) -/
  | pfx (p : Pfx)
  /-- Scalar integer add at the selected width, wrapping, or saturating under S. (R84) -/
  | add (f : Fields)
  /-- Scalar integer subtract at the selected width, wrapping, or saturating under S. (R84) -/
  | sub (f : Fields)
  /-- Scalar integer multiply, low half, with latency 3. (R84) -/
  | mul (f : Fields)
  /-- Scalar signed multiply that returns the high half. (R84) -/
  | mulh (f : Fields)
  /-- Scalar unsigned multiply that returns the high half. (R84) -/
  | mulhu (f : Fields)
  /-- Scalar signed division, truncated toward zero and interlocked; a zero divisor traps 0x0D at issue. (R85) -/
  | div (f : Fields)
  /-- Scalar unsigned division, interlocked; a zero divisor traps 0x0D. (R85) -/
  | divu (f : Fields)
  /-- Scalar signed remainder, whose sign follows the dividend; a zero divisor traps 0x0D. (R85) -/
  | rem (f : Fields)
  /-- Scalar unsigned remainder; a zero divisor traps 0x0D. (R85) -/
  | remu (f : Fields)
  /-- Scalar bitwise AND. (R84) -/
  | andOp (f : Fields)
  /-- Scalar bitwise OR. (R84) -/
  | orOp (f : Fields)
  /-- Scalar bitwise XOR. (R84) -/
  | xor (f : Fields)
  /-- Scalar A AND NOT B. (R84) -/
  | andn (f : Fields)
  /-- Scalar left shift; a count at or above the width gives 0. (R84) -/
  | shl (f : Fields)
  /-- Scalar logical right shift. (R84) -/
  | shr (f : Fields)
  /-- Scalar arithmetic right shift, with the count clamped to width minus 1. (R84) -/
  | sar (f : Fields)
  /-- Scalar rotate left by the count mod the width. (R84) -/
  | rotl (f : Fields)
  /-- Count of leading zero bits within the width. (R84) -/
  | clz (f : Fields)
  /-- Count of trailing zero bits within the width. (R84) -/
  | ctz (f : Fields)
  /-- Count of one bits. (R84) -/
  | popc (f : Fields)
  /-- Scalar signed minimum. (R84) -/
  | min (f : Fields)
  /-- Scalar signed maximum. (R84) -/
  | max (f : Fields)
  /-- Scalar unsigned minimum. (R84) -/
  | minu (f : Fields)
  /-- Scalar unsigned maximum. (R84) -/
  | maxu (f : Fields)
  /-- Scalar absolute value, wrapping or saturating. (R84) -/
  | abs (f : Fields)
  /-- Scalar negation, wrapping or saturating. (R84) -/
  | neg (f : Fields)
  /-- Sign-extends the low 32, 16 or 8 bits of A to 64 bits. (R86) -/
  | sext (f : Fields)
  /-- Zero-extends the low 32, 16 or 8 bits of A. (R86) -/
  | zext (f : Fields)
  /-- Extracts a bit field given by lo and len, optionally sign-extended. (R87) -/
  | bfx (f : Fields)
  /-- Inserts the low bits of A into a field of D. (R87) -/
  | bfi (f : Fields)
  /-- Computes A + B scaled by the element size. (R88) -/
  | lea (f : Fields)
  /-- Moves A, zero-extended from the width, to D. (R88) -/
  | mov (f : Fields)
  /-- Selects A or B by predicate p0 to p3, named by the selector. (R88) -/
  | sel (f : Fields)
  /-- Integer compare that writes or combines a predicate through a control word. (R89) -/
  | cmp (f : Fields)
  /-- Combines two predicates through a 4-bit truth table into a predicate. (R90) -/
  | plog (f : Fields)
  /-- Scalar floating-point add, rounded with rmode(). (R91) -/
  | fadd (f : Fields)
  /-- Scalar floating-point subtract. (R91) -/
  | fsub (f : Fields)
  /-- Scalar floating-point multiply. (R91) -/
  | fmul (f : Fields)
  /-- Scalar fused multiply-add a × b + d with one rounding. (R91) -/
  | ffma (f : Fields)
  /-- Scalar floating-point divide, interlocked. (R91) -/
  | fdiv (f : Fields)
  /-- Scalar floating-point square root, interlocked. (R91) -/
  | fsqrt (f : Fields)
  /-- Floating-point minimum, with -0 ordered below +0 and the NaN rules of R92. (R92) -/
  | fmin (f : Fields)
  /-- Floating-point maximum, with the NaN rules of R92. (R92) -/
  | fmax (f : Fields)
  /-- Floating-point compare into a predicate, with unordered handling and NV. (R93) -/
  | fcmp (f : Fields)
  /-- Converts between the float formats FP64 to E5M2 that B names. (R94) -/
  | fcvt (f : Fields)
  /-- Converts a float to an integer format, saturating with NV. (R95) -/
  | fcvti (f : Fields)
  /-- Converts an integer format to a float, rounded. (R95) -/
  | icvtf (f : Fields)
  /-- Writes a 10-bit class mask of a float. (R96) -/
  | fclass (f : Fields)
  /-- Clears the sign bit. (R96) -/
  | fabs (f : Fields)
  /-- Inverts the sign bit. (R96) -/
  | fneg (f : Fields)
  /-- Loads from the local window: local store, scratchpad, event unit, mailbox or readiness map. (R98) -/
  | ldl (f : Fields)
  /-- Stores to the local window; a store into a registered norm region marks its slices stale. (R98) -/
  | stl (f : Fields)
  /-- Global load, integer-typed or float-typed with decoding by page FMT; the destination is interlocked. (R99) -/
  | ldg (f : Fields)
  /-- Global store, raw or encoded by page FMT; it retires when its station accepts it. (R99) -/
  | stg (f : Fields)
  /-- Asks the station to prepare the translation and home of an address; it has no architectural effect. (R100) -/
  | pref (f : Fields)
  /-- Branch to an immediate or absolute target. (R101) -/
  | br (f : Fields)
  /-- Writes the return address to s62 and transfers. (R101) -/
  | call (f : Fields)
  /-- Transfers to s62. (R101) -/
  | ret (f : Fields)
  /-- Transfers to a register or absolute target. (R101) -/
  | jmp (f : Fields)
  /-- Decrements D and branches while it is nonzero. (R102) -/
  | loop (f : Fields)
  /-- Fetches a body of 1 to 16 instructions into the repeat buffer and runs it count times. (R103) -/
  | rep (f : Fields)
  /-- No effect beyond its issue slot and stall count. (R105) -/
  | nop (f : Fields)
  /-- Ends the core's context with a stop code; in a task, Mboith then stops the gang. (R104) -/
  | stop (f : Fields)
  /-- Vector integer add in the active lanes. (R111) -/
  | vadd (f : Fields)
  /-- Vector integer subtract. (R111) -/
  | vsub (f : Fields)
  /-- Vector integer multiply, low half. (R111) -/
  | vmul (f : Fields)
  /-- Vector signed multiply, high half. (R111) -/
  | vmulh (f : Fields)
  /-- Vector signed minimum. (R111) -/
  | vmin (f : Fields)
  /-- Vector signed maximum. (R111) -/
  | vmax (f : Fields)
  /-- Vector bitwise AND. (R111) -/
  | vand (f : Fields)
  /-- Vector bitwise OR. (R111) -/
  | vor (f : Fields)
  /-- Vector bitwise XOR. (R111) -/
  | vxor (f : Fields)
  /-- Vector left shift. (R111) -/
  | vshl (f : Fields)
  /-- Vector logical right shift. (R111) -/
  | vshr (f : Fields)
  /-- Vector arithmetic right shift. (R111) -/
  | vsar (f : Fields)
  /-- Vector absolute value. (R111) -/
  | vabs (f : Fields)
  /-- Vector negation. (R111) -/
  | vneg (f : Fields)
  /-- Vector integer compare that writes or combines the mask bits of the active lanes. (R112) -/
  | vcmp (f : Fields)
  /-- Writes lanes of B where the mask register A is set. (R113) -/
  | vsel (f : Fields)
  /-- Clamps the lanes of D between A and B, signed. (R113) -/
  | vclamp (f : Fields)
  /-- Vector floating-point add. (R114) -/
  | vfadd (f : Fields)
  /-- Vector floating-point subtract. (R114) -/
  | vfsub (f : Fields)
  /-- Vector floating-point multiply. (R114) -/
  | vfmul (f : Fields)
  /-- Vector fused multiply-add. (R114) -/
  | vfma (f : Fields)
  /-- Vector floating-point divide, interlocked. (R114) -/
  | vfdiv (f : Fields)
  /-- Vector square root, interlocked. (R114) -/
  | vfsqrt (f : Fields)
  /-- Vector reciprocal square root, correctly rounded. (R114) -/
  | vfrsq (f : Fields)
  /-- Vector base-2 exponential, correctly rounded. (R114) -/
  | vfexp2 (f : Fields)
  /-- Vector base-2 logarithm, correctly rounded. (R114) -/
  | vflog2 (f : Fields)
  /-- Vector floating-point minimum by R92. (R115) -/
  | vfmin (f : Fields)
  /-- Vector floating-point maximum by R92. (R115) -/
  | vfmax (f : Fields)
  /-- Vector floating-point compare into a mask register. (R115) -/
  | vfcmp (f : Fields)
  /-- Converts lanes between formats, narrowing into or widening from part h. (R116) -/
  | vcvt (f : Fields)
  /-- Narrows two vectors into one, truncating or saturating. (R117) -/
  | vpack (f : Fields)
  /-- Widens one half of a vector, with sign or zero extension. (R117) -/
  | vunpk (f : Fields)
  /-- Permutes lanes of A by the indices in B. (R118) -/
  | vshuf (f : Fields)
  /-- Broadcasts lane k of A. (R118) -/
  | vbcast (f : Fields)
  /-- Extracts lane k into a scalar. (R118) -/
  | vextr (f : Fields)
  /-- Inserts a scalar into lane k. (R118) -/
  | vins (f : Fields)
  /-- Reduces the active lanes to a scalar by a fixed halving tree. (R119) -/
  | vred (f : Fields)
  /-- Inclusive prefix combination of the lanes, in lane order. (R119) -/
  | vscan (f : Fields)
  /-- Encodes 16 FP32 lanes into MQ8 bytes through the code table. (R121) -/
  | vqnt (f : Fields)
  /-- Decodes 16 MQ8 bytes into FP32 lanes. (R121) -/
  | vdqnt (f : Fields)
  /-- Decodes one part of a CB2 block into BF16 lanes. (R120) -/
  | vcbd (f : Fields)
  /-- Loads the core's CB2 or MQ8 table of 1 KiB from the local window. (R120) -/
  | vcbdLt (f : Fields)
  /-- Takes the loss-scale step decision, updating LSCALE, LSSTAT and KSTEP. (R123) -/
  | lsupd (f : Fields)
  /-- Vector local-window load, plain or transposed with a stride. (R124) -/
  | vldl (f : Fields)
  /-- Vector local-window store of the active lanes. (R124) -/
  | vstl (f : Fields)
  /-- Vector global load, raw or decoded by page FMT. (R126) -/
  | vldg (f : Fields)
  /-- Vector global store, translating every lane before it writes any. (R126) -/
  | vstg (f : Fields)
  /-- Gather from base plus the scaled lane indices. (R127) -/
  | vgath (f : Fields)
  /-- Scatter in which the highest lane wins on a shared address. (R127) -/
  | vscat (f : Fields)
  /-- Binds a stream register to a descriptor and base, after draining and discarding. (R129) -/
  | scfg (f : Fields)
  /-- Reads a stream's status word. (R132) -/
  | sstat (f : Fields)
  /-- Waits until the stream's buffered pushes are written, then reads its status. (R132) -/
  | sstatDrain (f : Fields)
  /-- Queues a command that loads c panels into the B store, tags them and records their norm snapshots. (R155) -/
  | kldb (f : Fields)
  /-- Queues a dense product of A with n panels into an accumulator. (R156) -/
  | kmul (f : Fields)
  /-- Queues b independent one-slice products into successive accumulators. (R157) -/
  | kmulb (f : Fields)
  /-- Joins the core's Kiln commands and reads a 64-byte accumulator chunk into a vector register. (R158) -/
  | kmovR (f : Fields)
  /-- Joins and writes a vector register into an accumulator chunk. (R158) -/
  | kmovW (f : Fields)
  /-- Joins, reads an accumulator chunk and zeroes it, as one effect. (R158) -/
  | kmovRz (f : Fields)
  /-- Queues a command that zeroes the masked accumulator tiles and their variance words. (R159) -/
  | kzero (f : Fields)
  /-- Writes the core's Kiln configuration, SAT and FCHK. (R160) -/
  | kcfg (f : Fields)
  /-- Reads the Kiln status word without waiting. (R161) -/
  | kstat (f : Fields)
  /-- Joins the core's Kiln commands, then reads the status. (R161) -/
  | kstatJ (f : Fields)
  /-- Joins, reads the status and clears its sticky bits and ESTAT. (R161) -/
  | kstatJc (f : Fields)
  /-- Waits until every earlier Kiln command of the core has completed. (R162) -/
  | ksync (f : Fields)
  /-- Registers a norm slot over a scratchpad region and queues the command that fills its segment table. (R183) -/
  | knorm (f : Fields)
  /-- Empties a norm slot. (R183) -/
  | knormRel (f : Fields)
  /-- Queues an importance-sampled estimate of a product within a budget, which writes the tile's variance word. (R184) -/
  | kest (f : Fields)
  /-- Joins, then reads a tile's variance word. (R185) -/
  | kevar (f : Fields)
  /-- Writes KSEED0 and KTC as one effect. (R186) -/
  | kseed (f : Fields)
  /-- Writes KTC. (R186) -/
  | kseedTc (f : Fields)
  /-- Writes KVLIM and KVFLOOR as one effect. (R187) -/
  | klim (f : Fields)
  /-- Claims a queue slot and writes a COPY packet into it, word 0 last. (R269) -/
  | cpost (f : Fields)
  /-- Claims a slot and posts a GATHER packet. (R269) -/
  | cgath (f : Fields)
  /-- Claims a slot and posts a WINDOW packet. (R269) -/
  | cwin (f : Fields)
  /-- Sets NEXT and LINK in a packet image. (R270) -/
  | clink (f : Fields)
  /-- Configures a circular buffer and resets its counters once it is idle. (R271) -/
  | cbinit (f : Fields)
  /-- Releases an acquired slot and advances RELP over the done slots. (R272) -/
  | cbput (f : Fields)
  /-- Waits for a slot of a circular buffer and acquires it. (R272) -/
  | cbget (f : Fields)
  /-- Waits for the earliest copy-engine message in the mailbox and moves it into a vector register. (R273) -/
  | mbxr (f : Fields)
  /-- Moves the earliest copy-engine message, or 0 when there is none, without waiting. (R273) -/
  | mbxrT (f : Fields)
  /-- Appends a read region to the declaration set. (R294) -/
  | tdeclR (f : Fields)
  /-- Appends a write region to the declaration set. (R294) -/
  | tdeclW (f : Fields)
  /-- Empties the declaration set. (R294) -/
  | tdeclClr (f : Fields)
  /-- Translates the declared regions, submits the transaction to the die's sequencer and waits for its grant. (R295) -/
  | tsub (f : Fields)
  /-- Submits a superstep-ordered transaction and returns at once with SSTEPN. (R295) -/
  | tsubD (f : Fields)
  /-- Waits for the declared accesses to be performed, then releases the transaction at every home slice. (R296) -/
  | tend (f : Fields)
  /-- A gang member's end of a gang transaction; the releases are sent after the last member's wait. (R296) -/
  | tendG (f : Fields)
  /-- Reads the transaction status word. (R297) -/
  | tstat (f : Fields)
  /-- Waits for the grant, opening a .D transaction, then reads the status. (R297) -/
  | tstatW (f : Fields)
  /-- Sends an atomic add to a bank ALU, returning the old value or posted. (R229) -/
  | aadd (f : Fields)
  /-- Atomic AND. (R229) -/
  | aand (f : Fields)
  /-- Atomic OR. (R229) -/
  | aor (f : Fields)
  /-- Atomic XOR. (R229) -/
  | axor (f : Fields)
  /-- Atomic signed minimum. (R229) -/
  | amin (f : Fields)
  /-- Atomic signed maximum. (R229) -/
  | amax (f : Fields)
  /-- Atomic unsigned minimum. (R229) -/
  | aminu (f : Fields)
  /-- Atomic unsigned maximum. (R229) -/
  | amaxu (f : Fields)
  /-- Atomic floating-point add on an FP32 or FP64 word. (R229) -/
  | afadd (f : Fields)
  /-- Atomic floating-point minimum with its own NaN rules. (R230) -/
  | afmin (f : Fields)
  /-- Atomic floating-point maximum. (R230) -/
  | afmax (f : Fields)
  /-- Atomic swap. (R229) -/
  | aswp (f : Fields)
  /-- Atomic compare-and-swap against the expected value in D. (R229) -/
  | acas (f : Fields)
  /-- Sends a rank's value to a ranked reduction block at a slice. (R238) -/
  | reda (f : Fields)
  /-- Takes a full/empty slice word, emptying it, or joins the deferred list and waits. (R235) -/
  | take (f : Fields)
  /-- Reads a full word and leaves it full, or waits on the deferred list. (R235) -/
  | takeK (f : Fields)
  /-- Writes and fills a slice word, serving the deferred waiters in arrival order. (R235) -/
  | put (f : Fields)
  /-- Waits, clock-gated, until a word satisfies .GE or .NE against B. (R241) -/
  | mwait (f : Fields)
  /-- Loads the WAIT word of an event line, taking one signal or waiting. (R245) -/
  | evwait (f : Fields)
  /-- Stores 1 to SIG of an event line of the own cluster. (R245) -/
  | evsig (f : Fields)
  /-- Sends an event message to an event line of another cluster of the partition. (R245) -/
  | evsigR (f : Fields)
  /-- Arrives at a cluster barrier line and waits for its release. (R245) -/
  | bar (f : Fields)
  /-- Arrives at the gang barrier and waits for its release. (R246) -/
  | barG (f : Fields)
  /-- Holds until the earlier accesses in scope are performed; with SC it also takes a place in the total order S. (R248) -/
  | fence (f : Fields)
  /-- Checks a continuation record and posts it to its target cluster's queue. (R304) -/
  | post (f : Fields)
  /-- Drains the member's stores, commands and jobs, then ends it with an exit code. (R310) -/
  | texit (f : Fields)
  /-- Waits to join the forwarding chain of the previous core. (R321) -/
  | slave (f : Fields)
  /-- Offers a forwarding chain to the next A cores and waits until it forms. (R321) -/
  | slaveL (f : Fields)
  /-- Leaves the forwarding chain and continues from the own local store. (R324) -/
  | detach (f : Fields)
  /-- Arms the cluster's exchange engine with an exchange program. (R319) -/
  | xrun (f : Fields)
  /-- Arrives at the barrier that closes the exchange phase, waits, writes SSTEPN and checks TOP. (R320) -/
  | xwait (f : Fields)
  /-- Arrives at the barrier that closes the compute phase and waits. (R320) -/
  | xwaitE (f : Fields)
  /-- Sends a 64-byte mailbox message to a (PIDX, core) address. (R327) -/
  | msend (f : Fields)
  /-- Waits for the earliest core or Mboith message and moves it into a vector register. (R328) -/
  | mrecv (f : Fields)
  /-- Moves the earliest core message, or 0 when there is none, without waiting. (R328) -/
  | mrecvT (f : Fields)
  /-- Requests gear F and waits for any handover. (R343) -/
  | gearF (f : Fields)
  /-- Requests gear N and waits for any handover. (R343) -/
  | gearN (f : Fields)
  /-- Reads the cluster's queue status word. (R330) -/
  | taskq (f : Fields)
  /-- Reads a system register after the number and privilege checks. (R106) -/
  | mfs (f : Fields)
  /-- Writes a system register that has no row of its own, after the number, privilege, writability and value checks. (R106) -/
  | mts (f : Fields)
  /-- Raises a software trap of cause A with value B and SW set. (R393) -/
  | trap (f : Fields)
  /-- Raises the system-call trap 0x14. (R369) -/
  | sysc (f : Fields)
  /-- Returns from a handler to TRAPPC, restoring the mode and arming a single step. (R395) -/
  | eret (f : Fields)
  /-- Saves the trapped context into the region at CTXBUF, updating its saggar entry. (R380) -/
  | ctxsv (f : Fields)
  /-- Saves the cluster image: B store, tags, snapshots, circular buffers and event lines. (R382) -/
  | ctxsvCl (f : Fields)
  /-- Restores a context from its region, recomputing norm slots and entering spilled messages. (R381) -/
  | ctxld (f : Fields)
  /-- Restores a cluster image. (R382) -/
  | ctxldCl (f : Fields)
  /-- Removes the translations of one page and PID from every station of the package and waits. (R370) -/
  | stinvVa (f : Fields)
  /-- Removes every translation of one PID. (R370) -/
  | stinvPid (f : Fields)
  /-- Removes every translation. (R370) -/
  | stinvAll (f : Fields)
  /-- Raises the breakpoint trap 0x13. (R394) -/
  | brk (f : Fields)
  /-- Writes a kind-2 state-change trace record when tracing is on. (R396) -/
  | tmark (f : Fields)
  /-- A kernel write of RETIRED sets the count so that the next instruction reads the value written. (R410) -/
  | mtsRetired (f : Fields)
  /-- A write of CYCLE on a control core sets the package counter from the next fabric cycle. (R410) -/
  | mtsCycle (f : Fields)
  /-- A write of SENSINJ injects or releases sensor readings for a die and sensor kind. (R409) -/
  | sensinjWrite (f : Fields)
  /-- Setting HALT requests a debug halt of the core. (R388) -/
  | dbgctlHalt
  /-- Setting STEP arms a single-step trap after the next ERET. (R388) -/
  | dbgctlStep
  /-- Setting or clearing QUIESCE pauses or resumes the engine work of a halted context. (R389) -/
  | dbgctlQuiesce (on : Bool)
  /-- A store to a barrier line's MASK, which releases the line when every core of the new mask has arrived. (R242) -/
  | barrierMaskWrite (b : Nat) (mask : BitVec 8)
  /-- A store to ARRIVE arrives without waiting, releasing the line when it completes the mask. (R242) -/
  | barrierArrive (b core : Nat)
  /-- A load of SYNC arrives and waits for the release. (R242) -/
  | barrierSync (b core : Nat)
  /-- A load of LOCK is granted the mutex or queues for it. (R243) -/
  | mutexLock (x core : Nat)
  /-- A load of TRY takes a free mutex or returns 0. (R243) -/
  | mutexTry (x core : Nat)
  /-- A store to UNLOCK frees the mutex or grants it to the earliest waiter. (R243) -/
  | mutexUnlock (x core : Nat)
  /-- A W1C store clears a mutex's sticky ERR. (R243) -/
  | mutexErrClear (x : Nat)
  /-- A store to PEND sets the signal count and clears SAT. (R244) -/
  | eventPendWrite (e : Nat) (v : BitVec 16)
  /-- A store to SIG adds signals to PEND, saturating, and wakes up to that many waiters. (R244) -/
  | eventSig (e : Nat) (n : BitVec 16)
  /-- A load of WAIT takes one signal or waits in order. (R244) -/
  | eventWait (e core : Nat)
  /-- An event message from EVSIG.R lands at its destination line, within 200 ns. (R245) -/
  | eventMessageLand (e : Nat)
  /-- A clock-gated core resumes issue after the release, value or write that ends its wait. (R247) -/
  | waitWake
  /-- A pending asynchronous request is taken at a boundary, completing issued work and entering the handler. (R372) -/
  | trapEntry
  /-- A station accepts or refuses a global access after translation, raising its precise traps. (R81) -/
  | stationAccept (who : Requester) (k : AccKind) (va : Word)
  /-- A station walks the page table from XLROOT, reading each entry at its home. (R358) -/
  | pageWalk (who : Requester) (va : Word)
  /-- A global read or write is performed at its home in arrival order, held for its vector-clock predecessors. (R204) -/
  | globalAccessPerform (k : Nat)
  /-- Global load data arrives and is written to the destination, or raises 0x11 at the first reader. (R81) -/
  | globalLoadReturn (k : Nat)
  /-- The executing bank ALU performs one atomic read-modify-write. (R229) -/
  | bankAluAtomic (op : AtomForm) (fmt : BitVec 5) (pa : Nat) (b d : Word)
  /-- A slice line moves to the issuing cluster's atomic line buffer for .LOC execution. (R232) -/
  | atomicLineMove (line cluster : Nat)
  /-- A moved line returns home on eviction, a foreign access, TAKE, PUT, REDA or the end of the partition. (R233) -/
  | atomicLineReturn (line : LineReturn)
  /-- The bank ALU accepts or refuses a rank's arrival and folds the result when the last rank is in. (R238) -/
  | redaArrival (pa : HomeWord) (rank : BitVec 16) (v : Word)
  /-- A TAKE or TAKE.K reaches its slice and reads the word or is appended to the deferred list. (R235) -/
  | feTakeAtHome (pa : HomeWord) (keep : Bool) (core : Nat)
  /-- A PUT reaches its slice, fills the word and serves the deferred entries. (R235) -/
  | fePutAtHome (pa : HomeWord) (v : Word)
  /-- A fence completes once its scoped accesses are performed. (R218) -/
  | fenceComplete
  /-- The cluster task scheduler starts a command once every conflicting earlier command or job has completed. (R148) -/
  | kilnCommandStart (k : Nat)
  /-- The arbiter grants slice-pass starts to the core queues in weighted rounds. (R151) -/
  | slicePassGrant
  /-- A slice pass finishes in its macro and adds its slice sums to the accumulator. (R136) -/
  | slicePassComplete
  /-- A KEST chooses its exact slices, case and draws after its start. (R171) -/
  | kestSelection
  /-- A Kiln command completes, releasing conflicting commands and joins. (R152) -/
  | kilnCommandComplete (k : Nat)
  /-- A 64-cycle window ends, resetting the start counts and refilling the credits. (R350) -/
  | kilnBudgetWindow
  /-- An 8-byte read of CLAIM performs a slot claim at the descriptor's bank ALU. (R251) -/
  | queueClaim (pa : Nat)
  /-- A software store to STAT clears sticky bits; clearing FAULT restarts a stopped queue. (R252) -/
  | queueStatWrite (pa : Nat) (v : Word)
  /-- The engine reads the next slot once its sequence number appears, checking and refusing bad packets. (R252) -/
  | packetRead (q : Nat)
  /-- The scheduler starts a copy job when its footprint conflicts are clear, up to 4 in flight. (R265) -/
  | copyJobStart (j : Nat)
  /-- The engine moves up to 64 bytes of a job in one arithmetic cycle. (R266) -/
  | copyBurst (j : Nat)
  /-- The engine reads and starts the next linked packet after the current one completes. (R263) -/
  | linkPacketRead (j : Nat)
  /-- A clipping packet delivers a clip message to the mailbox after its payload and before its stamp. (R260) -/
  | clipMessage (j : Nat)
  /-- The stamp stage writes the job's stamp after every payload write, in sequence order, and advances DONE. (R261) -/
  | stampWrite (j : Nat)
  /-- A read stream reads an element ahead, holding any fault for the pop. (R130) -/
  | streamReadAhead (q : Nat)
  /-- A buffered stream push is written to memory in push order. (R130) -/
  | streamPushWrite (q : Nat)
  /-- Mboith forms a partition from a launch descriptor, loads the image and enqueues the initial records. (R301) -/
  | launch (who : Requester) (desc : Word) (pnum : BitVec 16) (clusters : List Nat) (number : BitVec 16)
  /-- Records in an overflow ring return in order to the launch queue as it drains. (R306) -/
  | overflowReturn
  /-- The head record is dispatched onto the lowest free cores once enough are free. (R308) -/
  | taskDispatch
  /-- After 4 releases, a waiting head record is moved to a reserved cluster. (R334) -/
  | recordReservation (pidx : Nat)
  /-- After 2 more releases, Mboith migrates gangs away from the reserved cluster at a barrier. (R334) -/
  | gangMigration (cores : BitVec 8) (dest : Nat)
  /-- When every task has ended, Mboith writes the launch's completion stamp. (R302) -/
  | launchComplete
  /-- The barrier that closes the compute phase releases, starting the exchange phase at X0. (R314) -/
  | computeBarrierRelease
  /-- The exchange engine reads and checks an entry and starts its transfer at X0 + CYC. (R316) -/
  | exchangeTransferStart (linkTaken : Bool)
  /-- The last byte of an exchange transfer lands at its exact fabric cycle. (R316) -/
  | exchangeLanding (k : Nat)
  /-- The barrier that closes the exchange phase releases and delivered records enter the launch queues. (R314) -/
  | exchangeBarrierRelease (records : List ArrivedRecord)
  /-- A cluster starts its compute phase and raises SSTEPN at its staggered release cycle. (R353) -/
  | computePhaseStart
  /-- A message reaches its address's mailbox, or is spilled when the context is not resident. (R326) -/
  | messageDelivery (core : Nat) (data : Vec)
  /-- A gear-N cluster is handed over to F around an exchange phase and back. (R344) -/
  | gearLift (on : Bool)
  /-- A gear change stops the arithmetic clock for 400 ns while the island changes rail. (R342) -/
  | railHandover (n : Bool)
  /-- The clock resumes at the new gear after the 400 ns handover. (R342) -/
  | handoverComplete
  /-- Every 10 µs the controller refreshes CONE and KGOV, sets sub-levels and steps the refresh multipliers. (R346) -/
  | controlInterval (c t : Nat) (boost : Bool) (dly : BitVec 8) (stag : BitVec 2)
  /-- The supply falling below its threshold makes the detector double the arithmetic clock period. (R354) -/
  | sagStretch
  /-- After 16 stretched cycles and recovery of the supply, the plain clock period returns. (R354) -/
  | sagHoldEnd
  /-- A calibrated reading raises the refresh multipliers and enters thermal stages at their levels. (R205) -/
  | sensorReading (die kind sensor : Nat) (temp : BitVec 8)
  /-- A half-channel refresh starts on its spacing and blocks that half for 120 ns. (R206) -/
  | dramRefresh (channel layer : Nat)
  /-- A refresh ends and the accesses held in that half proceed. (R206) -/
  | refreshEnd (channel layer : Nat)
  /-- A background scrub reads DRAM or HBM and poisons any uncorrectable granule. (R207) -/
  | scrub (pa : Nat) (bad : Bool)
  /-- REMAIN reaching 0 raises trap 0x10, or is a kernel crash on a control core. (R397) -/
  | watchdogExpiry
  /-- A submission reaches its die's sequencer and joins the current beat's batch. (R278) -/
  | sequencerSubmission (key : TxKey) (tiles : List (Nat × Bool))
  /-- At the end of each 256-cycle beat the sequencer closes its batch and sends it through the domain exchange. (R280) -/
  | beatEnd (beat : Nat)
  /-- The merged order of a beat becomes known at every home slice, which accept its requests. (R280) -/
  | orderMerged (beat : Nat) (others : List (TxKey × List (Nat × Bool)))
  /-- A home slice grants a queued request once no conflicting earlier request is unreleased. (R283) -/
  | sliceGrant (k : Nat)
  /-- A transaction's full grant reaches its context. (R283) -/
  | grantDelivery
  /-- A release is performed at a home slice as one event, freeing later requests. (R287) -/
  | releasePerform (key : TxKey)
  /-- A stop of kind STOP makes each reached core take trap 0x17. (R387) -/
  | haltTreeStop
  /-- A stop of kind FREEZE stops each core clock-gated in place and sets FRZ. (R387) -/
  | haltTreeFreeze
  /-- A control-core crash freezes every partition, resets the control cores and writes a sherd event. (R400) -/
  | kernelCrash (reason : Nat)
  /-- The control cores reload Mboith and re-adopt saved or frozen contexts from the saggar. (R401) -/
  | warmReboot
  /-- The boot core loads from flash, copies the sherd record and writes the protected image. (R408) -/
  | coldBoot (image : List (Nat × BitVec 8))
  /-- A function passes its self-test, sets its readiness bit and releases the accesses held for it. (R14) -/
  | selfTestPass (offset n : Nat)
  /-- A function is declared failed, and its held accesses raise trap 0x11. (R14) -/
  | functionFailed (offset n : Nat)
  /-- A Roslek Link that cannot deliver is declared failed. (R207) -/
  | linkFailed (link : Nat)
  /-- A host read through a BAR or CXL.mem window is translated under the function's PID. (R366) -/
  | hostRead (fn : Nat) (addr : Word) (n : Nat)
  /-- A host write through a window is translated, or dropped when it faults. (R366) -/
  | hostWrite (fn : Nat) (addr : Word) (n : Nat) (v : Vec)
  /-- An access from a peer package arrives over the Roslek Links and is served at its home. (R201) -/
  | remoteAccess (pkg : Nat) (pa : Nat) (n : Nat) (w : Option Word)
  /-- A narrowed export window takes effect at every station before it is acknowledged. (R367) -/
  | exportWindowNarrow (pkg n : Nat) (w : ExportWindow)
  /-- Mboith forms a load-store domain, assigning package ranks, setting LPKG, LDIE.GDIE and the exchange depth H, and publishing the export tables. (R201) -/
  | domainFormation (rank n : Nat) (tables : List (Nat × ExportWindow))
  /-- A pre-emption request (cause 0x15, TRAPVAL 0) arrives at a core and becomes pending. (R373) -/
  | preemptionRequest
  /-- Mboith discards a member's context after a trap: it ends the task as stopped, releases any transaction and sets launch stamp bit 60 or 61. (R310) -/
  | contextDiscard
  /-- An outbound continuation record crosses the mesh in an exchange phase and is delivered to its destination cluster, or stays queued for the next phase. (R317) -/
  | recordDelivery
deriving DecidableEq, Repr

end Sys2Proof
end

