-- ==== Sys2Proof/Machine/OpTable.lean ====
section
/-! DEFINITION. The instruction tables of the manual as data: opcode, selectors, and the operand kinds and register
classes that each field permits (Tables 5-2, 5-6, 5-8, 5-9, 6-2 to 6-5, 6-10, 7-3, 8-8, 12-1, 13-6, 15-1, 17-9 and the
tables of R106, R343, R368, R379, R392), the prefix fields each instruction consumes (R32), and the limits that a
description places on the value that an operand field delivers (R411). -/

namespace Sys2Proof

/-- The register classes of R27, R79 and R110. -/
inductive RegCls where
  | none   -- no register
  | s      -- s0 to s63
  | sz     -- s0 to s63, zr
  | sm     -- s0 to s63, m0 to m7, zr
  | m      -- m0 to m7
  | v      -- v0 to v31
  | vd     -- v0 to v31, q0 to q7
  | vs     -- v0 to v31, q0 to q7, ln, zr, s0 to s63
  | q      -- q0 to q7
  | p      -- predicate-typed
  | acc    -- accumulator-typed
  | blank  -- only the unused field 0x00_0000
deriving DecidableEq, Repr

/-- The register numbers a class accepts (Table 2-5, R26, R27). -/
def RegCls.accepts (c : RegCls) (n : BitVec 7) : Bool :=
  match c with
  | .none => false
  | .s => n.ult 64
  | .sz => n.ult 64 || n == 112
  | .sm => n.ult 64 || (104#7 ≤ n && n ≤ 112#7)
  | .m => 104#7 ≤ n && n ≤ 111#7
  | .v => 64#7 ≤ n && n ≤ 95#7
  | .vd => 64#7 ≤ n && n ≤ 103#7
  | .vs => n.ult 104 || n == 112 || n == 113
  | .q => 96#7 ≤ n && n ≤ 103#7
  | .p => n.ult 8
  | .acc => n.ult 16
  | .blank => n == 0

/-- What one operand field permits: a register class, and the kinds immediate, local direct address and literal. -/
structure OpSpec where
  cls : RegCls
  i : Bool
  l : Bool
  x : Bool
deriving DecidableEq, Repr

/-- A field the instruction does not use: it must be 0x00_0000 (R25). -/
def unused : OpSpec := ⟨.blank, false, false, false⟩

/-- The row of an instruction: opcode, permitted selectors (bit k for selector k), the three fields, whether it
consumes a rounding override and saturation, whether it is a control transfer (R32), whether it needs privilege. -/
structure Spec where
  op : BitVec 10
  sels : BitVec 4
  d : OpSpec
  a : OpSpec
  b : OpSpec
  ovr : Bool
  sat : Bool
  ct : Bool
  priv : Bool
deriving DecidableEq, Repr

/-- An event has no row. -/
def noSpec : Spec := ⟨0, 0, unused, unused, unused, false, false, false, false⟩

/-- A global access is float-typed when its B is an immediate control word with bit 18 set (R99, R126). -/
def floatTyped (f : Fields) : Bool :=
  match f.opB with
  | .imm v => v.getLsbD 18
  | _ => false

/-- The operator of VRED and VSCAN is a float operator, code 8 to 10 (Table 6-4). -/
def floatOperator (f : Fields) : Bool :=
  match f.opB with
  | .imm v => 8#22 ≤ v && v ≤ 10#22
  | _ => false

/-- The instruction's row. -/
def Instr.spec : Instr → Spec
  | .pfx _ => noSpec
  | .add _ => ⟨0x000, 0xf, ⟨.sm, false, false, false⟩, ⟨.sm, true, false, true⟩, ⟨.sm, true, false, true⟩, false, true, false, false⟩
  | .sub _ => ⟨0x001, 0xf, ⟨.sm, false, false, false⟩, ⟨.sm, true, false, true⟩, ⟨.sm, true, false, true⟩, false, true, false, false⟩
  | .mul _ => ⟨0x002, 0xf, ⟨.sm, false, false, false⟩, ⟨.sm, true, false, true⟩, ⟨.sm, true, false, true⟩, false, true, false, false⟩
  | .mulh _ => ⟨0x003, 0xf, ⟨.sm, false, false, false⟩, ⟨.sm, true, false, true⟩, ⟨.sm, true, false, true⟩, false, false, false, false⟩
  | .mulhu _ => ⟨0x004, 0xf, ⟨.sm, false, false, false⟩, ⟨.sm, true, false, true⟩, ⟨.sm, true, false, true⟩, false, false, false, false⟩
  | .div _ => ⟨0x005, 0xf, ⟨.sm, false, false, false⟩, ⟨.sm, true, false, true⟩, ⟨.sm, true, false, true⟩, false, true, false, false⟩
  | .divu _ => ⟨0x006, 0xf, ⟨.sm, false, false, false⟩, ⟨.sm, true, false, true⟩, ⟨.sm, true, false, true⟩, false, false, false, false⟩
  | .rem _ => ⟨0x007, 0xf, ⟨.sm, false, false, false⟩, ⟨.sm, true, false, true⟩, ⟨.sm, true, false, true⟩, false, false, false, false⟩
  | .remu _ => ⟨0x008, 0xf, ⟨.sm, false, false, false⟩, ⟨.sm, true, false, true⟩, ⟨.sm, true, false, true⟩, false, false, false, false⟩
  | .andOp _ => ⟨0x009, 0xf, ⟨.sm, false, false, false⟩, ⟨.sm, true, false, true⟩, ⟨.sm, true, false, true⟩, false, false, false, false⟩
  | .orOp _ => ⟨0x00a, 0xf, ⟨.sm, false, false, false⟩, ⟨.sm, true, false, true⟩, ⟨.sm, true, false, true⟩, false, false, false, false⟩
  | .xor _ => ⟨0x00b, 0xf, ⟨.sm, false, false, false⟩, ⟨.sm, true, false, true⟩, ⟨.sm, true, false, true⟩, false, false, false, false⟩
  | .andn _ => ⟨0x00c, 0xf, ⟨.sm, false, false, false⟩, ⟨.sm, true, false, true⟩, ⟨.sm, true, false, true⟩, false, false, false, false⟩
  | .shl _ => ⟨0x00d, 0xf, ⟨.sm, false, false, false⟩, ⟨.sm, true, false, true⟩, ⟨.sm, true, false, true⟩, false, false, false, false⟩
  | .shr _ => ⟨0x00e, 0xf, ⟨.sm, false, false, false⟩, ⟨.sm, true, false, true⟩, ⟨.sm, true, false, true⟩, false, false, false, false⟩
  | .sar _ => ⟨0x00f, 0xf, ⟨.sm, false, false, false⟩, ⟨.sm, true, false, true⟩, ⟨.sm, true, false, true⟩, false, false, false, false⟩
  | .rotl _ => ⟨0x010, 0xf, ⟨.sm, false, false, false⟩, ⟨.sm, true, false, true⟩, ⟨.sm, true, false, true⟩, false, false, false, false⟩
  | .clz _ => ⟨0x011, 0xf, ⟨.sm, false, false, false⟩, ⟨.sm, true, false, true⟩, unused, false, false, false, false⟩
  | .ctz _ => ⟨0x012, 0xf, ⟨.sm, false, false, false⟩, ⟨.sm, true, false, true⟩, unused, false, false, false, false⟩
  | .popc _ => ⟨0x013, 0xf, ⟨.sm, false, false, false⟩, ⟨.sm, true, false, true⟩, unused, false, false, false, false⟩
  | .min _ => ⟨0x014, 0xf, ⟨.sm, false, false, false⟩, ⟨.sm, true, false, true⟩, ⟨.sm, true, false, true⟩, false, false, false, false⟩
  | .max _ => ⟨0x015, 0xf, ⟨.sm, false, false, false⟩, ⟨.sm, true, false, true⟩, ⟨.sm, true, false, true⟩, false, false, false, false⟩
  | .minu _ => ⟨0x016, 0xf, ⟨.sm, false, false, false⟩, ⟨.sm, true, false, true⟩, ⟨.sm, true, false, true⟩, false, false, false, false⟩
  | .maxu _ => ⟨0x017, 0xf, ⟨.sm, false, false, false⟩, ⟨.sm, true, false, true⟩, ⟨.sm, true, false, true⟩, false, false, false, false⟩
  | .abs _ => ⟨0x018, 0xf, ⟨.sm, false, false, false⟩, ⟨.sm, true, false, true⟩, unused, false, true, false, false⟩
  | .neg _ => ⟨0x019, 0xf, ⟨.sm, false, false, false⟩, ⟨.sm, true, false, true⟩, unused, false, true, false, false⟩
  | .sext _ => ⟨0x01a, 0xe, ⟨.sm, false, false, false⟩, ⟨.sm, true, false, true⟩, unused, false, false, false, false⟩
  | .zext _ => ⟨0x01b, 0xe, ⟨.sm, false, false, false⟩, ⟨.sm, true, false, true⟩, unused, false, false, false, false⟩
  | .bfx _ => ⟨0x01c, 0x1, ⟨.sm, false, false, false⟩, ⟨.sm, true, false, true⟩, ⟨.sm, true, false, false⟩, false, false, false, false⟩
  | .bfi _ => ⟨0x01d, 0x1, ⟨.sm, false, false, false⟩, ⟨.sm, true, false, true⟩, ⟨.sm, true, false, false⟩, false, false, false, false⟩
  | .lea _ => ⟨0x01e, 0xf, ⟨.sm, false, false, false⟩, ⟨.sm, false, true, true⟩, ⟨.sm, true, false, true⟩, false, false, false, false⟩
  | .mov _ => ⟨0x01f, 0xf, ⟨.sm, false, false, false⟩, ⟨.sm, true, true, true⟩, unused, false, false, false, false⟩
  | .sel _ => ⟨0x020, 0xf, ⟨.sm, false, false, false⟩, ⟨.sm, true, false, true⟩, ⟨.sm, true, false, true⟩, false, false, false, false⟩
  | .cmp _ => ⟨0x021, 0xf, ⟨.none, true, false, false⟩, ⟨.sm, true, false, true⟩, ⟨.sm, true, false, true⟩, false, false, false, false⟩
  | .plog _ => ⟨0x022, 0x1, ⟨.none, true, false, false⟩, ⟨.p, false, false, false⟩, ⟨.p, false, false, false⟩, false, false, false, false⟩
  | .fadd _ => ⟨0x040, 0xf, ⟨.sz, false, false, false⟩, ⟨.sz, true, false, true⟩, ⟨.sz, true, false, true⟩, true, true, false, false⟩
  | .fsub _ => ⟨0x041, 0xf, ⟨.sz, false, false, false⟩, ⟨.sz, true, false, true⟩, ⟨.sz, true, false, true⟩, true, true, false, false⟩
  | .fmul _ => ⟨0x042, 0xf, ⟨.sz, false, false, false⟩, ⟨.sz, true, false, true⟩, ⟨.sz, true, false, true⟩, true, true, false, false⟩
  | .ffma _ => ⟨0x043, 0xf, ⟨.sz, false, false, false⟩, ⟨.sz, true, false, true⟩, ⟨.sz, true, false, true⟩, true, true, false, false⟩
  | .fdiv _ => ⟨0x044, 0xf, ⟨.sz, false, false, false⟩, ⟨.sz, true, false, true⟩, ⟨.sz, true, false, true⟩, true, true, false, false⟩
  | .fsqrt _ => ⟨0x045, 0xf, ⟨.sz, false, false, false⟩, ⟨.sz, true, false, true⟩, unused, true, true, false, false⟩
  | .fmin _ => ⟨0x046, 0xf, ⟨.sz, false, false, false⟩, ⟨.sz, true, false, true⟩, ⟨.sz, true, false, true⟩, false, false, false, false⟩
  | .fmax _ => ⟨0x047, 0xf, ⟨.sz, false, false, false⟩, ⟨.sz, true, false, true⟩, ⟨.sz, true, false, true⟩, false, false, false, false⟩
  | .fcmp _ => ⟨0x048, 0xf, ⟨.none, true, false, false⟩, ⟨.sz, true, false, true⟩, ⟨.sz, true, false, true⟩, false, false, false, false⟩
  | .fcvt _ => ⟨0x049, 0x1, ⟨.sz, false, false, false⟩, ⟨.sz, true, false, true⟩, ⟨.none, true, false, false⟩, true, true, false, false⟩
  | .fcvti _ => ⟨0x04a, 0xf, ⟨.sz, false, false, false⟩, ⟨.sz, true, false, true⟩, ⟨.none, true, false, false⟩, true, false, false, false⟩
  | .icvtf _ => ⟨0x04b, 0xf, ⟨.sz, false, false, false⟩, ⟨.sz, true, false, true⟩, ⟨.none, true, false, false⟩, true, false, false, false⟩
  | .fclass _ => ⟨0x04c, 0xf, ⟨.sz, false, false, false⟩, ⟨.sz, true, false, true⟩, unused, false, false, false, false⟩
  | .fabs _ => ⟨0x04d, 0xf, ⟨.sz, false, false, false⟩, ⟨.sz, true, false, true⟩, unused, false, false, false, false⟩
  | .fneg _ => ⟨0x04e, 0xf, ⟨.sz, false, false, false⟩, ⟨.sz, true, false, true⟩, unused, false, false, false, false⟩
  | .ldl _ => ⟨0x060, 0xf, ⟨.sm, false, false, false⟩, ⟨.sz, false, true, false⟩, ⟨.sz, true, false, false⟩, false, false, false, false⟩
  | .stl _ => ⟨0x061, 0xf, ⟨.sm, true, false, true⟩, ⟨.sz, false, true, false⟩, ⟨.sz, true, false, false⟩, false, false, false, false⟩
  | .ldg f => ⟨0x062, 0xf, ⟨.sm, false, false, false⟩, ⟨.sz, false, false, true⟩, ⟨.sz, true, false, false⟩, (floatTyped f), false, false, false⟩
  | .stg f => ⟨0x063, 0xf, ⟨.sm, true, false, true⟩, ⟨.sz, false, false, true⟩, ⟨.sz, true, false, false⟩, (floatTyped f), false, false, false⟩
  | .pref _ => ⟨0x064, 0x1, unused, ⟨.sz, false, false, true⟩, ⟨.sz, true, false, false⟩, false, false, false, false⟩
  | .br _ => ⟨0x080, 0x1, unused, ⟨.none, true, true, false⟩, unused, false, false, true, false⟩
  | .call _ => ⟨0x081, 0x1, unused, ⟨.s, true, true, false⟩, unused, false, false, true, false⟩
  | .ret _ => ⟨0x082, 0x1, unused, unused, unused, false, false, true, false⟩
  | .jmp _ => ⟨0x083, 0x1, unused, ⟨.s, false, true, false⟩, unused, false, false, true, false⟩
  | .loop _ => ⟨0x084, 0xf, ⟨.s, false, false, false⟩, ⟨.none, true, true, false⟩, unused, false, false, true, false⟩
  | .rep _ => ⟨0x085, 0x1, unused, ⟨.s, true, false, false⟩, ⟨.none, true, false, false⟩, false, false, true, false⟩
  | .nop _ => ⟨0x086, 0x1, unused, unused, unused, false, false, false, false⟩
  | .stop _ => ⟨0x087, 0x1, unused, ⟨.blank, true, false, false⟩, unused, false, false, true, false⟩
  | .vadd _ => ⟨0x100, 0xf, ⟨.vd, false, false, false⟩, ⟨.vs, true, false, true⟩, ⟨.vs, true, false, true⟩, false, true, false, false⟩
  | .vsub _ => ⟨0x101, 0xf, ⟨.vd, false, false, false⟩, ⟨.vs, true, false, true⟩, ⟨.vs, true, false, true⟩, false, true, false, false⟩
  | .vmul _ => ⟨0x102, 0xf, ⟨.vd, false, false, false⟩, ⟨.vs, true, false, true⟩, ⟨.vs, true, false, true⟩, false, true, false, false⟩
  | .vmulh _ => ⟨0x103, 0xf, ⟨.vd, false, false, false⟩, ⟨.vs, true, false, true⟩, ⟨.vs, true, false, true⟩, false, false, false, false⟩
  | .vmin _ => ⟨0x104, 0xf, ⟨.vd, false, false, false⟩, ⟨.vs, true, false, true⟩, ⟨.vs, true, false, true⟩, false, false, false, false⟩
  | .vmax _ => ⟨0x105, 0xf, ⟨.vd, false, false, false⟩, ⟨.vs, true, false, true⟩, ⟨.vs, true, false, true⟩, false, false, false, false⟩
  | .vand _ => ⟨0x106, 0xf, ⟨.vd, false, false, false⟩, ⟨.vs, true, false, true⟩, ⟨.vs, true, false, true⟩, false, false, false, false⟩
  | .vor _ => ⟨0x107, 0xf, ⟨.vd, false, false, false⟩, ⟨.vs, true, false, true⟩, ⟨.vs, true, false, true⟩, false, false, false, false⟩
  | .vxor _ => ⟨0x108, 0xf, ⟨.vd, false, false, false⟩, ⟨.vs, true, false, true⟩, ⟨.vs, true, false, true⟩, false, false, false, false⟩
  | .vshl _ => ⟨0x109, 0xf, ⟨.vd, false, false, false⟩, ⟨.vs, true, false, true⟩, ⟨.vs, true, false, true⟩, false, false, false, false⟩
  | .vshr _ => ⟨0x10a, 0xf, ⟨.vd, false, false, false⟩, ⟨.vs, true, false, true⟩, ⟨.vs, true, false, true⟩, false, false, false, false⟩
  | .vsar _ => ⟨0x10b, 0xf, ⟨.vd, false, false, false⟩, ⟨.vs, true, false, true⟩, ⟨.vs, true, false, true⟩, false, false, false, false⟩
  | .vabs _ => ⟨0x10c, 0xf, ⟨.vd, false, false, false⟩, ⟨.vs, true, false, true⟩, unused, false, true, false, false⟩
  | .vneg _ => ⟨0x10d, 0xf, ⟨.vd, false, false, false⟩, ⟨.vs, true, false, true⟩, unused, false, true, false, false⟩
  | .vcmp _ => ⟨0x10e, 0xf, ⟨.none, true, false, false⟩, ⟨.vs, true, false, true⟩, ⟨.vs, true, false, true⟩, false, false, false, false⟩
  | .vsel _ => ⟨0x10f, 0xf, ⟨.vd, false, false, false⟩, ⟨.m, false, false, false⟩, ⟨.vs, true, false, true⟩, false, false, false, false⟩
  | .vclamp _ => ⟨0x110, 0xf, ⟨.vd, false, false, false⟩, ⟨.vs, true, false, true⟩, ⟨.vs, true, false, true⟩, false, false, false, false⟩
  | .vfadd _ => ⟨0x120, 0xf, ⟨.vd, false, false, false⟩, ⟨.vs, true, false, true⟩, ⟨.vs, true, false, true⟩, true, true, false, false⟩
  | .vfsub _ => ⟨0x121, 0xf, ⟨.vd, false, false, false⟩, ⟨.vs, true, false, true⟩, ⟨.vs, true, false, true⟩, true, true, false, false⟩
  | .vfmul _ => ⟨0x122, 0xf, ⟨.vd, false, false, false⟩, ⟨.vs, true, false, true⟩, ⟨.vs, true, false, true⟩, true, true, false, false⟩
  | .vfma _ => ⟨0x123, 0xf, ⟨.vd, false, false, false⟩, ⟨.vs, true, false, true⟩, ⟨.vs, true, false, true⟩, true, true, false, false⟩
  | .vfdiv _ => ⟨0x124, 0xf, ⟨.vd, false, false, false⟩, ⟨.vs, true, false, true⟩, ⟨.vs, true, false, true⟩, true, true, false, false⟩
  | .vfsqrt _ => ⟨0x125, 0xf, ⟨.vd, false, false, false⟩, ⟨.vs, true, false, true⟩, unused, true, true, false, false⟩
  | .vfrsq _ => ⟨0x126, 0xf, ⟨.vd, false, false, false⟩, ⟨.vs, true, false, true⟩, unused, true, true, false, false⟩
  | .vfexp2 _ => ⟨0x127, 0xf, ⟨.vd, false, false, false⟩, ⟨.vs, true, false, true⟩, unused, true, true, false, false⟩
  | .vflog2 _ => ⟨0x128, 0xf, ⟨.vd, false, false, false⟩, ⟨.vs, true, false, true⟩, unused, true, true, false, false⟩
  | .vfmin _ => ⟨0x129, 0xf, ⟨.vd, false, false, false⟩, ⟨.vs, true, false, true⟩, ⟨.vs, true, false, true⟩, false, false, false, false⟩
  | .vfmax _ => ⟨0x12a, 0xf, ⟨.vd, false, false, false⟩, ⟨.vs, true, false, true⟩, ⟨.vs, true, false, true⟩, false, false, false, false⟩
  | .vfcmp _ => ⟨0x12b, 0xf, ⟨.none, true, false, false⟩, ⟨.vs, true, false, true⟩, ⟨.vs, true, false, true⟩, false, false, false, false⟩
  | .vcvt _ => ⟨0x140, 0x1, ⟨.vd, false, false, false⟩, ⟨.vs, true, false, true⟩, ⟨.none, true, false, false⟩, true, true, false, false⟩
  | .vpack _ => ⟨0x141, 0xe, ⟨.vd, false, false, false⟩, ⟨.vs, true, false, true⟩, ⟨.vs, true, false, true⟩, false, true, false, false⟩
  | .vunpk _ => ⟨0x142, 0x7, ⟨.vd, false, false, false⟩, ⟨.vs, false, false, false⟩, ⟨.none, true, false, false⟩, false, false, false, false⟩
  | .vshuf _ => ⟨0x143, 0xf, ⟨.vd, false, false, false⟩, ⟨.vs, false, false, false⟩, ⟨.vs, false, false, false⟩, false, false, false, false⟩
  | .vbcast _ => ⟨0x144, 0xf, ⟨.vd, false, false, false⟩, ⟨.vs, false, false, false⟩, ⟨.sz, true, false, false⟩, false, false, false, false⟩
  | .vextr _ => ⟨0x145, 0xf, ⟨.sz, false, false, false⟩, ⟨.vs, false, false, false⟩, ⟨.sz, true, false, false⟩, false, false, false, false⟩
  | .vins _ => ⟨0x146, 0xf, ⟨.v, false, false, false⟩, ⟨.sz, true, false, true⟩, ⟨.sz, true, false, false⟩, false, false, false, false⟩
  | .vred f => ⟨0x147, 0xf, ⟨.sz, false, false, false⟩, ⟨.vs, false, false, false⟩, ⟨.none, true, false, false⟩, (floatOperator f), false, false, false⟩
  | .vscan f => ⟨0x148, 0xf, ⟨.vd, false, false, false⟩, ⟨.vs, false, false, false⟩, ⟨.none, true, false, false⟩, (floatOperator f), false, false, false⟩
  | .vqnt _ => ⟨0x149, 0xf, ⟨.vd, false, false, false⟩, ⟨.vs, false, false, false⟩, ⟨.sz, true, false, true⟩, false, false, false, false⟩
  | .vdqnt _ => ⟨0x14a, 0xf, ⟨.vd, false, false, false⟩, ⟨.vs, false, false, false⟩, ⟨.sz, true, false, true⟩, false, false, false, false⟩
  | .vcbd _ => ⟨0x14b, 0x4, ⟨.vd, false, false, false⟩, ⟨.vs, false, false, false⟩, ⟨.sz, false, false, true⟩, true, true, false, false⟩
  | .vcbdLt _ => ⟨0x14b, 0x1, unused, ⟨.sz, false, true, true⟩, ⟨.none, true, false, false⟩, false, false, false, false⟩
  | .lsupd _ => ⟨0x14c, 0x1, ⟨.sz, false, false, false⟩, ⟨.sz, false, false, false⟩, unused, false, false, false, false⟩
  | .vldl _ => ⟨0x160, 0xf, ⟨.v, false, false, false⟩, ⟨.sz, false, true, false⟩, ⟨.sz, true, false, false⟩, false, false, false, false⟩
  | .vstl _ => ⟨0x161, 0xf, ⟨.vs, true, false, true⟩, ⟨.sz, false, true, false⟩, ⟨.sz, true, false, false⟩, false, false, false, false⟩
  | .vldg f => ⟨0x162, 0xf, ⟨.v, false, false, false⟩, ⟨.sz, false, false, true⟩, ⟨.sz, true, false, false⟩, (floatTyped f), false, false, false⟩
  | .vstg f => ⟨0x163, 0xf, ⟨.vs, true, false, true⟩, ⟨.sz, false, false, true⟩, ⟨.sz, true, false, false⟩, (floatTyped f), false, false, false⟩
  | .vgath _ => ⟨0x164, 0x3, ⟨.v, false, false, false⟩, ⟨.sz, false, true, true⟩, ⟨.vs, false, false, false⟩, false, false, false, false⟩
  | .vscat _ => ⟨0x165, 0x3, ⟨.vs, false, false, false⟩, ⟨.sz, false, true, true⟩, ⟨.vs, false, false, false⟩, false, false, false, false⟩
  | .scfg _ => ⟨0x166, 0x1, ⟨.q, false, false, false⟩, ⟨.sz, false, true, true⟩, ⟨.sz, false, false, true⟩, false, false, false, false⟩
  | .sstat _ => ⟨0x167, 0x1, ⟨.sz, false, false, false⟩, ⟨.q, false, false, false⟩, unused, false, false, false, false⟩
  | .sstatDrain _ => ⟨0x167, 0x2, ⟨.sz, false, false, false⟩, ⟨.q, false, false, false⟩, unused, false, false, false, false⟩
  | .kldb _ => ⟨0x200, 0x1, ⟨.sm, true, false, true⟩, ⟨.sm, false, false, true⟩, unused, false, false, false, false⟩
  | .kmul _ => ⟨0x201, 0x3, ⟨.acc, false, false, false⟩, ⟨.sm, false, false, true⟩, ⟨.sm, true, false, true⟩, false, false, false, false⟩
  | .kmulb _ => ⟨0x202, 0x3, ⟨.acc, false, false, false⟩, ⟨.sm, false, false, true⟩, ⟨.sm, true, false, true⟩, false, false, false, false⟩
  | .kmovR _ => ⟨0x203, 0x1, ⟨.v, false, false, false⟩, ⟨.acc, false, false, false⟩, ⟨.sm, true, false, false⟩, false, false, false, false⟩
  | .kmovW _ => ⟨0x203, 0x2, ⟨.acc, false, false, false⟩, ⟨.v, false, false, false⟩, ⟨.sm, true, false, false⟩, false, false, false, false⟩
  | .kmovRz _ => ⟨0x203, 0x4, ⟨.v, false, false, false⟩, ⟨.acc, false, false, false⟩, ⟨.sm, true, false, false⟩, false, false, false, false⟩
  | .kzero _ => ⟨0x204, 0x1, unused, ⟨.sm, true, false, true⟩, unused, false, false, false, false⟩
  | .kcfg _ => ⟨0x205, 0x1, unused, ⟨.sm, true, false, false⟩, unused, false, false, false, false⟩
  | .kstat _ => ⟨0x206, 0x1, ⟨.sm, false, false, false⟩, unused, unused, false, false, false, false⟩
  | .kstatJ _ => ⟨0x206, 0x2, ⟨.sm, false, false, false⟩, unused, unused, false, false, false, false⟩
  | .kstatJc _ => ⟨0x206, 0x4, ⟨.sm, false, false, false⟩, unused, unused, false, false, false, false⟩
  | .ksync _ => ⟨0x207, 0x1, unused, unused, unused, false, false, false, false⟩
  | .knorm _ => ⟨0x210, 0x1, unused, ⟨.sm, false, false, true⟩, ⟨.sm, true, false, false⟩, false, false, false, false⟩
  | .knormRel _ => ⟨0x210, 0x2, unused, ⟨.sm, true, false, false⟩, unused, false, false, false, false⟩
  | .kest _ => ⟨0x211, 0x3, ⟨.acc, false, false, false⟩, ⟨.sm, false, false, true⟩, ⟨.sm, true, false, true⟩, false, false, false, false⟩
  | .kevar _ => ⟨0x212, 0x1, ⟨.sm, false, false, false⟩, ⟨.acc, false, false, false⟩, unused, false, false, false, false⟩
  | .kseed _ => ⟨0x213, 0x1, unused, ⟨.sm, true, false, true⟩, ⟨.sm, true, false, true⟩, false, false, false, false⟩
  | .kseedTc _ => ⟨0x213, 0x2, unused, ⟨.sm, true, false, true⟩, unused, false, false, false, false⟩
  | .klim _ => ⟨0x214, 0x1, unused, ⟨.sm, true, false, true⟩, ⟨.sm, true, false, true⟩, false, false, false, false⟩
  | .cpost _ => ⟨0x220, 0x1, ⟨.sm, false, false, false⟩, ⟨.sz, false, false, true⟩, ⟨.sz, true, true, false⟩, false, false, false, false⟩
  | .cgath _ => ⟨0x221, 0x1, ⟨.sm, false, false, false⟩, ⟨.sz, false, false, true⟩, ⟨.sz, true, true, false⟩, false, false, false, false⟩
  | .cwin _ => ⟨0x222, 0x1, ⟨.sm, false, false, false⟩, ⟨.sz, false, false, true⟩, ⟨.sz, true, true, false⟩, false, false, false, false⟩
  | .clink _ => ⟨0x223, 0x1, unused, ⟨.sz, true, true, false⟩, ⟨.sm, false, false, true⟩, false, false, false, false⟩
  | .cbinit _ => ⟨0x224, 0x1, ⟨.sz, true, false, false⟩, ⟨.sm, false, false, true⟩, unused, false, false, false, false⟩
  | .cbput _ => ⟨0x225, 0x1, unused, ⟨.sz, true, false, false⟩, ⟨.sm, false, false, false⟩, false, false, false, false⟩
  | .cbget _ => ⟨0x226, 0x1, ⟨.sm, false, false, false⟩, ⟨.sz, true, false, false⟩, unused, false, false, false, false⟩
  | .mbxr _ => ⟨0x227, 0x1, ⟨.v, false, false, false⟩, unused, unused, false, false, false, false⟩
  | .mbxrT _ => ⟨0x227, 0x2, ⟨.v, false, false, false⟩, unused, unused, false, false, false, false⟩
  | .tdeclR _ => ⟨0x240, 0x1, unused, ⟨.sz, false, false, true⟩, ⟨.sm, true, false, true⟩, false, false, false, false⟩
  | .tdeclW _ => ⟨0x240, 0x2, unused, ⟨.sz, false, false, true⟩, ⟨.sm, true, false, true⟩, false, false, false, false⟩
  | .tdeclClr _ => ⟨0x240, 0x4, unused, unused, unused, false, false, false, false⟩
  | .tsub _ => ⟨0x241, 0x5, ⟨.sm, false, false, false⟩, unused, unused, false, false, false, false⟩
  | .tsubD _ => ⟨0x241, 0xa, ⟨.sm, false, false, false⟩, unused, unused, false, false, false, false⟩
  | .tend _ => ⟨0x242, 0x1, unused, unused, unused, false, false, false, false⟩
  | .tendG _ => ⟨0x242, 0x2, unused, unused, unused, false, false, false, false⟩
  | .tstat _ => ⟨0x243, 0x1, ⟨.sm, false, false, false⟩, unused, unused, false, false, false, false⟩
  | .tstatW _ => ⟨0x243, 0x2, ⟨.sm, false, false, false⟩, unused, unused, false, false, false, false⟩
  | .aadd _ => ⟨0x260, 0x7, ⟨.sm, false, false, false⟩, ⟨.sz, false, false, true⟩, ⟨.sm, true, false, true⟩, false, false, false, false⟩
  | .aand _ => ⟨0x261, 0x7, ⟨.sm, false, false, false⟩, ⟨.sz, false, false, true⟩, ⟨.sm, true, false, true⟩, false, false, false, false⟩
  | .aor _ => ⟨0x262, 0x7, ⟨.sm, false, false, false⟩, ⟨.sz, false, false, true⟩, ⟨.sm, true, false, true⟩, false, false, false, false⟩
  | .axor _ => ⟨0x263, 0x7, ⟨.sm, false, false, false⟩, ⟨.sz, false, false, true⟩, ⟨.sm, true, false, true⟩, false, false, false, false⟩
  | .amin _ => ⟨0x264, 0x7, ⟨.sm, false, false, false⟩, ⟨.sz, false, false, true⟩, ⟨.sm, true, false, true⟩, false, false, false, false⟩
  | .amax _ => ⟨0x265, 0x7, ⟨.sm, false, false, false⟩, ⟨.sz, false, false, true⟩, ⟨.sm, true, false, true⟩, false, false, false, false⟩
  | .aminu _ => ⟨0x266, 0x7, ⟨.sm, false, false, false⟩, ⟨.sz, false, false, true⟩, ⟨.sm, true, false, true⟩, false, false, false, false⟩
  | .amaxu _ => ⟨0x267, 0x7, ⟨.sm, false, false, false⟩, ⟨.sz, false, false, true⟩, ⟨.sm, true, false, true⟩, false, false, false, false⟩
  | .afadd _ => ⟨0x268, 0x7, ⟨.sm, false, false, false⟩, ⟨.sz, false, false, true⟩, ⟨.sm, true, false, true⟩, true, false, false, false⟩
  | .afmin _ => ⟨0x269, 0x7, ⟨.sm, false, false, false⟩, ⟨.sz, false, false, true⟩, ⟨.sm, true, false, true⟩, false, false, false, false⟩
  | .afmax _ => ⟨0x26a, 0x7, ⟨.sm, false, false, false⟩, ⟨.sz, false, false, true⟩, ⟨.sm, true, false, true⟩, false, false, false, false⟩
  | .aswp _ => ⟨0x26b, 0x7, ⟨.sm, false, false, false⟩, ⟨.sz, false, false, true⟩, ⟨.sm, true, false, true⟩, false, false, false, false⟩
  | .acas _ => ⟨0x26c, 0x7, ⟨.sm, false, false, false⟩, ⟨.sz, false, false, true⟩, ⟨.sm, true, false, true⟩, false, false, false, false⟩
  | .reda _ => ⟨0x26d, 0x1, ⟨.sm, false, false, false⟩, ⟨.sz, false, false, true⟩, ⟨.sm, true, false, true⟩, false, false, false, false⟩
  | .take _ => ⟨0x26e, 0x1, ⟨.sm, false, false, false⟩, ⟨.sz, false, false, true⟩, unused, false, false, false, false⟩
  | .takeK _ => ⟨0x26e, 0x2, ⟨.sm, false, false, false⟩, ⟨.sz, false, false, true⟩, unused, false, false, false, false⟩
  | .put _ => ⟨0x26f, 0x1, ⟨.sm, false, false, false⟩, ⟨.sz, false, false, true⟩, ⟨.sm, true, false, true⟩, false, false, false, false⟩
  | .mwait f => ⟨0x270, 0xf, ⟨.sm, false, false, false⟩, (if f.sel.getLsbD 1 then ⟨.sz, false, true, false⟩ else ⟨.sz, false, false, true⟩), ⟨.sm, true, false, true⟩, false, false, false, false⟩
  | .evwait _ => ⟨0x271, 0x1, ⟨.sm, false, false, false⟩, ⟨.sz, true, false, false⟩, unused, false, false, false, false⟩
  | .evsig _ => ⟨0x272, 0x1, unused, ⟨.sz, true, false, false⟩, unused, false, false, false, false⟩
  | .evsigR _ => ⟨0x272, 0x2, unused, ⟨.sz, true, false, false⟩, ⟨.sz, true, false, false⟩, false, false, false, false⟩
  | .bar _ => ⟨0x273, 0x1, unused, ⟨.sz, true, false, false⟩, unused, false, false, false, false⟩
  | .barG _ => ⟨0x273, 0x2, unused, unused, unused, false, false, false, false⟩
  | .fence _ => ⟨0x274, 0xf, unused, ⟨.none, true, false, false⟩, unused, false, false, false, false⟩
  | .post _ => ⟨0x310, 0x1, unused, ⟨.sz, true, true, false⟩, unused, false, false, false, false⟩
  | .texit _ => ⟨0x311, 0x1, unused, ⟨.sz, true, false, false⟩, unused, false, false, true, false⟩
  | .slave _ => ⟨0x312, 0x1, unused, unused, unused, false, false, false, false⟩
  | .slaveL _ => ⟨0x312, 0x2, unused, ⟨.sm, true, false, false⟩, unused, false, false, false, false⟩
  | .detach _ => ⟨0x313, 0x1, unused, unused, unused, false, false, false, false⟩
  | .xrun _ => ⟨0x314, 0x1, unused, ⟨.sz, true, true, false⟩, ⟨.sm, true, false, false⟩, false, false, false, false⟩
  | .xwait _ => ⟨0x315, 0x1, ⟨.sm, false, false, false⟩, unused, unused, false, false, false, false⟩
  | .xwaitE _ => ⟨0x315, 0x2, ⟨.sm, false, false, false⟩, unused, unused, false, false, false, false⟩
  | .msend _ => ⟨0x316, 0x1, unused, ⟨.sm, true, false, true⟩, ⟨.sz, true, true, false⟩, false, false, false, false⟩
  | .mrecv _ => ⟨0x317, 0x1, ⟨.v, false, false, false⟩, unused, unused, false, false, false, false⟩
  | .mrecvT _ => ⟨0x317, 0x2, ⟨.v, false, false, false⟩, unused, unused, false, false, false, false⟩
  | .gearF _ => ⟨0x318, 0x1, ⟨.sm, false, false, false⟩, unused, unused, false, false, false, false⟩
  | .gearN _ => ⟨0x318, 0x2, ⟨.sm, false, false, false⟩, unused, unused, false, false, false, false⟩
  | .taskq _ => ⟨0x319, 0x1, ⟨.sm, false, false, false⟩, unused, unused, false, false, false, false⟩
  | .mfs _ => ⟨0x330, 0x1, ⟨.sm, false, false, false⟩, ⟨.none, true, false, false⟩, unused, false, false, false, false⟩
  | .mts _ => ⟨0x331, 0x1, ⟨.none, true, false, false⟩, ⟨.sz, true, false, true⟩, unused, false, false, false, false⟩
  | .mtsRetired _ => ⟨0x331, 0x1, ⟨.none, true, false, false⟩, ⟨.sz, true, false, true⟩, unused, false, false, false, false⟩
  | .mtsCycle _ => ⟨0x331, 0x1, ⟨.none, true, false, false⟩, ⟨.sz, true, false, true⟩, unused, false, false, false, false⟩
  | .sensinjWrite _ => ⟨0x331, 0x1, ⟨.none, true, false, false⟩, ⟨.sz, true, false, true⟩, unused, false, false, false, false⟩
  | .trap _ => ⟨0x332, 0x1, unused, ⟨.sz, true, false, false⟩, ⟨.sz, true, false, false⟩, false, false, true, false⟩
  | .sysc _ => ⟨0x333, 0x1, unused, ⟨.sz, true, false, false⟩, unused, false, false, true, false⟩
  | .eret _ => ⟨0x334, 0x1, unused, unused, unused, false, false, true, true⟩
  | .ctxsv _ => ⟨0x335, 0x1, unused, ⟨.none, true, false, false⟩, unused, false, false, false, true⟩
  | .ctxsvCl _ => ⟨0x335, 0x2, unused, ⟨.sm, false, false, false⟩, unused, false, false, false, true⟩
  | .ctxld _ => ⟨0x336, 0x1, unused, unused, unused, false, false, false, true⟩
  | .ctxldCl _ => ⟨0x336, 0x2, unused, ⟨.sm, false, false, false⟩, unused, false, false, false, true⟩
  | .stinvVa _ => ⟨0x337, 0x1, unused, ⟨.sz, false, false, true⟩, ⟨.sz, true, false, false⟩, false, false, false, true⟩
  | .stinvPid _ => ⟨0x337, 0x2, unused, ⟨.sz, true, false, false⟩, unused, false, false, false, true⟩
  | .stinvAll _ => ⟨0x337, 0x4, unused, unused, unused, false, false, false, true⟩
  | .brk _ => ⟨0x338, 0x1, unused, ⟨.sz, true, false, false⟩, unused, false, false, true, false⟩
  | .tmark _ => ⟨0x339, 0x1, unused, ⟨.sz, true, false, true⟩, unused, false, false, false, false⟩
  | .dbgctlHalt => noSpec
  | .dbgctlStep => noSpec
  | .dbgctlQuiesce _ => noSpec
  | .barrierMaskWrite _ _ => noSpec
  | .barrierArrive _ _ => noSpec
  | .barrierSync _ _ => noSpec
  | .mutexLock _ _ => noSpec
  | .mutexTry _ _ => noSpec
  | .mutexUnlock _ _ => noSpec
  | .mutexErrClear _ => noSpec
  | .eventPendWrite _ _ => noSpec
  | .eventSig _ _ => noSpec
  | .eventWait _ _ => noSpec
  | .eventMessageLand _ => noSpec
  | .waitWake => noSpec
  | .trapEntry => noSpec
  | .stationAccept _ _ _ => noSpec
  | .pageWalk _ _ => noSpec
  | .globalAccessPerform _ => noSpec
  | .globalLoadReturn _ => noSpec
  | .bankAluAtomic _ _ _ _ _ => noSpec
  | .atomicLineMove _ _ => noSpec
  | .atomicLineReturn _ => noSpec
  | .redaArrival _ _ _ => noSpec
  | .feTakeAtHome _ _ _ => noSpec
  | .fePutAtHome _ _ => noSpec
  | .fenceComplete => noSpec
  | .kilnCommandStart _ => noSpec
  | .slicePassGrant => noSpec
  | .slicePassComplete => noSpec
  | .kestSelection => noSpec
  | .kilnCommandComplete _ => noSpec
  | .kilnBudgetWindow => noSpec
  | .queueClaim _ => noSpec
  | .queueStatWrite _ _ => noSpec
  | .packetRead _ => noSpec
  | .copyJobStart _ => noSpec
  | .copyBurst _ => noSpec
  | .linkPacketRead _ => noSpec
  | .clipMessage _ => noSpec
  | .stampWrite _ => noSpec
  | .streamReadAhead _ => noSpec
  | .streamPushWrite _ => noSpec
  | .launch _ _ _ _ _ => noSpec
  | .overflowReturn => noSpec
  | .taskDispatch => noSpec
  | .recordReservation _ => noSpec
  | .gangMigration _ _ => noSpec
  | .launchComplete => noSpec
  | .computeBarrierRelease => noSpec
  | .exchangeTransferStart _ => noSpec
  | .exchangeLanding _ => noSpec
  | .exchangeBarrierRelease _ => noSpec
  | .computePhaseStart => noSpec
  | .messageDelivery _ _ => noSpec
  | .gearLift _ => noSpec
  | .railHandover _ => noSpec
  | .handoverComplete => noSpec
  | .controlInterval _ _ _ _ _ => noSpec
  | .sagStretch => noSpec
  | .sagHoldEnd => noSpec
  | .sensorReading _ _ _ _ => noSpec
  | .dramRefresh _ _ => noSpec
  | .refreshEnd _ _ => noSpec
  | .scrub _ _ => noSpec
  | .watchdogExpiry => noSpec
  | .sequencerSubmission _ _ => noSpec
  | .beatEnd _ => noSpec
  | .orderMerged _ _ => noSpec
  | .sliceGrant _ => noSpec
  | .grantDelivery => noSpec
  | .releasePerform _ => noSpec
  | .haltTreeStop => noSpec
  | .haltTreeFreeze => noSpec
  | .kernelCrash _ => noSpec
  | .warmReboot => noSpec
  | .coldBoot _ => noSpec
  | .selfTestPass _ _ => noSpec
  | .functionFailed _ _ => noSpec
  | .linkFailed _ => noSpec
  | .hostRead _ _ _ => noSpec
  | .hostWrite _ _ _ _ => noSpec
  | .remoteAccess _ _ _ _ => noSpec
  | .exportWindowNarrow _ _ _ => noSpec
  | .domainFormation _ _ _ => noSpec
  | .preemptionRequest => noSpec
  | .contextDiscard => noSpec
  | .recordDelivery => noSpec

/-- The fields of an instruction's word; none for an event and for a PFX. -/
def Instr.fields : Instr → Option Fields
  | .pfx _ => none
  | .add f
  | .sub f
  | .mul f
  | .mulh f
  | .mulhu f
  | .div f
  | .divu f
  | .rem f
  | .remu f
  | .andOp f
  | .orOp f
  | .xor f
  | .andn f
  | .shl f
  | .shr f
  | .sar f
  | .rotl f
  | .clz f
  | .ctz f
  | .popc f
  | .min f
  | .max f
  | .minu f
  | .maxu f
  | .abs f
  | .neg f
  | .sext f
  | .zext f
  | .bfx f
  | .bfi f
  | .lea f
  | .mov f
  | .sel f
  | .cmp f
  | .plog f
  | .fadd f
  | .fsub f
  | .fmul f
  | .ffma f
  | .fdiv f
  | .fsqrt f
  | .fmin f
  | .fmax f
  | .fcmp f
  | .fcvt f
  | .fcvti f
  | .icvtf f
  | .fclass f
  | .fabs f
  | .fneg f
  | .ldl f
  | .stl f
  | .ldg f
  | .stg f
  | .pref f
  | .br f
  | .call f
  | .ret f
  | .jmp f
  | .loop f
  | .rep f
  | .nop f
  | .stop f
  | .vadd f
  | .vsub f
  | .vmul f
  | .vmulh f
  | .vmin f
  | .vmax f
  | .vand f
  | .vor f
  | .vxor f
  | .vshl f
  | .vshr f
  | .vsar f
  | .vabs f
  | .vneg f
  | .vcmp f
  | .vsel f
  | .vclamp f
  | .vfadd f
  | .vfsub f
  | .vfmul f
  | .vfma f
  | .vfdiv f
  | .vfsqrt f
  | .vfrsq f
  | .vfexp2 f
  | .vflog2 f
  | .vfmin f
  | .vfmax f
  | .vfcmp f
  | .vcvt f
  | .vpack f
  | .vunpk f
  | .vshuf f
  | .vbcast f
  | .vextr f
  | .vins f
  | .vred f
  | .vscan f
  | .vqnt f
  | .vdqnt f
  | .vcbd f
  | .vcbdLt f
  | .lsupd f
  | .vldl f
  | .vstl f
  | .vldg f
  | .vstg f
  | .vgath f
  | .vscat f
  | .scfg f
  | .sstat f
  | .sstatDrain f
  | .kldb f
  | .kmul f
  | .kmulb f
  | .kmovR f
  | .kmovW f
  | .kmovRz f
  | .kzero f
  | .kcfg f
  | .kstat f
  | .kstatJ f
  | .kstatJc f
  | .ksync f
  | .knorm f
  | .knormRel f
  | .kest f
  | .kevar f
  | .kseed f
  | .kseedTc f
  | .klim f
  | .cpost f
  | .cgath f
  | .cwin f
  | .clink f
  | .cbinit f
  | .cbput f
  | .cbget f
  | .mbxr f
  | .mbxrT f
  | .tdeclR f
  | .tdeclW f
  | .tdeclClr f
  | .tsub f
  | .tsubD f
  | .tend f
  | .tendG f
  | .tstat f
  | .tstatW f
  | .aadd f
  | .aand f
  | .aor f
  | .axor f
  | .amin f
  | .amax f
  | .aminu f
  | .amaxu f
  | .afadd f
  | .afmin f
  | .afmax f
  | .aswp f
  | .acas f
  | .reda f
  | .take f
  | .takeK f
  | .put f
  | .mwait f
  | .evwait f
  | .evsig f
  | .evsigR f
  | .bar f
  | .barG f
  | .fence f
  | .post f
  | .texit f
  | .slave f
  | .slaveL f
  | .detach f
  | .xrun f
  | .xwait f
  | .xwaitE f
  | .msend f
  | .mrecv f
  | .mrecvT f
  | .gearF f
  | .gearN f
  | .taskq f
  | .mfs f
  | .mts f
  | .mtsRetired f
  | .mtsCycle f
  | .sensinjWrite f
  | .trap f
  | .sysc f
  | .eret f
  | .ctxsv f
  | .ctxsvCl f
  | .ctxld f
  | .ctxldCl f
  | .stinvVa f
  | .stinvPid f
  | .stinvAll f
  | .brk f
  | .tmark f => some f
  | .dbgctlHalt => none
  | .dbgctlStep => none
  | .dbgctlQuiesce _ => none
  | .barrierMaskWrite _ _ => none
  | .barrierArrive _ _ => none
  | .barrierSync _ _ => none
  | .mutexLock _ _ => none
  | .mutexTry _ _ => none
  | .mutexUnlock _ _ => none
  | .mutexErrClear _ => none
  | .eventPendWrite _ _ => none
  | .eventSig _ _ => none
  | .eventWait _ _ => none
  | .eventMessageLand _ => none
  | .waitWake => none
  | .trapEntry => none
  | .stationAccept _ _ _ => none
  | .pageWalk _ _ => none
  | .globalAccessPerform _ => none
  | .globalLoadReturn _ => none
  | .bankAluAtomic _ _ _ _ _ => none
  | .atomicLineMove _ _ => none
  | .atomicLineReturn _ => none
  | .redaArrival _ _ _ => none
  | .feTakeAtHome _ _ _ => none
  | .fePutAtHome _ _ => none
  | .fenceComplete => none
  | .kilnCommandStart _ => none
  | .slicePassGrant => none
  | .slicePassComplete => none
  | .kestSelection => none
  | .kilnCommandComplete _ => none
  | .kilnBudgetWindow => none
  | .queueClaim _ => none
  | .queueStatWrite _ _ => none
  | .packetRead _ => none
  | .copyJobStart _ => none
  | .copyBurst _ => none
  | .linkPacketRead _ => none
  | .clipMessage _ => none
  | .stampWrite _ => none
  | .streamReadAhead _ => none
  | .streamPushWrite _ => none
  | .launch _ _ _ _ _ => none
  | .overflowReturn => none
  | .taskDispatch => none
  | .recordReservation _ => none
  | .gangMigration _ _ => none
  | .launchComplete => none
  | .computeBarrierRelease => none
  | .exchangeTransferStart _ => none
  | .exchangeLanding _ => none
  | .exchangeBarrierRelease _ => none
  | .computePhaseStart => none
  | .messageDelivery _ _ => none
  | .gearLift _ => none
  | .railHandover _ => none
  | .handoverComplete => none
  | .controlInterval _ _ _ _ _ => none
  | .sagStretch => none
  | .sagHoldEnd => none
  | .sensorReading _ _ _ _ => none
  | .dramRefresh _ _ => none
  | .refreshEnd _ _ => none
  | .scrub _ _ => none
  | .watchdogExpiry => none
  | .sequencerSubmission _ _ => none
  | .beatEnd _ => none
  | .orderMerged _ _ => none
  | .sliceGrant _ => none
  | .grantDelivery => none
  | .releasePerform _ => none
  | .haltTreeStop => none
  | .haltTreeFreeze => none
  | .kernelCrash _ => none
  | .warmReboot => none
  | .coldBoot _ => none
  | .selfTestPass _ _ => none
  | .functionFailed _ _ => none
  | .linkFailed _ => none
  | .hostRead _ _ _ => none
  | .hostWrite _ _ _ _ => none
  | .remoteAccess _ _ _ _ => none
  | .exportWindowNarrow _ _ _ => none
  | .domainFormation _ _ _ => none
  | .preemptionRequest => none
  | .contextDiscard => none
  | .recordDelivery => none

end Sys2Proof
end

