-- ==== Sys2Proof/Machine/Limits.lean ====
section
/-! DEFINITION. The limits that descriptions place on the values that operand fields deliver (R411): one function from an
instruction and its delivered values to the first limit that is broken, as the field that R34 reports. A value that is
not known (a register, in the static check of WellFormed) breaks no limit. -/

namespace Sys2Proof

/-- The register number that a field names; a field of another kind reads as zr's. -/
def Operand.num : Operand → BitVec 7
  | .reg n => n
  | _ => 112

/-- The stream that a field names (Table 2-5). -/
def Operand.stream : Operand → Option Nat
  | .reg n => if 96 ≤ n.toNat && n.toNat ≤ 103 then some (n.toNat - 96) else none
  | _ => none

/-- A tile header (R137, Table 7-9). -/
structure TileHeader where
  space : BitVec 2
  t : Bool
  fmt : BitVec 5
  valid : BitVec 5
  slot : BitVec 3
  stride : BitVec 16
  addr : BitVec 32
deriving DecidableEq, Repr

/-- The header a 64-bit value holds (Table 7-9). -/
def tileHeader (x : Word) : TileHeader :=
  ⟨x.extractLsb' 62 2, x.getLsbD 61, x.extractLsb' 56 5, x.extractLsb' 51 5, x.extractLsb' 48 3,
    x.extractLsb' 32 16, x.extractLsb' 0 32⟩

/-- The reserved format codes of R55. -/
def reservedFmt (c : BitVec 5) : Bool :=
  c == 0x06 || c == 0x07 || (0x13#5 ≤ c && c ≤ 0x1E#5)

/-- The MX formats, codes 0x0E and 0x0F (Table 4-1). -/
def isMX (c : BitVec 5) : Bool := c == 0x0E || c == 0x0F

/-- The four 8-bit float formats of Table 7-1. -/
def isFloat8 (c : BitVec 5) : Bool := 0x0C#5 ≤ c && c ≤ 0x0F#5

/-- A formats with an FP32 accumulator (Table 7-1, R183). -/
def accFP32 (c : BitVec 5) : Bool := 0x09#5 ≤ c && c ≤ 0x0F#5

/-- A formats whose accumulator is a pair (Table 7-1, R144). -/
def accPair (c : BitVec 5) : Bool := c == 0x08 || c == 0x00 || c == 0x01

/-- What every tile header must keep (R137). -/
def TileHeader.ok (h : TileHeader) : Bool :=
  h.space != 3 && (h.space == 2 || h.addr.extractLsb' 22 10 == 0) && h.valid ≤ 16#5 &&
    !reservedFmt h.fmt && h.fmt != 0x1F

/-- The B specification (R155): first panel, count, stride, budget, and whether bits 63:32 are zero. -/
structure BSpec where
  f : Nat
  n : Nat
  t : Nat
  m : Nat
  ok : Bool
deriving DecidableEq, Repr

def bSpec (x : Word) : BSpec :=
  ⟨(x.extractLsb' 0 8).toNat, (x.extractLsb' 8 8).toNat, (x.extractLsb' 16 8).toNat,
    (x.extractLsb' 24 8).toNat, x.extractLsb' 32 32 == 0⟩

/-- Count 1 to 128, budget at most `m`, reserved bits clear (R155, R156, R184). -/
def BSpec.within (b : BSpec) (m : Nat) : Bool :=
  1 ≤ b.n && b.n ≤ 128 && b.m ≤ m && b.ok

/-- A predicate control word (Table 5-4): reserved bits clear, combine below 3, condition at most `c` (R89, R93, R112). -/
def controlWordOk (c : BitVec 4) (x : Word) : Bool :=
  x.extractLsb' 10 54 == 0 && !x.getLsbD 3 && x.extractLsb' 8 2 != 3 && x.extractLsb' 4 4 ≤ c

/-- The control word of PLOG: combine is zero as well (R90). -/
def plogWordOk (x : Word) : Bool := x.extractLsb' 8 56 == 0 && !x.getLsbD 3

/-- The float format codes 0x08 to 0x0D (R94). -/
def floatCode (c : BitVec 5) : Bool := 0x08#5 ≤ c && c ≤ 0x0D#5

/-- The formats VCVT converts (R116). -/
def vcvtCode (c : BitVec 5) : Bool := floatCode c || c == 0 || c == 1 || (3#5 ≤ c && c ≤ 5#5)

/-- The width in bits of a VCVT format (Table 4-1). -/
def codeWidth (c : BitVec 5) : Nat :=
  match c.toNat with
  | 0x03 => 16 | 0x04 => 32 | 0x05 => 64 | 0x08 => 64 | 0x09 => 32 | 0x0A => 16 | 0x0B => 16 | 0x12 => 64 | _ => 8

/-- FCVT's B (R94). -/
def fcvtWordOk (x : Word) : Bool :=
  x.extractLsb' 13 51 == 0 && x.extractLsb' 5 3 == 0 && floatCode (x.extractLsb' 0 5) && floatCode (x.extractLsb' 8 5)

/-- VCVT's B (R116): the codes, the part h below the ratio of the widths, the reserved bits. -/
def vcvtWordOk (x : Word) : Bool :=
  let ws := codeWidth (x.extractLsb' 0 5)
  let wd := codeWidth (x.extractLsb' 8 5)
  x.extractLsb' 19 45 == 0 && x.extractLsb' 13 3 == 0 && x.extractLsb' 5 3 == 0 &&
    vcvtCode (x.extractLsb' 0 5) && vcvtCode (x.extractLsb' 8 5) &&
    (x.extractLsb' 16 3).toNat < max ws wd / min ws wd

/-- The lane width in bits of the default selector (Table 2-3). -/
def selWidth (sel : BitVec 2) : Nat :=
  match sel.toNat with | 0 => 64 | 1 => 32 | 2 => 16 | _ => 8

/-- A global access's control word: bits 21:19 clear (R99). The 22 bits were sign-extended. -/
def globalWordOk (x : Word) : Bool := x.extractLsb' 19 3 == 0

/-- The control word of VLDL and VSTL (R124): the transposed form for loads only, its stride a multiple of the lane. -/
def localWordOk (load : Bool) (sel : BitVec 2) (x : Word) : Bool :=
  if x.getLsbD 20 then
    load && !x.getLsbD 21 && x.extractLsb' 16 4 == 0 && (x.extractLsb' 0 16).toNat % (selWidth sel / 8) == 0
  else !x.getLsbD 21 && x.extractLsb' 18 2 == 0

/-- The system register numbers of Tables 5-10 and 21-6. -/
def sysRegListed (n : Nat) : Bool := (1 ≤ n && n ≤ 0x18) || (0x100 ≤ n && n ≤ 0x10C)

/-- A KVLIM or KVFLOOR value: bits 63:32 clear, an FP32 that is no NaN and has its sign clear (R181). -/
def limitValueOk (x : Word) : Bool := x.ule 0x7F800000

/-- The configuration word of CBINIT (R271). -/
def cbConfigOk (x : Word) : Bool :=
  let base := (x.extractLsb' 0 22).toNat
  let sz := (x.extractLsb' 32 8).toNat
  let n := (x.extractLsb' 40 8).toNat
  x.extractLsb' 49 15 == 0 && x.extractLsb' 22 10 == 0 && 1 ≤ sz && 1 ≤ n && base % 64 == 0 &&
    0x100000 ≤ base && base + 64 * sz * n ≤ 0x300000

/-- A stream descriptor: no reserved space, no reserved bit (Table 6-11). -/
def streamWordOk (x : Word) : Bool := !x.getLsbD 62 && x.extractLsb' 48 13 == 0

/-- One limit: the field at which it is checked (3 D, 4 A, 5 B), whether it is broken, and the field reported. -/
abbrev Lim := Nat × Bool × Nat

/-- A limit on a delivered value. -/
def lim (at' : Nat) (v : Option Word) (ok : Word → Bool) (report : Nat := at') : Lim :=
  (at', (match v with | some x => !ok x | none => false), report)

/-- A limit that binds an immediate only. -/
def limImm (at' : Nat) (o : Operand) (v : Option Word) (ok : Word → Bool) : Lim :=
  match o with
  | .imm _ => lim at' v ok
  | _ => (at', false, at')

/-- The element index of R118: an immediate must lie below the lane count. -/
def limIndex (f : Fields) (b : Option Word) : List Lim :=
  [limImm 5 f.opB b fun x => x.toNat < 512 / selWidth f.sel]

/-- The accumulator number that D names (R27). -/
def accNum (o : Operand) : Nat := match o with | .reg n => n.toNat % 16 | _ => 0

/-- The header and pairing checks of a product command (R135 to R138, R145). -/
def limHeader (f : Fields) (fmtOk : BitVec 5 → Bool) (a : Option Word) : List Lim :=
  [ lim 4 a fun x => (tileHeader x).ok,
    lim 4 a (fun x => f.sel == 0 || isFloat8 (tileHeader x).fmt) 2,
    lim 4 a fun x => fmtOk (tileHeader x).fmt,
    lim 4 a fun x => !(isMX (tileHeader x).fmt && (tileHeader x).t) ]

/-- The limits of an instruction in the order of R34, given the values that D, A and B deliver and the issuing core's
index in its cluster (R321). DESIGN CHOICE (log entry 64): the event-unit window in which only `LDL.D` and `STL.D` stand (R195) ends at
0x30_0FFF, as Table 10-1 has it; at 0x30_1000 to 0x30_FFFF, which Table 10-2 gives to the window, every width is out of range (0x05). -/
def Instr.limits (i : Instr) (core : Option Nat) (d a b : Option Word) : List Lim :=
  match i with
  | .cmp _ | .vcmp _ => [lim 3 d (controlWordOk 9)]
  | .fcmp _ | .vfcmp _ => [lim 3 d (controlWordOk 7)]
  | .plog _ => [lim 3 d plogWordOk]
  | .fcvt _ => [lim 5 b fcvtWordOk]
  | .fcvti _ | .icvtf _ => [lim 5 b fun x => x.ule 5]
  | .vcvt _ => [lim 5 b vcvtWordOk]
  | .vunpk _ => [lim 5 b fun x => x.ule 3]
  | .vbcast f | .vextr f | .vins f => limIndex f b
  | .vred _ | .vscan _ => [lim 5 b fun x => x.ule 10]
  | .vcbdLt _ => [lim 5 b fun x => x.ule 1]
  | .ldl f | .stl f =>
    [(5, (match a, b with
      | some x, some y => f.sel != 0 && (0x300000#64 ≤ x + y && x + y ≤ 0x300FFF#64)
      | _, _ => false), 2)]
  | .ldg f | .stg f | .vldg f | .vstg f => [limImm 5 f.opB b globalWordOk]
  | .vldl f => [limImm 5 f.opB b (localWordOk true f.sel)]
  | .vstl f => [limImm 5 f.opB b (localWordOk false f.sel)]
  | .rep _ => [lim 5 b fun x => 1 ≤ x.toNat && x.toNat ≤ 16]
  | .stop f => [limImm 4 f.opA a fun x => x.ule 255]
  | .scfg _ => [lim 4 a fun x => x.toNat % 64 == 0, lim 5 b streamWordOk]
  | .kldb _ =>
    [ lim 3 d fun x => (bSpec x).within 0,
      lim 4 a fun x => let h := tileHeader x
        h.ok && h.slot == 0 && (h.fmt ≤ 1#5 || (0x08#5 ≤ h.fmt && h.fmt ≤ 0x10#5)) &&
          !(isMX h.fmt && !h.t) && !(h.fmt == 0x10 && h.t) ]
  | .kmul f =>
    limHeader f (fun c => accFP32 c || accPair c) a ++
    [ lim 4 a (fun x => !(accPair (tileHeader x).fmt && accNum f.opD % 2 == 1)) 3,
      lim 5 b fun x => (bSpec x).within 0 ]
  | .kmulb f =>
    limHeader f (fun c => accFP32 c || accPair c) a ++
    [ lim 5 b fun x => (bSpec x).within 0,
      (5, (match a, b with
        | some x, some y =>
          if accPair (tileHeader x).fmt then accNum f.opD % 2 == 1 || accNum f.opD + 2 * (bSpec y).n > 16
          else accNum f.opD + (bSpec y).n > 16
        | _, _ => false), 5) ]
  | .kest f =>
    limHeader f accFP32 a ++ [lim 5 b fun x => (bSpec x).within 64]
  | .kmovR f | .kmovW f | .kmovRz f => [limImm 5 f.opB b fun x => x.ule 15]
  | .kzero _ => [lim 4 a fun x => x.extractLsb' 16 48 == 0]
  | .kcfg _ => [lim 4 a fun x => x.ule 3]
  | .knorm _ =>
    [ lim 4 a fun x => let h := tileHeader x
        h.ok && h.slot != 0 && h.space == 1 && accFP32 h.fmt && !(isMX h.fmt && h.t),
      lim 5 b fun x => 1 ≤ x.toNat && x.toNat ≤ 128 ]
  | .knormRel _ => [lim 4 a fun x => 1 ≤ x.toNat && x.toNat ≤ 7]
  | .kseed _ => [lim 5 b fun x => x.extractLsb' 32 32 == 0]
  | .kseedTc _ => [lim 4 a fun x => x.extractLsb' 32 32 == 0]
  | .klim _ => [lim 4 a limitValueOk, lim 5 b limitValueOk]
  | .cbinit _ => [lim 3 d fun x => x.ule 7, lim 4 a cbConfigOk]
  | .cbput _ | .cbget _ => [lim 4 a fun x => x.ule 7]
  | .tdeclR _ | .tdeclW _ =>
    [(5, (match a, b with
      | some x, some y => y.toNat == 0 || y.toNat > 2 ^ 30 || x.toNat + y.toNat - 1 ≥ 2 ^ 52
      | _, _ => false), 5)]
  | .evwait _ | .evsig _ | .evsigR _ => [lim 4 a fun x => x.ule 31]
  | .bar _ => [lim 4 a fun x => x.ule 15]
  | .fence _ => [lim 4 a fun x => x.ule 1]
  | .texit _ => [lim 4 a fun x => x.ule 255]
  | .slaveL _ =>
    [lim 4 a fun x => 1 ≤ x.toNat && x.toNat ≤ 7 && (match core with | some c => c + x.toNat ≤ 7 | none => true)]
  | .xrun _ => [lim 5 b fun x => 1 ≤ x.toNat && x.toNat ≤ 4096]
  | .msend _ => [lim 4 a fun x => x.extractLsb' 15 49 == 0]
  | .mfs _ => [lim 4 a fun x => sysRegListed x.toNat]
  | .mts _ | .mtsRetired _ | .mtsCycle _ | .sensinjWrite _ => [lim 3 d fun x => sysRegListed x.toNat]
  | .trap _ => [lim 4 a fun x => 1 ≤ x.toNat && x.toNat ≤ 0x18]
  | .sysc f | .brk f => [limImm 4 f.opA a fun x => x.ule 65535]
  | .ctxsv _ => [lim 4 a fun x => x.ule 1]
  | .stinvVa _ => [lim 4 a fun x => x.extractLsb' 52 12 == 0, lim 5 b fun x => x.ule 65535]
  | .stinvPid _ => [lim 4 a fun x => x.ule 65535]
  | _ => []

end Sys2Proof
end

