-- ==== Sys2Proof/WellFormed.lean ====
section
/-! DEFINITION. The static checks of an instruction (R18, R21, R22, R24 to R27, R30, R411): what can be told from its
fields alone. The machine makes the same checks, in the order of R34, and takes the trap of the first one that fails. -/

namespace Sys2Proof

/-- The value that an operand delivers whatever the registers hold (Table 2-4). -/
def Operand.known : Operand → Option Word
  | .imm v => some (v.signExtend 64)
  | .loc a => some (a.zeroExtend 64)
  | .reg n => if n == 112 then some 0 else none
  | _ => none

/-- The operand's kind and class are permitted for the field (R24 to R27). -/
def OpSpec.permits (k : OpSpec) : Operand → Bool
  | .reg n => k.cls.accepts n
  | .imm _ => k.i
  | .loc _ => k.l
  | .lit => k.x
  | .raw _ => false

/-- How many fields are of kind 11 (R32 allows one). -/
def Fields.lits (f : Fields) : Nat :=
  (if f.opD == .lit then 1 else 0) + (if f.opA == .lit then 1 else 0) + (if f.opB == .lit then 1 else 0)

/-- The guard is not the reserved one (R18). -/
def Fields.guardOk (f : Fields) : Bool := !(f.sense && f.pred == 7)

/-- The static checks of a word's fields for the instruction `i`. -/
def Instr.fieldsOk (i : Instr) (f : Fields) : Bool :=
  f.guardOk && !f.rsv && i.spec.sels.getLsbD f.sel.toNat &&
    i.spec.d.permits f.opD && i.spec.a.permits f.opA && i.spec.b.permits f.opB && f.lits ≤ 1 &&
    (i.limits none f.opD.known f.opA.known f.opB.known).all (fun l => !l.2.1)

/-- A PFX word's fixed fields and override code (R30). -/
def Pfx.ok (p : Pfx) : Bool :=
  p.guard == 7 && p.z81 == 0 && !p.z74 && p.z67 == 0 && p.ovr ≤ 5#4

/-- The system register that D names, for the rows of the table that are MTS of one register (R106, R409, R410). -/
def sysNumber (f : Fields) : Nat := match f.opD with | .imm v => v.toNat | _ => 0

/-- A well-formed instruction: one the device executes without an encoding trap; of an event, its names are in range. -/
def Instr.wf : Instr → Bool
  | .pfx p => p.ok
  | .mts f => (Instr.mts f).fieldsOk f && sysNumber f != 1 && sysNumber f != 2 && sysNumber f != 0x10C
  | .mtsRetired f => (Instr.mtsRetired f).fieldsOk f && sysNumber f == 2
  | .mtsCycle f => (Instr.mtsCycle f).fieldsOk f && sysNumber f == 1
  | .sensinjWrite f => (Instr.sensinjWrite f).fieldsOk f && sysNumber f == 0x10C
  | .barrierMaskWrite b _ => b < 16
  | .barrierArrive b c | .barrierSync b c => b < 16 && c < 8
  | .mutexLock x c | .mutexTry x c | .mutexUnlock x c => x < 16 && c < 8
  | .mutexErrClear x => x < 16
  | .eventPendWrite e _ | .eventSig e _ | .eventMessageLand e => e < 32
  | .eventWait e c => e < 32 && c < 8
  | .streamReadAhead q | .streamPushWrite q => q < 8
  | i => match i.fields with
    | some f => i.fieldsOk f
    | none => true

end Sys2Proof
end

