-- ==== Sys2Proof/Decode.lean ====
section
/-! DEFINITION. Decoding (R15, R24, R30, R35, Tables 2-1, 2-6, 2-8) and the encoder, written from the same tables. Decoding
is total: a reserved opcode is refused by name, and the machine takes trap 0x01 for it (R35). A word whose fields
break a rule decodes to its instruction, whose execution takes the trap that R32 and R34 order. -/

namespace Sys2Proof

/-- Why bytes are no instruction: fewer than twelve, or an opcode that Table 2-8 does not assign (R35). -/
inductive DecodeError where
  | short
  | reserved (op : BitVec 10)
deriving DecidableEq, Repr

/-- An operand field by its kind; a register or literal field with bits that R25 forbids stays raw (Table 2-4). -/
def decodeOperand (x : BitVec 24) : Operand :=
  match (x.extractLsb' 22 2).toNat with
  | 0 => if x.extractLsb' 7 15 == 0 then .reg (x.extractLsb' 0 7) else .raw x
  | 1 => .imm (x.extractLsb' 0 22)
  | 2 => .loc (x.extractLsb' 0 22)
  | _ => if x.extractLsb' 0 22 == 0 then .lit else .raw x

def encodeOperand : Operand → BitVec 24
  | .reg n => n.zeroExtend 24
  | .imm v => (1#2) ++ v
  | .loc a => (2#2) ++ a
  | .lit => 0xC00000
  | .raw x => x

/-- The fields of a word but its opcode (Table 2-1). -/
def decodeFields (w : IWord) : Fields :=
  { sense := w.getLsbD 85
    pred := w.extractLsb' 82 3
    stall := w.extractLsb' 78 4
    y := w.getLsbD 77
    b := w.getLsbD 76
    t := w.getLsbD 75
    rsv := w.getLsbD 74
    sel := w.extractLsb' 72 2
    opD := decodeOperand (w.extractLsb' 48 24)
    opA := decodeOperand (w.extractLsb' 24 24)
    opB := decodeOperand (w.extractLsb' 0 24) }

def encodeFields (op : BitVec 10) (f : Fields) : IWord :=
  op ++ BitVec.ofBool f.sense ++ f.pred ++ f.stall ++ BitVec.ofBool f.y ++ BitVec.ofBool f.b ++
    BitVec.ofBool f.t ++ BitVec.ofBool f.rsv ++ f.sel ++
    encodeOperand f.opD ++ encodeOperand f.opA ++ encodeOperand f.opB

/-- The fields of a PFX word (Table 2-6). -/
def decodePfx (w : IWord) : Pfx :=
  { guard := w.extractLsb' 82 4
    z81 := w.extractLsb' 77 5
    b := w.getLsbD 76
    t := w.getLsbD 75
    z74 := w.getLsbD 74
    ovr := w.extractLsb' 70 4
    s := w.getLsbD 69
    l := w.getLsbD 68
    z67 := w.extractLsb' 64 4
    lit := w.extractLsb' 0 64 }

def encodePfx (p : Pfx) : IWord :=
  (0x300#10) ++ p.guard ++ p.z81 ++ BitVec.ofBool p.b ++ BitVec.ofBool p.t ++ BitVec.ofBool p.z74 ++ p.ovr ++
    BitVec.ofBool p.s ++ BitVec.ofBool p.l ++ p.z67 ++ p.lit

/-- MTS, or the row of the one register that D names (R106, R409, R410). -/
def mtsForm (f : Fields) : Instr :=
  match sysNumber f with
  | 0x001 => .mtsCycle f
  | 0x002 => .mtsRetired f
  | 0x10C => .sensinjWrite f
  | _ => .mts f

/-- The instruction of an opcode of Table 2-8, with the form its selector names; a selector that no form lists falls to
the opcode's first form, which refuses it (R22). -/
def instrOf (op : Nat) (f : Fields) : Option Instr :=
  match op with
  | 0x000 => some (.add f)
  | 0x001 => some (.sub f)
  | 0x002 => some (.mul f)
  | 0x003 => some (.mulh f)
  | 0x004 => some (.mulhu f)
  | 0x005 => some (.div f)
  | 0x006 => some (.divu f)
  | 0x007 => some (.rem f)
  | 0x008 => some (.remu f)
  | 0x009 => some (.andOp f)
  | 0x00a => some (.orOp f)
  | 0x00b => some (.xor f)
  | 0x00c => some (.andn f)
  | 0x00d => some (.shl f)
  | 0x00e => some (.shr f)
  | 0x00f => some (.sar f)
  | 0x010 => some (.rotl f)
  | 0x011 => some (.clz f)
  | 0x012 => some (.ctz f)
  | 0x013 => some (.popc f)
  | 0x014 => some (.min f)
  | 0x015 => some (.max f)
  | 0x016 => some (.minu f)
  | 0x017 => some (.maxu f)
  | 0x018 => some (.abs f)
  | 0x019 => some (.neg f)
  | 0x01a => some (.sext f)
  | 0x01b => some (.zext f)
  | 0x01c => some (.bfx f)
  | 0x01d => some (.bfi f)
  | 0x01e => some (.lea f)
  | 0x01f => some (.mov f)
  | 0x020 => some (.sel f)
  | 0x021 => some (.cmp f)
  | 0x022 => some (.plog f)
  | 0x040 => some (.fadd f)
  | 0x041 => some (.fsub f)
  | 0x042 => some (.fmul f)
  | 0x043 => some (.ffma f)
  | 0x044 => some (.fdiv f)
  | 0x045 => some (.fsqrt f)
  | 0x046 => some (.fmin f)
  | 0x047 => some (.fmax f)
  | 0x048 => some (.fcmp f)
  | 0x049 => some (.fcvt f)
  | 0x04a => some (.fcvti f)
  | 0x04b => some (.icvtf f)
  | 0x04c => some (.fclass f)
  | 0x04d => some (.fabs f)
  | 0x04e => some (.fneg f)
  | 0x060 => some (.ldl f)
  | 0x061 => some (.stl f)
  | 0x062 => some (.ldg f)
  | 0x063 => some (.stg f)
  | 0x064 => some (.pref f)
  | 0x080 => some (.br f)
  | 0x081 => some (.call f)
  | 0x082 => some (.ret f)
  | 0x083 => some (.jmp f)
  | 0x084 => some (.loop f)
  | 0x085 => some (.rep f)
  | 0x086 => some (.nop f)
  | 0x087 => some (.stop f)
  | 0x100 => some (.vadd f)
  | 0x101 => some (.vsub f)
  | 0x102 => some (.vmul f)
  | 0x103 => some (.vmulh f)
  | 0x104 => some (.vmin f)
  | 0x105 => some (.vmax f)
  | 0x106 => some (.vand f)
  | 0x107 => some (.vor f)
  | 0x108 => some (.vxor f)
  | 0x109 => some (.vshl f)
  | 0x10a => some (.vshr f)
  | 0x10b => some (.vsar f)
  | 0x10c => some (.vabs f)
  | 0x10d => some (.vneg f)
  | 0x10e => some (.vcmp f)
  | 0x10f => some (.vsel f)
  | 0x110 => some (.vclamp f)
  | 0x120 => some (.vfadd f)
  | 0x121 => some (.vfsub f)
  | 0x122 => some (.vfmul f)
  | 0x123 => some (.vfma f)
  | 0x124 => some (.vfdiv f)
  | 0x125 => some (.vfsqrt f)
  | 0x126 => some (.vfrsq f)
  | 0x127 => some (.vfexp2 f)
  | 0x128 => some (.vflog2 f)
  | 0x129 => some (.vfmin f)
  | 0x12a => some (.vfmax f)
  | 0x12b => some (.vfcmp f)
  | 0x140 => some (.vcvt f)
  | 0x141 => some (.vpack f)
  | 0x142 => some (.vunpk f)
  | 0x143 => some (.vshuf f)
  | 0x144 => some (.vbcast f)
  | 0x145 => some (.vextr f)
  | 0x146 => some (.vins f)
  | 0x147 => some (.vred f)
  | 0x148 => some (.vscan f)
  | 0x149 => some (.vqnt f)
  | 0x14a => some (.vdqnt f)
  | 0x14b => some (match f.sel.toNat with | 0 => .vcbdLt f | _ => .vcbd f)
  | 0x14c => some (.lsupd f)
  | 0x160 => some (.vldl f)
  | 0x161 => some (.vstl f)
  | 0x162 => some (.vldg f)
  | 0x163 => some (.vstg f)
  | 0x164 => some (.vgath f)
  | 0x165 => some (.vscat f)
  | 0x166 => some (.scfg f)
  | 0x167 => some (match f.sel.toNat with | 1 => .sstatDrain f | _ => .sstat f)
  | 0x200 => some (.kldb f)
  | 0x201 => some (.kmul f)
  | 0x202 => some (.kmulb f)
  | 0x203 => some (match f.sel.toNat with | 1 => .kmovW f | 2 => .kmovRz f | _ => .kmovR f)
  | 0x204 => some (.kzero f)
  | 0x205 => some (.kcfg f)
  | 0x206 => some (match f.sel.toNat with | 1 => .kstatJ f | 2 => .kstatJc f | _ => .kstat f)
  | 0x207 => some (.ksync f)
  | 0x210 => some (match f.sel.toNat with | 1 => .knormRel f | _ => .knorm f)
  | 0x211 => some (.kest f)
  | 0x212 => some (.kevar f)
  | 0x213 => some (match f.sel.toNat with | 1 => .kseedTc f | _ => .kseed f)
  | 0x214 => some (.klim f)
  | 0x220 => some (.cpost f)
  | 0x221 => some (.cgath f)
  | 0x222 => some (.cwin f)
  | 0x223 => some (.clink f)
  | 0x224 => some (.cbinit f)
  | 0x225 => some (.cbput f)
  | 0x226 => some (.cbget f)
  | 0x227 => some (match f.sel.toNat with | 1 => .mbxrT f | _ => .mbxr f)
  | 0x240 => some (match f.sel.toNat with | 1 => .tdeclW f | 2 => .tdeclClr f | _ => .tdeclR f)
  | 0x241 => some (match f.sel.toNat with | 1 => .tsubD f | 3 => .tsubD f | _ => .tsub f)
  | 0x242 => some (match f.sel.toNat with | 1 => .tendG f | _ => .tend f)
  | 0x243 => some (match f.sel.toNat with | 1 => .tstatW f | _ => .tstat f)
  | 0x260 => some (.aadd f)
  | 0x261 => some (.aand f)
  | 0x262 => some (.aor f)
  | 0x263 => some (.axor f)
  | 0x264 => some (.amin f)
  | 0x265 => some (.amax f)
  | 0x266 => some (.aminu f)
  | 0x267 => some (.amaxu f)
  | 0x268 => some (.afadd f)
  | 0x269 => some (.afmin f)
  | 0x26a => some (.afmax f)
  | 0x26b => some (.aswp f)
  | 0x26c => some (.acas f)
  | 0x26d => some (.reda f)
  | 0x26e => some (match f.sel.toNat with | 1 => .takeK f | _ => .take f)
  | 0x26f => some (.put f)
  | 0x270 => some (.mwait f)
  | 0x271 => some (.evwait f)
  | 0x272 => some (match f.sel.toNat with | 1 => .evsigR f | _ => .evsig f)
  | 0x273 => some (match f.sel.toNat with | 1 => .barG f | _ => .bar f)
  | 0x274 => some (.fence f)
  | 0x310 => some (.post f)
  | 0x311 => some (.texit f)
  | 0x312 => some (match f.sel.toNat with | 1 => .slaveL f | _ => .slave f)
  | 0x313 => some (.detach f)
  | 0x314 => some (.xrun f)
  | 0x315 => some (match f.sel.toNat with | 1 => .xwaitE f | _ => .xwait f)
  | 0x316 => some (.msend f)
  | 0x317 => some (match f.sel.toNat with | 1 => .mrecvT f | _ => .mrecv f)
  | 0x318 => some (match f.sel.toNat with | 1 => .gearN f | _ => .gearF f)
  | 0x319 => some (.taskq f)
  | 0x330 => some (.mfs f)
  | 0x331 => some (mtsForm f)
  | 0x332 => some (.trap f)
  | 0x333 => some (.sysc f)
  | 0x334 => some (.eret f)
  | 0x335 => some (match f.sel.toNat with | 1 => .ctxsvCl f | _ => .ctxsv f)
  | 0x336 => some (match f.sel.toNat with | 1 => .ctxldCl f | _ => .ctxld f)
  | 0x337 => some (match f.sel.toNat with | 1 => .stinvPid f | 2 => .stinvAll f | _ => .stinvVa f)
  | 0x338 => some (.brk f)
  | 0x339 => some (.tmark f)
  | _ => none

/-- One instruction word (R35). -/
def decodeWord (w : IWord) : Except DecodeError Instr :=
  let op := w.extractLsb' 86 10
  if op == 0x300 then .ok (.pfx (decodePfx w))
  else match instrOf op.toNat (decodeFields w) with
    | some i => .ok i
    | none => .error (.reserved op)

/-- The word of an instruction; an event has none. -/
def encode : Instr → Option IWord
  | .pfx p => some (encodePfx p)
  | i => match i.fields with
    | some f => some (encodeFields i.spec.op f)
    | none => none

/-- A word from its bytes in memory order, little-endian (R2, R15). -/
def wordOfBytes (bs : List Byte) : IWord :=
  (bs.take 12).foldr (fun b acc => (acc <<< 8) ||| b.zeroExtend 96) 0

/-- The bytes of a word in memory order (R2, R15). -/
def bytesOfWord (w : IWord) : List Byte := (List.range 12).map fun i => w.extractLsb' (8 * i) 8

/-- The first instruction word of a byte string and the bytes after it. -/
def decodeBytes (bs : List Byte) : Except DecodeError (Instr × List Byte) :=
  if bs.length < 12 then .error .short
  else match decodeWord (wordOfBytes bs) with
    | .ok i => .ok (i, bs.drop 12)
    | .error e => .error e

/-- The host's question: the instruction read from `w`, whose bits are numbered as in the opcode table. A word of this
hardware is 96 bits, of which the first byte is the least significant (R15). -/
def decodeTableWord (_nbits w : Nat) : Option Instr :=
  match decodeBytes (bytesOfWord (BitVec.ofNat 96 w)) with
  | .ok (i, _) => some i
  | .error _ => none

end Sys2Proof
end

