-- ==== Sys2Proof/Config.lean ====
section
/-! DEFINITION. What the manual leaves open: free values, with no body, so that no proof and no run can see one.
Each is applied to the model's counter `tick` (State), which advances at every step. -/

namespace Sys2Proof.Config

/-- The number of arithmetic cycles for which a reader of an interlocked result without a stated latency is held at issue, and in which
a gated clock resumes (R80, R247, R413). -/
opaque hold : Nat → Nat

/-- The other cores that contend for a scratchpad bank's cycle, and whether a request of an engine is pending there (R193). -/
opaque contenders : Nat → BitVec 8
opaque engineWants : Nat → Bool

/-- Whether a Kiln command that reads an 8-byte unit anew takes what another agent has written there (R224). -/
opaque readNew : Nat → Nat → Bool

/-- Whether a word of local store that was written since the latest control transfer is fetched new (`true`) or
old (`false`) (R17). -/
opaque fetchNew : Nat → Bool

/-- Which of the translation entries that a station has kept for a page it uses, or the one that the table now holds (R361). -/
opaque pickEntry : Nat → Nat → Nat

/-- The Roslek Link that carries accesses to a package (R201, R207). -/
opaque linkTo : Nat → Nat

/-- The OWNER field of a mutex that no core holds (Table 12-7 gives it a meaning only for a holder). -/
opaque noOwner : Nat → BitVec 3

/-- The junction sensors of a die that lie in a cluster (R347). -/
opaque sensorOf : Nat → Nat → Bool

/-- What the controller decides at a boundary of which nothing outside says more: the ceilings, the boost grant, the delay and the
stagger (R346, R353). -/
opaque ceilings : Nat → Nat × Nat × Bool × BitVec 8 × BitVec 2

/-- A physical measurement of a sensor that no injection replaces, in degrees Celsius (R347). -/
opaque measured : Nat → BitVec 8

/-- A byte of host memory, which lies outside the device, as a copy job reads it (R209, R254); the second argument is its
address. -/
opaque hostByte : Nat → Nat → BitVec 8

/-- The island power and the thermal allowance in milliwatts, and the thermal ceiling, that the controller computes
(R348): properties of the part, not stated. -/
opaque power : Nat → BitVec 16
opaque allowance : Nat → BitVec 16

/-- The issue budget that the controller sets under current ceiling 4 (R350): "below the starts of the last
interval", no value stated. -/
opaque budgetCut : Nat → Nat

/-- Whether thermal stage 1 raises trap 0x16: Table 22-1 gives it TRAPVAL 1 or 2, and Table 22-5 names the trap at stage 2
only. -/
opaque stage1Traps : Bool

/-- The length of a restored repeat body whose `REP` is no longer in front of it: the REP word of Table 22-3 holds none. -/
opaque repLength : Nat → Nat

/-- TRAPVAL of reason 4 of R318: "the reason in bits 17:16" does not hold it, and the entry index of an instruction that names
no entry is not stated. -/
opaque violation4 : Nat → Word

/-- The fabric cycles by which a transfer that finds a link taken is late (R318, reason 2). -/
opaque lateness : Nat → Nat

/-- The word that the member before a follower forwards to it, with its address (R322): that member is another core. -/
opaque forwarded : Nat → Word × IWord

/-- The count of a `REP` that a follower is forwarded (R322): it is the leader's. -/
opaque forwardedCount : Nat → BitVec 32

/-- How many events of other agents come between two events of one vector access to the local window, and which (R211). -/
opaque amid : Nat → Nat
opaque amidWhich : Nat → Nat

/-- TRAPVAL where a word of a context image that was loaded poisoned is first read (R399): no number is stated for what is no
register of Table 2-5. -/
opaque contextError : Nat → Word

end Sys2Proof.Config
end

