-- ==== Sys2Proof/Machine/State.lean ====
section
/-! DEFINITION. The machine's state: one core (a compute core, or a control core when `core.control` is set), the cluster
it stands in, and its package. All of it is plain data. `ctx` is what belongs to a context and goes into its image
(R377); `core` is what stays with the core; `cl` is the cluster's; `pkg` is the package's. The last four fields are the
model's own: `agenda` (steps of the outside and of other agents, which run first), `turns` (which enabled internal step
runs next; with none left the first enabled one does), `outside` (what the other cores, clusters and Mboith are about to do) and
`tick` (the counter that the free values of Config read). -/

namespace Sys2Proof.Machine

/-- Why the machine stops. -/
inductive Fault where
  /-- Raised by `step` and by every meaning that needs power, after the hard trip of R404 cut the compute and control
  islands; safe: nothing runs until a restart. -/
  | powerLost
deriving DecidableEq, Repr

/-- Why an instruction has no meaning here. -/
inductive Refusal where
  /-- Raised by an arm of `exec` whose meaning is not written yet; safe. -/
  | notModelled (mnemonic : String)
deriving DecidableEq, Repr

/-- Bytes by address, in one canonical form: addresses strictly rising, no listed zero. An unlisted byte reads 0. -/
abbrev Memory := List Host.Cell

/-- The byte that an unlisted address reads as (R200 for slices; log entry 2 for the other tiers). -/
def unlisted : Byte := 0

/-- The canonical form, above a given address. -/
def Memory.wfFrom : Nat → Memory → Bool
  | _, [] => true
  | lo, (a, b) :: m => lo ≤ a && b != unlisted && Memory.wfFrom (a + 1) m

/-- The canonical form: addresses strictly rising, no entry equal to what an unlisted address reads as. -/
def Memory.wf (m : Memory) : Bool := Memory.wfFrom 0 m

/-- A register and the value that the end of a latency writes there (R80); vectors and masks by the bits written. -/
inductive RegWrite where
  | s (n : Nat) (x : Word)
  | v (n : Nat) (mask x : Vec)
  | m (n : Nat) (mask x : Word)
  | p (n : Nat) (b : Bool)
  | flags (f : BitVec 5)
deriving DecidableEq, Repr

/-- A result inside its latency: it is written in arithmetic cycle `due` (R20, R80), and `held` when it is interlocked: an instruction
that names its destination is held until then. -/
structure Pending where
  due : Nat
  w : RegWrite
  held : Bool
deriving DecidableEq, Repr

/-- A repeat body (R103): its address, the position of the next instruction, the iterations left, the number of its
instructions, and the buffer of its words. -/
structure Rep where
  body : BitVec 22
  pos : Nat
  left : BitVec 32
  len : Nat
  words : List IWord
deriving DecidableEq, Repr

/-- An element that a stream reads ahead: the bytes read so far, how many of its eight .D accesses have been made (R203), and the trap
it holds (R130). -/
structure Ahead where
  x : Vec
  units : Nat
  held : Option (Nat × Word)
deriving DecidableEq, Repr

/-- An element that a stream has been given to write (R130): its address, the home of a global one, and the bytes. -/
structure Pushed where
  va : Word
  pa : Option Nat
  mask : Vec
  x : Vec
deriving DecidableEq, Repr

/-- A stream register's configuration and buffers (R129 to R133). -/
structure Stream where
  on : Bool
  desc : Word
  base : Word
  next : Word
  remain : Word
  ahead : List Ahead
  push : List Pushed
deriving DecidableEq, Repr

/-- A norm slot (R168, Table 8-1): region header, number of slices, the FMODE.TOP that its `KNORM` captured (R183), the segment table
(16 rows of each slice in turn: ss as FP32 bits, and e), and the stale map. -/
structure NormSlot where
  header : Word
  n : Nat
  top : Bool
  table : List (BitVec 32 × Int)
  stale : BitVec 128
deriving DecidableEq, Repr

/-- A declared region (R294). -/
structure Region where
  base : Word
  len : Word
  write : Bool
deriving DecidableEq, Repr

/-- The declaration set and the transaction of a context (Table 15-2), with the submitted transaction's key (R279), the
beat and the superstep of its submission, its tiles with their senses (true for write), and whether its grant has reached the context. -/
structure Tx where
  decl : List Region
  state : BitVec 2
  d : Bool
  g : Bool
  flt : Bool
  waitb : BitVec 8
  seq : BitVec 32
  key : TxKey
  sub : Nat
  sstep : Word
  tiles : List (Nat × Bool)
  granted : Bool
deriving DecidableEq, Repr

/-- An entry of the claim table (R310): queue descriptor address and the highest sequence number claimed. -/
structure Claim where
  q : Word
  seq : Nat
deriving DecidableEq, Repr

/-- A mailbox entry that holds a message; the list keeps delivery order (R325, R328). -/
structure Message where
  slot : Nat
  data : Vec
deriving DecidableEq, Repr

/-- The registers of Table 2-5 that are one context's own, and the predicates (R26, R27). Slot 7 of `p` is never read:
p7 reads true. -/
structure Regs where
  s : Vector Word 64
  v : Vector Vec 32
  m : Vector Word 8
  p : Vector Bool 8
deriving DecidableEq, Repr

/-- What a trap entry saves (R372, Table 22-2), and the repeat body of the trapped context (R103). -/
structure TrapRegs where
  pk : Bool
  c : Word
  pc : BitVec 22
  val : Word
  rep : Option Rep
deriving DecidableEq, Repr

/-- The watchdog (R397). -/
structure Wdog where
  en : Bool
  sub : BitVec 16
  remain : BitVec 32
deriving DecidableEq, Repr

/-- The system registers that belong to the context (Tables 5-10 and 21-6). -/
structure Sys where
  pid : BitVec 16
  xlroot : Word
  ctxbuf : Word
  wdog : Wdog
  kstep : Word
  kseed0 : Word
  ktc : Word
  kvlim : Word
  kvfloor : Word
  kzth : Word
  lscale : Word
  lsstat : Word
  kwgt : Word
  stalls : BitVec 32
  bbctab : Word
  gearReq : Bool
  taskid : Word
deriving DecidableEq, Repr

/-- The accumulators a0 to a15 (1 KiB each, in order), the variance words, the norm slots 1 to 7, the Kiln configuration
and the sticky part of the Kiln status (R144, R160, R161, R168, R176). -/
structure Tiles where
  acc : Memory
  var : Vector Word 16
  norm : Vector (Option NormSlot) 8
  cfg : BitVec 2
  status : Word
deriving DecidableEq, Repr

/-- What belongs to a context (R377); `address` is the core on which it was placed, whose message address it holds (R326). -/
structure Ctx where
  regs : Regs
  pc : Word
  fmode : Word
  retired : Word
  rep : Option Rep
  trap : TrapRegs
  sys : Sys
  tiles : Tiles
  cb2 : Memory
  mq8 : Memory
  streams : Vector Stream 8
  tx : Tx
  mailbox : List Message
  spill : List Vec
  address : Nat
  claims : List Claim
deriving DecidableEq, Repr

/-- The run state of the core: it holds no context, runs one, has stopped one with a code (R104), waits at its `TEXIT`
for the end of a redundant task (R313), or is frozen in place (R375, R387). -/
inductive Run where
  | free
  | running
  | stopped (code : Nat)
  | ended (code : Nat)
  | frozen
deriving DecidableEq, Repr

/-- What a core waits for under R247 and the waits that are interrupted like it. -/
inductive WaitKind where
  | barrier (b : Nat)
  | mutex (x : Nat)
  | event (e : Nat)
  | gang
  | take (pa : Nat) (va : Word) (keep : Bool)
  | mwait (pa : Nat) (b : Word) (ne : Bool)
  | mwaitLocal (a : Nat) (b : Word) (ne : Bool)
  | message (copy : Bool)
  | closeCompute
  | closeExchange
  | chain (offered : Nat)
  | grant
  | slot (cb : Nat)
  | queue (pa : Nat)
  | post
  | send
deriving DecidableEq, Repr

/-- A wait in place: what for, the value that the place has served it with, and whether the clock is gated. -/
structure Wait where
  kind : WaitKind
  served : Option Word
  gated : Bool
deriving DecidableEq, Repr

/-- One part of a global access: a lane, its bytes at the home, the position of the element within them (an INT4 nibble, a
CB2 weight), its block scale's bytes, and the data that a store writes. -/
structure Part where
  lane : Nat
  va : Word
  pa : Nat
  n : Nat
  sub : Nat
  scale : Option (Nat × Nat)
  data : Nat
deriving DecidableEq, Repr

/-- What a global access does at its home. -/
inductive GKind where
  | load
  | store
  | atomic (op : AtomOp) (fmt : BitVec 5) (rm : BitVec 3) (b d : Word) (hint : BitVec 2)
  | reda (rank : BitVec 16) (v : Word)
  | put (v : Word)
deriving DecidableEq, Repr

/-- Where a global access delivers. -/
inductive Dest where
  | none
  | s (n : BitVec 7)
  | v (n : BitVec 7)
deriving DecidableEq, Repr

/-- A global access that its station has accepted (R81, R204): what was issued, how many of its parts have been performed (`next`), and
what they brought: the raw element and scale of each part, a status or old value, flags, and whether one was uncorrectable, whose
address is then in `va`. -/
structure GAccess where
  va : Word
  kind : GKind
  parts : List Part
  ty : Option (BitVec 5)
  fmt : BitVec 5
  top : Bool
  lw : Nat
  rm : BitVec 3
  dest : Dest
  table : Memory
  next : Nat
  performed : Bool
  got : List (Nat × Nat)
  value : Word
  flags : BitVec 5
  bad : Bool
deriving DecidableEq, Repr

/-- The asynchronous requests of Table 22-1 that are pending (an emergency 3 is the save of stage 2 that the device still owes, and 4 one that it has begun, R404, R405; a
mismatch is that of R398, with the TASKID), and for each of the four that wait for a Y mark (halt, watchdog, pre-emption, mailbox) the
cycle of the request and whether a Y-marked instruction has issued within 256 cycles of it (R21, R374). -/
structure Requests where
  stop : Option Nat
  emergency : Option Nat
  halt : Bool
  step : Bool
  wdog : Bool
  preempt : Bool
  mailbox : Bool
  mismatch : Option Word
  since : Vector Nat 4
  ySeen : BitVec 4
deriving DecidableEq, Repr

/-- A place in a forwarding chain (R321 to R324): whether this core leads, how many members stand behind it, and for a follower
the words that it has been forwarded and has not issued (address and word), and whether it takes the next word wherever it
lies. A follower that does not is diverged until a word at its pc, its resume address, issues (R323). -/
structure Chain where
  leads : Bool
  behind : Nat
  fwd : List (Word × IWord)
  follow : Bool
deriving DecidableEq, Repr

/-- A member of a redundant task (R312, R313): which copy it is, its signature, and for a shadow the values and flags that its primary's
reads have returned and it has not yet taken. -/
structure Redundant where
  shadow : Bool
  sig : Word
  reads : List (Vec × BitVec 5)
deriving DecidableEq, Repr

/-- The case of a `KEST` (R171). -/
inductive EstCase where
  | exactAll | covered | draw | recompute (cause : Nat)
deriving DecidableEq, Repr

/-- A slice pass: the slice, and for a draw its quantised count dc (R172, R173). -/
structure Pass where
  slice : Nat
  dc : Option Nat
deriving DecidableEq, Repr

/-- A Kiln command in its core's queue (R147): its place in the arrival order of the cluster, its core, what it captured at issue, and
once it has started the bytes it read, its first error, the norms and stale bits of a `KEST` (R170), its case, its passes,
how many have been granted and how many have completed, the arithmetic cycles in which those in flight end (R136), the accumulator
before it, its variance estimate, and the status bits that it leaves. -/
structure KilnCmd where
  arr : Nat
  core : Nat
  op : KilnOp
  header : Word
  bspec : Word
  d : Nat
  cb : Bool
  top : Bool
  zth : Word
  sat : Bool
  seed : Word
  step : Word
  tc : Word
  vlim : BitVec 32
  vfloor : BitVec 32
  table : Memory
  pages : List (Nat × Nat)
  started : Bool
  src : Memory
  bad : List Nat
  ecode : Nat
  norms : List (Nat × Bool)
  case : Option EstCase
  plan : List Pass
  granted : Nat
  done : Nat
  ends : List Nat
  before : Memory
  nx : Nat
  draws : Nat
  var : BitVec 32
  flags : Word
deriving DecidableEq, Repr

/-- What stays with the core; `badRegs` and `badAcc` are the registers and the accumulator chunks (16 × tile + chunk) that hold an
uncorrectable error (R207), and `badCtx` the image offsets of the other words of its context that were loaded poisoned (R399). `cyc` counts arithmetic cycles and `frac` is the part of a fabric cycle not yet counted. -/
structure Core where
  control : Bool
  idx : Nat
  die : Nat
  pcore : Word
  run : Run
  k : Bool
  handler : BitVec 22
  trctl : Word
  trn : Nat
  dbgHalt : Bool
  dbgStep : Bool
  dbgQuiesce : Bool
  halted : Bool
  armed : Bool
  saved : Bool
  cyc : Nat
  frac : Nat
  pend : List Pending
  locked : List (BitVec 7)
  pre : Option Pfx
  ifetch : Memory
  gq : List GAccess
  wait : Option Wait
  fence : Option Bool
  reqs : Requests
  kq : List KilnCmd
  outMsgs : List (BitVec 12 × BitVec 3 × Vec)
  chain : Option Chain
  red : Option Redundant
  badRegs : List (BitVec 7)
  badAcc : List Nat
  badCtx : List Nat
deriving DecidableEq, Repr

/-- A barrier line (Table 12-6). -/
structure BarrierLine where
  mask : BitVec 8
  gen : BitVec 32
  arrived : BitVec 8
deriving DecidableEq, Repr

/-- A mutex (Table 12-7); `queue` lists the waiting cores in the order of their requests. -/
structure Mutex where
  held : Bool
  owner : Nat
  err : Bool
  queue : List Nat
deriving DecidableEq, Repr

/-- An event line (Table 12-8); `queue` lists the waiting cores in the order in which they began to wait. -/
structure EventLine where
  pend : BitVec 16
  sat : Bool
  queue : List Nat
deriving DecidableEq, Repr

/-- A cell's tag (R134, R383): format, TOP and panel size code 1 to 5. -/
structure CellTag where
  fmt : BitVec 5
  top : Bool
  size : Nat
deriving DecidableEq, Repr

/-- A circular buffer (R264): its configuration word, counters, pointers, DONE bits, the slots that `CBGET` has handed
out and `CBPUT` has not taken back, and the other cores that wait in `CBGET` (R271). -/
structure CircBuf where
  init : Bool
  config : Word
  free : Nat
  fill : Nat
  cp : Nat
  ep : Nat
  relp : Nat
  done : BitVec 256
  taken : List Nat
  waiting : BitVec 8
deriving DecidableEq, Repr

/-- A continuation record (Table 17-3) in a queue, with the posting task and the posting count (Table 18-1), its launch's number, and
for one that a `POST` of the cluster has put there the arithmetic cycle and the core (R307). -/
structure Record where
  w : BitVec 256
  poster : BitVec 32
  index : Nat
  launch : Nat
  posted : Option (Nat × Nat)
deriving DecidableEq, Repr

/-- A running task of the cluster: its TASKID with COPY 0, the cores on which its gang and its shadow gang were placed, the members that
have ended, by those cores, the exit code of member 0, its launch, how many records it has posted (Table 18-1), whether its copies
differed (R398), whether Mboith ends it as stopped (R104, R310), the members of a redundant task that have executed `TEXIT` and wait for their twins, with exit code and signature
(R313), and the posting task and posting count of its record. -/
structure Task where
  id : Word
  cores : BitVec 8
  shadow : BitVec 8
  ended : BitVec 8
  code : Nat
  launch : Nat
  posts : Nat
  differs : Bool
  stopped : Bool
  sigs : List (Nat × Nat × Word)
  poster : BitVec 32
  index : Nat
deriving DecidableEq, Repr

/-- A transfer of an exchange program that has started (R316): the fabric cycle of its landing, its destination PIDX and
address field, its format, the TOP it carries, its length in 64 bytes, its source, how many aligned 8 bytes of it have been read there and
how many written (R211), the bytes read, and which of their granules were uncorrectable. -/
structure Transfer where
  due : Nat
  dclus : Nat
  daddr : BitVec 25
  fmt : BitVec 5
  top : Bool
  len : Nat
  src : BitVec 25
  got : Nat
  put : Nat
  bytes : Memory
  bad : List Nat
deriving DecidableEq, Repr

/-- The exchange engine (R315 to R320): the core and the program that `XRUN` armed, the next entry, whether an `XRUN` has
issued in this phase, the transfers on their way, the violation kept, whether the phase's has been raised, and the formats and TOPs that
landed for this core. -/
structure Exchange where
  core : Nat
  top : Bool
  base : Nat
  count : Nat
  next : Nat
  armed : Bool
  used : Bool
  flying : List Transfer
  viol : Option (Nat × Nat)
  raised : Bool
  landed : List (BitVec 5 × Bool)
  prevEnd : Nat
deriving DecidableEq, Repr

/-- The partition of the cluster (R314, R329, R333): whether it belongs to one, PART, PIDX, SSTEPN, the phase (true in an
exchange phase), X0, the placement entries that differ from the default, whether the cluster has arrived at the closing
barrier, the fabric cycle at which the next compute phase starts, how many releases the head record has waited through and since
when, with those that it waited through in another cluster before this one was reserved for it, and whether a migration stays owed from the
latest barrier (R334), the entries of a replayed trace that have happened, whether another cluster's record reserves this one, the halt tree's counts of cores
reached and cores stopped (R387), for this core, the clusters that can accept no more in this phase (R317), and the free cores of the
other clusters as the controller knows them, all of them where it lists none (R334). -/
structure Partition where
  member : Bool
  part : Word
  pidx : BitVec 12
  sstep : Word
  exchange : Bool
  x0 : Nat
  placement : List (Nat × Nat)
  members : List (Nat × Nat)
  arrived : BitVec 8
  startAt : Option Nat
  headWaits : Nat
  headAt : Nat
  headBase : Nat
  owed : Bool
  traceDone : List Nat
  reserved : Bool
  reached : Nat
  stopped : Nat
  full : List Nat
  others : List (Nat × BitVec 8)
deriving DecidableEq, Repr

/-- The cluster's gear and supply (R340 to R354): whether stage 1 holds its clock at F3 (R404), a handover in progress with its target and
the fabric cycle of its end, and the stretched cycles that a sag hold has left. -/
structure Gear where
  n : Bool
  sub : BitVec 2
  cap : Bool
  lift : Bool
  cause : BitVec 3
  handover : Option (Bool × Nat)
  sag : Bool
  sagLeft : Nat
  cone : Word
  kgov : BitVec 32
deriving DecidableEq, Repr

/-- The arbiter (R136, R151, R350, R351): the start of the window, the starts in it and in the one before, the starts since the last
interval boundary, the queue whose turn it is and the passes that its turn has left, the credits, the KWGT of the other cores' contexts
and which of their queues have a pass that can start, and the passes in flight: macro, whether FP64, and the arithmetic cycle of the
end. -/
structure Arbiter where
  start : Nat
  count : Nat
  prev : Option Nat
  starts : Nat
  turn : Nat
  left : Nat
  credits : Vector Nat 8
  weights : Vector Word 8
  wants : BitVec 8
  flying : List (Nat × Bool × Nat)
deriving DecidableEq, Repr

/-- A queue bound to the cluster's copy engine (R250): its descriptor's physical address and virtual address, the root
table of its PID, and the STAT bit (8 or 9) that has stopped it, or 0 (R252). An engine serves the queues whose descriptors
name its cluster. -/
structure QueueBind where
  pa : Nat
  va : Word
  root : Word
  halt : Nat
deriving DecidableEq, Repr

/-- What a job holds of a circular buffer (R264): the slots, which follow each other in its dense order, the place of the first in that order,
and that of the current packet. -/
structure BufHeld where
  buf : Nat
  slots : List Nat
  pos : Nat
  base : Nat
deriving DecidableEq, Repr

/-- A copy job (R253 to R266): its place in the arrival order of the cluster, its queue and packet, its place in its chain, how far it has
come, what it has met, the circular buffers that it has named with what it holds of them, whether this core's context submitted it, the
message address that its clip messages go to (R260, R385), the index of its GATHER row, the uncorrectable granules that it has reported, what
this core's local store held, byte by byte, where the started job writes it (R17), and the end of the burst in progress (R266). -/
structure Job where
  arr : Nat
  q : Nat
  seq : Nat
  w : Vector Word 8
  link : Nat
  started : Bool
  refused : Bool
  finished : Bool
  pos : Nat
  clipped : List Nat
  past : Nat
  firstPast : Nat
  msgDone : Bool
  stampDone : Bool
  fault : Bool
  ue : Bool
  typed : Bool
  anyClip : Bool
  bufs : List BufHeld
  own : Bool
  mailTo : Nat
  index : BitVec 32
  bads : List Nat
  old : List (Nat × Byte)
  burstEnd : Nat
deriving DecidableEq, Repr

/-- The transaction of this core's gang (R295, R296): whether the gang is a shadow, whose requests are not performed (R312), member 0's .D bit,
key, beat and superstep of its submission, tiles, and the members whose `TEND.G` has ended its wait. -/
structure GangTx where
  shadow : Bool
  d : Bool
  key : TxKey
  sub : Nat
  sstep : Word
  tiles : List (Nat × Bool)
  ended : BitVec 8
deriving DecidableEq, Repr

/-- The cluster: the local stores of its cores, the scratchpad, granules with uncorrectable errors (core 8 for the
scratchpad), the arbitration phase counter, and of each bank the round-robin pointer and the arithmetic cycle up to which a reservation
holds it (R193), the event unit, the gang barrier of this core's gang (members, arrivals) and its
transaction, the arrivals of
commands and jobs so far (R147, R148), the B store with its tags, snapshots and uncorrectable cells, the Kiln commands of the other cores
that have not completed, the circular buffers,
the record queues and tasks, the exchange engine, the partition, the gear, the other
cores' requested gears (R341), the arbiter, the copy engine, the inbound buffer of
messages, the message addresses that contexts hold (R326), the message-address table's regions of saved contexts by address (R326, R385),
and the gangs of saved contexts by region: members, arrivals and transaction (R246, R295). -/
structure Cluster where
  index : Nat
  stores : Vector Memory 8
  spad : Memory
  bad : List (Nat × Nat)
  phase : BitVec 2
  pointers : Vector (BitVec 3) 16
  bankBusy : Vector Nat 16
  bars : Vector BarrierLine 16
  mutexes : Vector Mutex 16
  events : Vector EventLine 32
  gangMembers : BitVec 8
  gangArrived : BitVec 8
  gangTx : Option GangTx
  arrivals : Nat
  bstore : Memory
  tags : List (Nat × CellTag)
  snaps : Memory
  badCells : List Nat
  others : List KilnCmd
  cbs : Vector CircBuf 8
  launchQ : List Record
  overflow : List Record
  outRecs : List (Nat × Record)
  dispatched : Nat
  busy : BitVec 8
  tasks : List Task
  slaves : BitVec 8
  xeng : Exchange
  part : Partition
  gear : Gear
  gearReqs : BitVec 8
  arb : Arbiter
  queues : List QueueBind
  jobs : List Job
  turn : Nat
  inbound : List (Nat × Vec)
  addresses : BitVec 8
  addrTable : List (Nat × Nat)
  gangs : List (Nat × BitVec 8 × BitVec 8 × Option GangTx)
deriving DecidableEq, Repr

/-- A translation entry that the station of this cluster keeps (R357, R361): whether in this core's first level or in the second that the
cores and engines share, its process identifier and level, the virtual address bits it translates, and the table entry as it was
read. -/
structure Kept where
  first : Bool
  pid : BitVec 16
  level : Nat
  vpn : Nat
  entry : Word
deriving DecidableEq, Repr

/-- An entry of a slice's deferred list (R236): the word, the core of another context or none for this core, and whether it
keeps the word full. -/
structure Deferred where
  pa : Nat
  who : Option Nat
  keep : Bool
deriving DecidableEq, Repr

/-- A line in an atomic line buffer (R232): its physical address, the cluster that holds it, and its last use. -/
structure MovedLine where
  pa : Nat
  cluster : Nat
  used : Nat
deriving DecidableEq, Repr

/-- A request on a tile in its home slice's queue or waiting to enter it (R282, R283), and the fabric cycle of its grant. -/
structure TileReq where
  key : TxKey
  tile : Nat
  write : Bool
  queued : Bool
  granted : Bool
  when : Nat
deriving DecidableEq, Repr

/-- The die's sequencer and the order at the slices (R278 to R283): the batch of the open beat, the batches closed but not
yet merged, the .D submissions that wait for their boundary, the requests at the slices in the global order, the transactions whose context
ended before their grants (R292), and the first beat that has not been merged. -/
structure Sequencer where
  batch : List (TxKey × List (Nat × Bool))
  closed : List (Nat × List (TxKey × List (Nat × Bool)))
  held : List (TxKey × List (Nat × Bool))
  reqs : List TileReq
  orphans : List TxKey
  merged : Nat
deriving DecidableEq, Repr

/-- A launch (R301, R302): its tasks outstanding here and in the other clusters of the partition, how many have run, and the exit codes
of those that have ended here, by TASKID (R310). -/
structure Launch where
  number : Nat
  who : Requester
  desc : Vector Word 32
  outstanding : Nat
  elsewhere : Nat
  ran : Nat
  exits : List (Word × Nat)
  err : BitVec 8
  pnum : BitVec 16
  done : Bool
deriving DecidableEq, Repr

/-- A record of the sherd ring (R406). -/
structure Sherd where
  cycle : Nat
  w : Word
deriving DecidableEq, Repr

/-- How a host read completes (R366): with data, with Unsupported Request on PCIe, or with poisoned data on CXL.mem. -/
inductive HostAnswer where
  | data | unsupported | poison
deriving DecidableEq, Repr

/-- What the host's last read returned (R366). -/
structure HostReply where
  kind : HostAnswer
  data : Vec
deriving DecidableEq, Repr

/-- The package: CYCLE, the global tiers of the domain by 46-bit physical address, the empty words of the slices, poisoned
granules, the translation entries kept at the station, the deferred lists, moved lines, the reduction blocks with an arrival in
progress and their ranks (R232), the contention counters that are not 0, the sequencer, export tables, the domain, the readiness map, the sensors (die, kind, sensor: what SENSINJ has injected or released, latest first; the latest real
readings), the refresh multipliers (die × 2 + layer) and the cycle of each one's latest change, the half-channels that a refresh blocks with the cycles of their ends, the start of each one's
latest refresh (R206), the number of the latest control interval's boundary (R346), launches,
the sherd ring and the boot image in flash, the copy of the ring that a boot made there (R406), the length of the protected image
(R401, R408), whether a cold boot still waits for the HBM stacks (R408), the process that Mboith assigned to the host's function (R366),
what the latest read of a peer returned (R201), the physical addresses of the queue descriptors (R250), and the transactions of saved
contexts by their regions (R291). -/
structure Package where
  cycle : Nat
  rank : Nat
  mem : Memory
  empty : List Nat
  poison : List Nat
  kept : List Kept
  deferred : List Deferred
  lines : List MovedLine
  reducing : List (Nat × Nat)
  stayHome : List (Nat × Nat)
  predictor : List (Nat × Nat)
  seq : Sequencer
  exports : List (Nat × ExportWindow)
  domain : Nat
  ready : Memory
  linksDown : BitVec 12
  sensinj : Word
  injected : List (Nat × Nat × Nat × Option (BitVec 8))
  readings : List (Nat × Nat × Nat × BitVec 8)
  mult : Vector (BitVec 2) 8
  multAt : Vector Nat 8
  below : Vector Bool 8
  blocked : List (Nat × Nat × Nat)
  refreshes : List (Nat × Nat × Nat)
  intervals : Nat
  stage : Nat
  hot : Bool
  power : Bool
  frozen : Bool
  launches : List Launch
  sherd : List Sherd
  flash : Memory
  sherdCopy : List Sherd
  image : Option Nat
  booting : Bool
  reply : Option HostReply
  hostFns : List (Nat × Requester)
  hostFaults : Nat
  peer : Option Word
  dropped : Nat
  corrected : Nat
  reports : List Word
  beside : Memory
  hostMail : Memory
  descriptors : List Nat
  txs : List (Nat × Tx)
deriving DecidableEq, Repr

/-- The machine's state. -/
structure State where
  ctx : Ctx
  core : Core
  cl : Cluster
  pkg : Package
  agenda : List Instr
  turns : List Nat
  outside : List OtherAct
  tick : Nat
deriving DecidableEq, Repr

/-- A configured-off stream (R132). -/
def Stream.off : Stream := ⟨false, 0, 0, 0, 0, [], []⟩

/-- No transaction and an empty declaration set (Table 15-2). -/
def Tx.none : Tx := ⟨[], 0, false, false, false, 0, 0, ⟨0, 0, 0, 0, 0, 0, 0, false⟩, 0, 0, [], false⟩

/-- No pending request. -/
def Requests.none : Requests := ⟨.none, .none, false, false, false, false, false, .none, Vector.replicate 4 0, 0⟩

/-- An uninitialised circular buffer (R383). -/
def CircBuf.off : CircBuf := ⟨false, 0, 0, 0, 0, 0, 0, 0, [], 0⟩

/-- A disarmed exchange engine. -/
def Exchange.off : Exchange := ⟨0, false, 0, 0, 0, false, false, [], .none, false, [], 0⟩

/-- No partition (Table 17-7 at reset). -/
def Partition.none : Partition := ⟨false, 0, 0, 0, false, 0, [], [], 0, .none, 0, 0, 0, false, [], false, 0, 0, [], []⟩

/-- The registers at reset: zeros, but the stack pointer and the masks that R107 gives every task (log entry 1). -/
def Regs.reset : Regs :=
  { s := (Vector.replicate 64 0).set 61 0x1E000
    v := Vector.replicate 32 0
    m := Vector.replicate 8 (BitVec.allOnes 64)
    p := Vector.replicate 8 false }

/-- The context's system registers at reset (Tables 6-6, 8-7, 18-6, 21-1 and the others of Table 5-10, which reset to 0). -/
def Sys.reset : Sys :=
  { pid := 0, xlroot := 0, ctxbuf := 0, wdog := ⟨false, 0, 0⟩, kstep := 0, kseed0 := 0, ktc := 0
    kvlim := 0x3D800000, kvfloor := 0x00800000, kzth := 0
    lscale := 0x3E8180010, lsstat := 0, kwgt := 0x404, stalls := 0, bbctab := 0
    gearReq := false, taskid := 0 }

/-- The context at reset. -/
def Ctx.reset : Ctx :=
  { regs := Regs.reset, pc := 0, fmode := 0, retired := 0, rep := none, trap := ⟨false, 0, 0, 0, none⟩
    sys := Sys.reset
    tiles := ⟨[], Vector.replicate 16 0, Vector.replicate 8 none, 0, 0⟩
    cb2 := [], mq8 := [], streams := Vector.replicate 8 Stream.off, tx := Tx.none, mailbox := [], spill := []
    address := 0, claims := [] }

/-- The core at reset: compute core 0 of cluster 0 of die 0 of package 0, holding no context (log entry 3). -/
def Core.reset : Core :=
  { control := false, idx := 0, die := 0, pcore := 0, run := .free, k := false, handler := 0x1E000
    trctl := 0, trn := 0, dbgHalt := false, dbgStep := false, dbgQuiesce := false, halted := false, armed := false, saved := true
    cyc := 0, frac := 0, pend := [], locked := [], pre := none, ifetch := [], gq := [], wait := none, fence := none
    reqs := Requests.none, kq := [], outMsgs := [], chain := none, red := none, badRegs := [], badAcc := [], badCtx := [] }

/-- The arbiter at reset: no start, no credit, every KWGT at its reset value (Table 18-6); the round begins with queue 0 (R151). -/
def Arbiter.reset : Arbiter := ⟨0, 0, none, 0, 7, 0, Vector.replicate 8 0, Vector.replicate 8 0x404, 0, []⟩

/-- The cluster at reset. -/
def Cluster.reset : Cluster :=
  { index := 0, stores := Vector.replicate 8 [], spad := [], bad := [], phase := 0, pointers := Vector.replicate 16 0, bankBusy := Vector.replicate 16 0
    bars := Vector.replicate 16 ⟨0, 0, 0⟩, mutexes := Vector.replicate 16 ⟨false, 0, false, []⟩
    events := Vector.replicate 32 ⟨0, false, []⟩, gangMembers := 0, gangArrived := 0, gangTx := none
    arrivals := 0, bstore := [], tags := [], snaps := [], badCells := [], others := [], cbs := Vector.replicate 8 CircBuf.off
    launchQ := [], overflow := [], outRecs := [], dispatched := 0, busy := 0, tasks := [], slaves := 0
    xeng := Exchange.off, part := Partition.none
    gear := ⟨false, 1, false, false, 0, none, false, 0, 0, 0x20000⟩, gearReqs := 0, arb := Arbiter.reset
    queues := [], jobs := [], turn := 0, inbound := [], addresses := 0, addrTable := [], gangs := [] }

/-- The package at reset: a domain of one, of rank 0 (R201). -/
def Package.reset : Package :=
  { cycle := 0, rank := 0, mem := [], empty := [], poison := [], kept := [], deferred := [], lines := [], reducing := []
    stayHome := [], predictor := [], seq := ⟨[], [], [], [], [], 0⟩, exports := [], domain := 1, ready := [], linksDown := 0
    sensinj := 0, injected := [], readings := [], mult := Vector.replicate 8 0, multAt := Vector.replicate 8 0, below := Vector.replicate 8 false
    blocked := [], refreshes := [], intervals := 0, stage := 0, hot := false, power := true, frozen := false, launches := [], sherd := [], flash := []
    sherdCopy := [], image := none, booting := false
    reply := none, hostFns := [], hostFaults := 0, peer := none, dropped := 0, corrected := 0, reports := [], beside := [], hostMail := [], descriptors := [], txs := [] }

/-- The machine right after reset. -/
def State.reset : State :=
  { ctx := Ctx.reset, core := Core.reset, cl := Cluster.reset, pkg := Package.reset, agenda := [], turns := [], outside := [], tick := 0 }

end Sys2Proof.Machine
end

