-- ==== Sys2Proof/Machine/Basic.lean ====
section
/-! DEFINITION. The named operations over memories, registers and time that every meaning is written with: reading and
writing bytes in the canonical form, register access by number (Table 2-5), results inside their latency (R20, R80), and
the passing of arithmetic and fabric cycles (R8, R9, R354, R397). -/

namespace Sys2Proof.Machine

/-! ### Vectors -/

/-- Entry `i` of a register file, or a default beyond its end. -/
def vget {α : Type} {n : Nat} (v : Vector α n) (i : Nat) (d : α) : α := if h : i < n then v[i] else d

/-- A register file with entry `i` replaced; unchanged beyond its end. -/
def vset {α : Type} {n : Nat} (v : Vector α n) (i : Nat) (x : α) : Vector α n := if h : i < n then v.set i x else v

/-- One bit of a set of cores. -/
def bit8 (i : Nat) : BitVec 8 := 1 <<< i

/-! ### Memories -/

/-- The byte at an address. -/
def Memory.read : Memory → Nat → Byte
  | [], _ => unlisted
  | (x, b) :: m, a => if a = x then b else if a < x then unlisted else Memory.read m a

/-- A memory with one byte written, in canonical form. -/
def Memory.write : Memory → Nat → Byte → Memory
  | [], a, b => if b = unlisted then [] else [(a, b)]
  | (x, y) :: m, a, b =>
    if a < x then (if b = unlisted then (x, y) :: m else (a, b) :: (x, y) :: m)
    else if a = x then (if b = unlisted then m else (a, b) :: m)
    else (x, y) :: Memory.write m a b

/-- `n` bytes from an address as a little-endian number (R2). -/
def Memory.load (m : Memory) (a : Nat) : Nat → Nat
  | 0 => 0
  | n + 1 => (m.read a).toNat + 256 * Memory.load m (a + 1) n

/-- The `n` low bytes of a number written from an address upward, little-endian (R2). -/
def Memory.store (m : Memory) (a : Nat) : Nat → Nat → Memory
  | 0, _ => m
  | n + 1, x => Memory.store (m.write a (BitVec.ofNat 8 x)) (a + 1) n (x / 256)

/-- `n` bytes copied between memories, byte by byte from the lowest address. -/
def Memory.copy (dst : Memory) (d : Nat) (src : Memory) (a : Nat) : Nat → Memory
  | 0 => dst
  | n + 1 => Memory.copy (dst.write d (src.read a)) (d + 1) src (a + 1) n

/-- A 64-bit word. -/
def Memory.word (m : Memory) (a : Nat) : Word := BitVec.ofNat 64 (m.load a 8)

/-- 64 bytes. -/
def Memory.vec (m : Memory) (a : Nat) : Vec := BitVec.ofNat 512 (m.load a 64)

/-- The words `ws` written from an address upward. -/
def Memory.putWords (m : Memory) (a : Nat) : List Word → Memory
  | [] => m
  | w :: ws => Memory.putWords (m.store a 8 w.toNat) (a + 8) ws

/-- The entries below a bound, shifted to start at 0. -/
def Memory.slice (m : Memory) (lo hi : Nat) : Memory :=
  (m.filter fun c => lo ≤ c.1 && c.1 < hi).map fun c => (c.1 - lo, c.2)

/-- A list of cells in canonical form: as it is when it keeps the form, and else written cell by cell. -/
def Memory.canon (m : Memory) : Memory := if m.wf then m else m.foldl (fun r c => r.write c.1 c.2) []

/-- Byte `i` of an `n`-byte field, inserted or removed in a sorted list of addresses. -/
def insertNat (x : Nat) : List Nat → List Nat
  | [] => [x]
  | y :: ys => if x < y then x :: y :: ys else if x = y then y :: ys else y :: insertNat x ys

/-! ### Registers -/

/-- A scalar register by number: s0 to s63, m0 to m7 read as scalars, and zero for zr (Table 2-5, R79). -/
def Regs.scalar (r : Regs) (n : BitVec 7) : Word :=
  if n.toNat < 64 then vget r.s n.toNat 0
  else if 104 ≤ n.toNat && n.toNat ≤ 111 then vget r.m (n.toNat - 104) 0
  else 0

/-- A predicate; p7 reads true (R27). -/
def Regs.pred (r : Regs) (n : Nat) : Bool := if n = 7 then true else vget r.p n false

/-- One write of a result (R80). A write to p7 is discarded (R27). -/
def Regs.write (r : Regs) : RegWrite → Regs
  | .s n x => { r with s := vset r.s n x }
  | .v n mask x => { r with v := vset r.v n ((vget r.v n 0 &&& ~~~mask) ||| (x &&& mask)) }
  | .m n mask x => { r with m := vset r.m n ((vget r.m n 0 &&& ~~~mask) ||| (x &&& mask)) }
  | .p n b => if n = 7 then r else { r with p := vset r.p n b }
  | .flags _ => r

/-- FMODE with flags ORed into FLAGS, bits 12:8 (R66, R68). -/
def orFlags (fmode : Word) (f : BitVec 5) : Word := fmode ||| (f.zeroExtend 64 <<< 8)

/-- The end of a latency: the result is written. -/
def Ctx.land (c : Ctx) : RegWrite → Ctx
  | .flags f => { c with fmode := orFlags c.fmode f }
  | w => { c with regs := c.regs.write w }

/-- The write of a scalar destination by number: zr discards it (R26, R79). -/
def scalarWrite (n : BitVec 7) (x : Word) : Option RegWrite :=
  if n.toNat < 64 then some (.s n.toNat x)
  else if 104 ≤ n.toNat && n.toNat ≤ 111 then some (.m (n.toNat - 104) (BitVec.allOnes 64) x)
  else none

/-- A pending result put in its place in time; of two due in one cycle the earlier issued lands first. -/
def insertPend (p : Pending) : List Pending → List Pending
  | [] => [p]
  | q :: qs => if p.due < q.due then p :: q :: qs else q :: insertPend p qs

/-- The results that are due by cycle `c` are written. -/
def State.landBy (c : Nat) (s : State) : State :=
  { s with
    ctx := (s.core.pend.takeWhile (·.due ≤ c)).foldl (fun x p => x.land p.w) s.ctx
    core := { s.core with pend := s.core.pend.dropWhile (·.due ≤ c) } }

/-- Every issued instruction completes (R20, R372). -/
def State.landAll (s : State) : State :=
  { s with ctx := s.core.pend.foldl (fun x p => x.land p.w) s.ctx, core := { s.core with pend := [], locked := [] } }

/-! ### Reserved bits (R3) -/

/-- FMODE without its reserved bits (R66, R67). -/
def fmodeBits (x : Word) : Word := x &&& 0x1F1F0F

/-- System registers without their reserved bits, which read zero (R3; Tables 5-10, 6-6 to 6-8, 8-7, 17-7, 18-6, 21-6). -/
def Sys.clean (y : Sys) : Sys :=
  { y with
    xlroot := y.xlroot &&& 0x3FFFFFFF0000
    kstep := y.kstep &&& 0xFFFFFFFF
    ktc := y.ktc &&& 0xFFFFFFFF
    kvlim := y.kvlim &&& 0xFFFFFFFF
    kvfloor := y.kvfloor &&& 0xFFFFFFFF
    kzth := y.kzth &&& 0x10FFF
    lscale := y.lscale &&& 0xFFFFFFFFFF
    lsstat := y.lsstat &&& 0xFFFF0003FFFF
    kwgt := y.kwgt &&& 0xF0F
    bbctab := y.bbctab &&& 0x8000000003FFFFFF
    taskid := y.taskid &&& 0x1FFFFFFFFFFFF }

/-! ### Modes and clocks -/

/-- The core runs in an exchange phase of its partition (R314). -/
def State.exchanging (s : State) : Bool := s.cl.part.member && s.cl.part.exchange

/-- The core interlocks every result: it is a control core, or the phase is an exchange phase (R80). -/
def State.interlocks (s : State) : Bool := s.core.control || s.exchanging

/-- A result that is written in `lat` cycles, interlocked or exposed. -/
def State.putIn (lat : Nat) (held : Bool) (w : RegWrite) (s : State) : State :=
  { s with core := { s.core with pend := insertPend ⟨s.core.cyc + lat, w, held⟩ s.core.pend } }

/-- A result of latency `lat` is issued (R80). Latency 1 reaches the next instruction. A longer one is exposed, unless the core
interlocks every result. DESIGN CHOICE (log entry 61): of two results for one register that are due in the same cycle the one issued later
stands; the spec does not say which. -/
def State.put (lat : Nat) (w : RegWrite) (s : State) : State :=
  if lat ≤ 1 then { s.landBy (s.core.cyc + 1) with ctx := (s.landBy (s.core.cyc + 1)).ctx.land w } else s.putIn lat s.interlocks w

/-- A result of latency `lat` for a scalar destination. -/
def State.putS (lat : Nat) (n : BitVec 7) (x : Word) (s : State) : State :=
  match scalarWrite n x with
  | some w => s.put lat w
  | none => s

/-- The number under which the model keeps predicate `k`, above those of Table 2-5. -/
def predNum (k : BitVec 3) : BitVec 7 := 120 + k.zeroExtend 7

/-- Whether a pending result writes register `n` (Table 2-5 numbers, `predNum` of a predicate; p7 is never written). -/
def RegWrite.hits (n : BitVec 7) : RegWrite → Bool
  | .s k _ => n.toNat == k
  | .v k _ _ => n.toNat == 64 + k
  | .m k _ _ => n.toNat == 104 + k
  | .p k _ => n.toNat == 120 + k && k != 7
  | .flags _ => false

/-- Older results for register `n` land before an interlocked result is written to it. -/
def State.landReg (n : BitVec 7) (s : State) : State :=
  { s with
    ctx := (s.core.pend.filter (·.w.hits n)).foldl (fun x p => x.land p.w) s.ctx
    core := { s.core with pend := s.core.pend.filter fun p => !p.w.hits n } }

/-- An interlocked result: the register holds it, and a later instruction that names it is held a while (R80, R413). -/
def State.putLocked (n : BitVec 7) (w : RegWrite) (s : State) : State :=
  let s := s.landReg n
  { s with ctx := s.ctx.land w, core := { s.core with locked := n :: s.core.locked } }

/-- An interlocked result for a scalar destination; zr discards it. -/
def State.putSLocked (n : BitVec 7) (x : Word) (s : State) : State :=
  match scalarWrite n x with
  | some w => s.putLocked n w
  | none => s

/-- The arithmetic clock in MHz (Table 1-5). -/
def Gear.mhz (g : Gear) : Nat :=
  if g.n then 240 else if g.cap then 590 else match g.sub.toNat with | 0 => 1010 | 1 => 940 | 2 => 760 | _ => 590

/-- The watchdog counts fabric cycles (R397): on a control core while EN is 1, on a compute core while the context is
resident and not in kernel mode. -/
def Wdog.count (w : Wdog) (n : Nat) : Wdog :=
  let t := w.sub.toNat + n
  { w with sub := BitVec.ofNat 16 t, remain := BitVec.ofNat 32 (w.remain.toNat - t / 65536) }

/-- Fabric cycles pass: CYCLE rises, and the watchdog counts (Table 5-11, R397). -/
def State.fabric (n : Nat) (s : State) : State :=
  let counts := s.ctx.sys.wdog.en && (s.core.control || (s.core.run == .running && !s.core.k))
  { s with
    pkg := { s.pkg with cycle := s.pkg.cycle + n }
    ctx := { s.ctx with sys := { s.ctx.sys with
      wdog := if counts then s.ctx.sys.wdog.count n else s.ctx.sys.wdog } } }

/-! ### The arbiter's windows and macros (R136, R350, R351) -/

/-- The KWGT of a core's context (Table 18-6). -/
def State.kwgtOf (s : State) (i : Nat) : Word := if i = s.core.idx then s.ctx.sys.kwgt else vget s.cl.arb.weights i 0x404

/-- The power weights PW (Table 18-6). -/
def State.powerWeights (s : State) : Vector Nat 8 := Vector.ofFn fun i : Fin 8 => ((s.kwgtOf i.val).extractLsb' 8 4).toNat

/-- The credits after `k` window starts (R351). -/
def refilled (k : Nat) (pw credits : Vector Nat 8) : Vector Nat 8 :=
  Vector.ofFn fun i : Fin 8 => min (credits[i] + k * pw[i]) (2 * pw[i])

/-- BUDGET in force: 0 in gear N, whatever the register still holds (R350, R364). -/
def Gear.budget (g : Gear) : Nat := if g.n then 0 else (g.kgov.extractLsb' 0 10).toNat

/-- RAMP in force. -/
def Gear.ramp (g : Gear) : Nat := if g.n then 0 else (g.kgov.extractLsb' 10 10).toNat

/-- BUDGET is not 0 (R350). -/
def State.capped (s : State) : Bool := s.cl.gear.budget != 0

/-- The arbiter in the window of 64 arithmetic cycles that holds the current one (R350, R351). -/
def State.arbiter (s : State) : Arbiter :=
  let a := s.cl.arb
  let k := (s.core.cyc - a.start) / 64
  if k = 0 then a
  else { a with
    start := a.start + 64 * k
    count := 0
    prev := some (if k = 1 then a.count else 0)
    credits := if s.capped then refilled k s.powerWeights a.credits else a.credits }

/-- The budget refuses a start now (R350). -/
def State.overBudget (s : State) : Bool :=
  let g := s.cl.gear
  (g.budget != 0 && g.budget ≤ s.arbiter.count) || (g.ramp != 0 && s.arbiter.prev.getD 0 + g.ramp ≤ s.arbiter.count)

/-- A started command of the core has a pass that has not started. -/
def KilnCmd.waits (c : KilnCmd) : Bool := c.started && c.granted < c.plan.length

/-- The macro that holds the panel of a slice (R134, R155). -/
def KilnCmd.macroOf (c : KilnCmd) (slice : Nat) : Nat := ((bSpec c.bspec).f + slice * (bSpec c.bspec).t) % 16

/-- The passes of the command are FP64 passes. -/
def KilnCmd.isF64 (c : KilnCmd) : Bool := (tileHeader c.header).fmt == 0x08

/-- The pass cycles of Table 7-1. -/
def KilnCmd.passCycles (c : KilnCmd) : Nat :=
  if c.cb then 2
  else match (tileHeader c.header).fmt.toNat with | 0x08 => 64 | 0x09 => 32 | 0x0A | 0x0B => 8 | _ => 4

/-- A macro can take a pass: no pass is in it, and of FP64 passes fewer than 12 are in flight (R136). -/
def State.macroFree (s : State) (m : Nat) (f64 : Bool) : Bool :=
  let now := s.cl.arb.flying.filter fun x => s.core.cyc < x.2.2
  now.all (·.1 != m) && (!f64 || (now.filter (·.2.1)).length < 12)

/-- The next pass of the core's queue: its command's place in the queue, the command and the macro. -/
def State.nextPass (s : State) : Option (Nat × KilnCmd × Nat) :=
  match s.core.kq.findIdx? (·.waits) with
  | none => none
  | some k => match s.core.kq[k]? with
    | none => none
    | some c => (c.plan[c.granted]?).map fun p => (k, c, c.macroOf p.slice)

/-- The core's queue has a pass whose macro is free (R136, R151). -/
def State.passReady (s : State) : Bool :=
  match s.nextPass with
  | some x => s.macroFree x.2.2 x.2.1.isF64
  | none => false

/-- KGOV.STALLS counts cycles in which the budget refuses a startable pass of the core (R349, R350); the next window lets one start. -/
def State.countStalls (n : Nat) (s : State) : State :=
  if s.passReady && s.overBudget then
    { s with ctx := { s.ctx with sys := { s.ctx.sys with
      stalls := BitVec.ofNat 32 (min (2 ^ 32 - 1) (s.ctx.sys.stalls.toNat + min n (s.arbiter.start + 64 - s.core.cyc))) } } }
  else s

/-- Arithmetic cycles pass: 2,000 MHz of fabric against the gear's clock, whose period a sag doubles (R8, R354). The
results that fall due are written. -/
def State.advance (n : Nat) (s : State) : State :=
  let g := s.cl.gear
  let t := s.core.frac + n * 2000 * (if g.sag then 2 else 1)
  let s := (s.fabric (t / g.mhz)).countStalls n
  let s := { s with
    core := { s.core with cyc := s.core.cyc + n, frac := t % g.mhz }
    cl := { s.cl with phase := s.cl.phase + BitVec.ofNat 2 n, gear := { s.cl.gear with sagLeft := s.cl.gear.sagLeft - n } } }
  s.landBy s.core.cyc

/-- A free number of cycles passes, at most `k` (R193, R247, R413). -/
def State.linger (k : Nat) (s : State) : State :=
  { s with tick := s.tick + 1 }.advance (Config.hold s.tick % (k + 1))

/-! ### The gear that R341 requires -/

/-- The device owes this core's context the trap and the save of stage 2 (R404). -/
def State.stageOwed (s : State) : Bool :=
  (s.core.run == .running || s.core.run == .frozen) && s.core.reqs.emergency.isSome

/-- The gear that the resident contexts ask for, outside an exchange phase: true for N. Stage 2 holds gear N, once the contexts have been
saved (R404). -/
def State.restGear (s : State) : Bool :=
  let others := s.cl.busy &&& ~~~(bit8 s.core.idx)
  let here := s.core.run != .free && !s.core.control
  if 2 ≤ s.pkg.stage then s.cl.gear.n || !s.stageOwed
  else if others == 0 && !here then s.cl.gear.n
  else (!here || s.ctx.sys.gearReq) && others &&& ~~~s.cl.gearReqs == 0

/-- The gear that R341 requires; an exchange phase runs in gear F (R344). -/
def State.requiredGear (s : State) : Bool :=
  if s.pkg.stage < 2 && (s.cl.gear.lift || s.exchanging) then false else s.restGear

/-- The gear is not the one that R341 requires, and a handover is to begin (R342): not in an exchange phase (R344), but at stage 2, which every
cluster enters gear N for (R404). -/
def State.gearDue (s : State) : Bool :=
  s.cl.gear.handover.isNone && (!s.exchanging || 2 ≤ s.pkg.stage) && s.requiredGear != s.cl.gear.n

/-- Every core that holds a context of the partition has arrived at its closing barrier, and every other core is free (R314). -/
def State.allArrived (s : State) : Bool :=
  let mine : BitVec 8 := if s.core.run == .free || s.core.control then 0 else bit8 s.core.idx
  let there := (s.cl.busy &&& ~~~(bit8 s.core.idx)) ||| mine
  s.cl.part.member && there &&& ~~~s.cl.part.arrived == 0

/-- The lift may begin, or end (R344). -/
def State.liftable (s : State) (on : Bool) : Bool :=
  s.allArrived && s.cl.gear.handover.isNone && s.cl.part.startAt.isNone &&
    (if on then !s.cl.part.exchange && s.cl.gear.n && !s.cl.gear.lift else s.cl.part.exchange && s.cl.gear.lift)

/-- A slice pass or a burst of the copy engine is in progress (R342). -/
def State.passing (s : State) : Bool :=
  s.cl.arb.flying.any (fun x => s.core.cyc < x.2.2) || s.cl.jobs.any fun j => j.started && !j.finished && j.pos < j.burstEnd

/-- A handover has begun with its first step: what is in progress completes, and nothing else starts (R342). -/
def State.shifting (s : State) : Bool :=
  s.cl.gear.handover.isSome || s.gearDue || s.liftable true || s.liftable false

/-! ### Fields of registers -/

/-- FMODE.TOP (R66). -/
def State.top (s : State) : Bool := s.ctx.fmode.getLsbD 3

/-- FMODE.EN (R66). -/
def State.enables (s : State) : BitVec 5 := s.ctx.fmode.extractLsb' 16 5

/-- `rmode()`: the prefix's override when it is nonzero, else FMODE.RND (Table 2-9, R30). -/
def State.rmode (s : State) : BitVec 3 :=
  match s.core.pre with
  | some p => if p.ovr == 0 then s.ctx.fmode.extractLsb' 0 3 else (p.ovr - 1).extractLsb' 0 3
  | none => s.ctx.fmode.extractLsb' 0 3

/-- The prefix asks for saturation (R30). -/
def State.sat (s : State) : Bool := match s.core.pre with | some p => p.s | none => false

/-- The value that an operand field delivers to a scalar reader (Table 2-4). -/
def State.val (s : State) (o : Operand) : Word :=
  match o with
  | .reg n => s.ctx.regs.scalar n
  | .imm v => v.signExtend 64
  | .loc a => a.zeroExtend 64
  | .lit => match s.core.pre with | some p => p.lit | none => 0
  | .raw _ => 0

/-- The length of the instruction in bytes: a prefixed pair is two words (R31). -/
def State.len (s : State) : Word := if s.core.pre.isSome then 24 else 12

/-- LPKG of this package. -/
def State.home (s : State) : Nat := s.pkg.rank

end Sys2Proof.Machine
end

