-- ==== Sys2Proof/Machine/Float.lean ====
section
/-! DEFINITION. The number formats to the bit (chapter 4): decoding, NaN choice (R60), signed zeros (R61), `round`
(R62, R63), `sat` (R64), integer conversion (R65), the operations of R91, R92, R114 as exact values that are rounded
once, and the block formats of R69, R70 and R72. Every value is an integer times a power of two, or lies strictly
between two such values that are known (`sticky`). -/

namespace Sys2Proof.Machine

/-- The five flags: NV bit 4, DZ 3, OF 2, UF 1, NX 0 (R66, R68). -/
abbrev Flags := BitVec 5
def fNV : Flags := 16
def fDZ : Flags := 8
def fOF : Flags := 4
def fUF : Flags := 2
def fNX : Flags := 1

/-- The rounding modes in the order of FMODE.RND (Table 4-5). -/
inductive RMode where
  | rne | rtz | rup | rdn | rna
deriving DecidableEq, Repr

def RMode.ofCode (c : Nat) : RMode :=
  match c with | 0 => .rne | 1 => .rtz | 2 => .rup | 3 => .rdn | _ => .rna

/-- A binary float format: width, exponent width, fraction width (Table 4-2). -/
structure Fmt where
  w : Nat
  ew : Nat
  fw : Nat
deriving DecidableEq, Repr

def fp64 : Fmt := ⟨64, 11, 52⟩
def fp32 : Fmt := ⟨32, 8, 23⟩
def bf16 : Fmt := ⟨16, 8, 7⟩
def fp16 : Fmt := ⟨16, 5, 10⟩
def e4m3 : Fmt := ⟨8, 4, 3⟩
def e5m2 : Fmt := ⟨8, 5, 2⟩

/-- The format of a code 0x08 to 0x0D (Table 4-1). -/
def fmtOfCode (c : Nat) : Fmt :=
  match c with | 0x08 => fp64 | 0x09 => fp32 | 0x0A => bf16 | 0x0B => fp16 | 0x0C => e4m3 | _ => e5m2

/-- The format of a floating selector (Table 2-3). -/
def fmtOfSel (sel : BitVec 2) : Fmt :=
  match sel.toNat with | 0 => fp64 | 1 => fp32 | 2 => bf16 | _ => fp16

def Fmt.bias (F : Fmt) : Int := 2 ^ (F.ew - 1) - 1
def Fmt.narrow (F : Fmt) : Bool := F.w == 8
/-- The exponent of the least normal value. -/
def Fmt.emin (F : Fmt) : Int := 1 - F.bias
/-- The all-ones exponent in place: the encoding of +Inf where the format has one. -/
def Fmt.infMag (F : Fmt) : Nat := (2 ^ F.ew - 1) * 2 ^ F.fw
/-- The encoding of the greatest finite magnitude (Table 4-2): under TOP 1 an 8-bit format has one NaN only. -/
def Fmt.maxMag (F : Fmt) (top : Bool) : Nat :=
  if F.narrow && top then 2 ^ (F.w - 1) - 2 else F.infMag - 1
/-- The format has an infinity (R58). -/
def Fmt.hasInf (F : Fmt) (top : Bool) : Bool := !(F.narrow && top)
/-- The canonical NaN (R59). -/
def Fmt.canonNaN (F : Fmt) (top : Bool) : Nat :=
  if F.narrow && top then 0x7F else F.infMag + 2 ^ (F.fw - 1)
def Fmt.signed (F : Fmt) (neg : Bool) (mag : Nat) : Nat := if neg then 2 ^ (F.w - 1) + mag else mag

/-- A decoded value. A NaN keeps its sign and its fraction, left-aligned on 52 bits; a finite value is
(-1)^neg × m × 2^e (R57, R58). -/
inductive FVal where
  | nan (neg : Bool) (frac : Nat) (quiet : Bool)
  | inf (neg : Bool)
  | fin (neg : Bool) (m : Nat) (e : Int)
deriving DecidableEq, Repr

def FVal.isNaN : FVal → Bool | .nan .. => true | _ => false
def FVal.isSNaN : FVal → Bool | .nan _ _ q => !q | _ => false
def FVal.isZero : FVal → Bool | .fin _ m _ => m == 0 | _ => false
def FVal.isInf : FVal → Bool | .inf _ => true | _ => false
def FVal.isNeg : FVal → Bool | .nan n _ _ => n | .inf n => n | .fin n _ _ => n

/-- Decode the low bits of `x` in the format (R57, R58). -/
def Fmt.decode (F : Fmt) (top : Bool) (x : Nat) : FVal :=
  let neg := x / 2 ^ (F.w - 1) % 2 == 1
  let e := x / 2 ^ F.fw % 2 ^ F.ew
  let f := x % 2 ^ F.fw
  let normal := FVal.fin neg (2 ^ F.fw + f) ((e : Int) - F.bias - F.fw)
  if e == 2 ^ F.ew - 1 then
    if F.narrow && top then
      if f == 2 ^ F.fw - 1 then .nan neg (f * 2 ^ (52 - F.fw)) true else normal
    else if f == 0 then .inf neg
    else .nan neg (f * 2 ^ (52 - F.fw)) (F.narrow || 2 ^ (F.fw - 1) ≤ f)
  else if e == 0 then .fin neg f (F.emin - F.fw)
  else normal

/-- A NaN operand as a result: quieted, its sign and the top bits of its fraction kept; an 8-bit format's NaN is its
canonical one (R60). -/
def Fmt.encodeNaN (F : Fmt) (top : Bool) (neg : Bool) (frac : Nat) : Nat :=
  if F.narrow then F.canonNaN top
  else
    let f := frac / 2 ^ (52 - F.fw)
    F.signed neg (F.infMag + (if f < 2 ^ (F.fw - 1) then f + 2 ^ (F.fw - 1) else f))

/-- Whether the magnitude rounds away from the truncated one (R62): `twice` is the position of the remainder against
one half (0 below, 1 at, 2 above), `inexact` whether there is a remainder. -/
def roundsUp (mode : RMode) (neg odd inexact : Bool) (twice : Nat) : Bool :=
  match mode with
  | .rne => twice == 2 || (twice == 1 && odd)
  | .rtz => false
  | .rup => inexact && !neg
  | .rdn => inexact && neg
  | .rna => twice ≥ 1

/-- The place of `rem` (with `sticky` below it) against half of 2^shift. -/
def halfPlace (rem shift : Nat) (sticky : Bool) : Nat :=
  if shift == 0 then (if sticky then 0 else 0)
  else
    let half := 2 ^ (shift - 1)
    if rem < half then 0 else if rem == half && !sticky then 1 else 2

/-- The replacement of an overflowed result (Table 4-4). -/
def Fmt.overflow (F : Fmt) (top : Bool) (mode : RMode) (neg : Bool) : Nat :=
  let toInf := F.hasInf top && (match mode with
    | .rne | .rna => true
    | .rtz => false
    | .rup => !neg
    | .rdn => neg)
  F.signed neg (if toInf then F.infMag else F.maxMag top)

/-- `round` (R62, R63) of (-1)^neg × (m + δ) × 2^e, where δ is 0, or strictly between 0 and 1 when `sticky`. -/
def Fmt.round (F : Fmt) (top : Bool) (mode : RMode) (neg : Bool) (m : Nat) (e : Int) (sticky : Bool) : Nat × Flags :=
  if m == 0 && !sticky then (F.signed neg 0, 0)
  else
    let top' := (Nat.log2 m : Int) + e          -- floor(log2 |x|)
    let q := max (top' - F.fw) (F.emin - F.fw)   -- weight of the result's lowest bit
    let shift := (q - e).toNat
    let trunc := if e ≤ q then m / 2 ^ shift else m * 2 ^ (e - q).toNat
    let rem := if e ≤ q then m % 2 ^ shift else 0
    let inexact := rem != 0 || sticky
    let up := roundsUp mode neg (trunc % 2 == 1) inexact (halfPlace rem shift sticky)
    let r := if up then trunc + 1 else trunc
    -- the encoding of r × 2^q with the exponent unbounded
    let mag := if r < 2 ^ F.fw then r else ((q + F.fw + F.bias).toNat) * 2 ^ F.fw + (r - 2 ^ F.fw)
    if F.maxMag top < mag then (F.overflow top mode neg, fOF ||| fNX)
    else
      let fl := if inexact then fNX else 0
      (F.signed neg mag, if inexact && top' < F.emin then fl ||| fUF else fl)

/-- The exact result of an operation before rounding: a NaN operand, an invalid operation, an infinity, a number. -/
inductive Ex where
  | nan (neg : Bool) (frac : Nat)
  | invalid
  | inf (neg : Bool)
  | num (neg : Bool) (m : Nat) (e : Int) (sticky : Bool)
deriving DecidableEq, Repr

/-- An exact result with the flags already raised. -/
abbrev ExF := Ex × Flags

/-- A value as an exact result. -/
def FVal.ex : FVal → Ex
  | .nan n f _ => .nan n f
  | .inf n => .inf n
  | .fin n m e => .num n m e false

/-- The first NaN operand in field order, and NV when any operand is signalling (R60). -/
def pickNaN (vs : List FVal) : Option ExF :=
  let fl := if vs.any (·.isSNaN) then fNV else 0
  (vs.find? (·.isNaN)).map fun v => (v.ex, fl)

/-- Deliver an exact result in a format: NaN by R60, then `round`; with `sat`, a finite value that rounded to an
infinity becomes the greatest finite value (R91). An infinity into an 8-bit format under TOP 1 is R63's last case. -/
def Fmt.deliver (F : Fmt) (top : Bool) (mode : RMode) (sat : Bool) (x : ExF) : Nat × Flags :=
  match x.1 with
  | .nan n f => (F.encodeNaN top n f, x.2)
  | .invalid => (F.canonNaN top, x.2 ||| fNV)
  | .inf n => if F.hasInf top then (F.signed n F.infMag, x.2) else (F.signed n (F.maxMag top), x.2 ||| fNV)
  | .num n m e st =>
    let r := F.round top mode n m e st
    if sat && F.hasInf top && r.1 == F.signed n F.infMag then (F.signed n (F.maxMag top), x.2 ||| r.2)
    else (r.1, x.2 ||| r.2)

/-- The exact sum of two finite values, with the sign of a zero by R61. -/
def exSum (mode : RMode) (n₁ : Bool) (m₁ : Nat) (e₁ : Int) (n₂ : Bool) (m₂ : Nat) (e₂ : Int) : Ex :=
  let e := min e₁ e₂
  let a : Int := m₁ * 2 ^ (e₁ - e).toNat
  let b : Int := m₂ * 2 ^ (e₂ - e).toNat
  let s := (if n₁ then -a else a) + (if n₂ then -b else b)
  if s == 0 then .num (if n₁ == n₂ then n₁ else mode == .rdn) 0 0 false
  else .num (s < 0) s.natAbs e false

/-- a + b for values that are not NaN. -/
def addVal (mode : RMode) : FVal → FVal → Ex
  | .inf a, .inf b => if a == b then .inf a else .invalid
  | .inf a, _ => .inf a
  | _, .inf b => .inf b
  | .fin n₁ m₁ e₁, .fin n₂ m₂ e₂ => exSum mode n₁ m₁ e₁ n₂ m₂ e₂
  | a, _ => a.ex

def FVal.negate : FVal → FVal
  | .nan n f q => .nan n f q
  | .inf n => .inf !n
  | .fin n m e => .fin (!n) m e

def exAdd (mode : RMode) (a b : FVal) : ExF :=
  (pickNaN [a, b]).getD (addVal mode a b, 0)

def exSub (mode : RMode) (a b : FVal) : ExF :=
  (pickNaN [a, b]).getD (addVal mode a b.negate, 0)

/-- a × b: exact, or none for 0 × ∞. Of values of which one is a NaN it is the first NaN. -/
def mulVal : FVal → FVal → Option FVal
  | .inf a, .fin b m _ | .fin b m _, .inf a => if m == 0 then none else some (.inf (a != b))
  | .inf a, .inf b => some (.inf (a != b))
  | .fin n₁ m₁ e₁, .fin n₂ m₂ e₂ => some (.fin (n₁ != n₂) (m₁ * m₂) (e₁ + e₂))
  | a, b => some (if a.isNaN then a else b)

def exMul (a b : FVal) : ExF :=
  (pickNaN [a, b]).getD (match mulVal a b with | some p => p.ex | none => .invalid, 0)

/-- a × b + d with one rounding. 0 × ∞ raises NV even when d is a quiet NaN, which is then the result (R91). -/
def exFma (mode : RMode) (a b d : FVal) : ExF :=
  match pickNaN [a, b, d] with
  | some (x, fl) =>
    let bad := !a.isNaN && !b.isNaN && (mulVal a b).isNone
    (x, if bad then fl ||| fNV else fl)
  | none => match mulVal a b with
    | none => (.invalid, 0)
    | some p => (addVal mode p d, 0)

/-- a / b (R91): DZ for a finite nonzero value by zero. -/
def exDiv (F : Fmt) (a b : FVal) : ExF :=
  (pickNaN [a, b]).getD (match a, b with
    | .inf _, .inf _ => (.invalid, 0)
    | .inf n, d => (.inf (n != d.isNeg), 0)
    | c, .inf n => (.num (c.isNeg != n) 0 0 false, 0)
    | .fin n₁ m₁ e₁, .fin n₂ m₂ e₂ =>
      if m₂ == 0 then (if m₁ == 0 then (.invalid, 0) else (.inf (n₁ != n₂), fDZ))
      else
        let k := F.fw + 4 + Nat.log2 m₂
        let p := m₁ * 2 ^ k
        (.num (n₁ != n₂) (p / m₂) (e₁ - e₂ - k) (p % m₂ != 0), 0)
    | c, _ => (c.ex, 0))

/-- floor(√n), one bit at a time from bit `k`. -/
def isqrtFrom : Nat → Nat → Nat → Nat
  | 0, n, r => if (r + 1) * (r + 1) ≤ n then r + 1 else r
  | k + 1, n, r =>
    let r' := r + 2 ^ (k + 1)
    isqrtFrom k n (if r' * r' ≤ n then r' else r)

def isqrt (n : Nat) : Nat := isqrtFrom (Nat.log2 n / 2 + 1) n 0

/-- √a (R91). -/
def exSqrt (F : Fmt) (a : FVal) : ExF :=
  (pickNaN [a]).getD (match a with
    | .inf n => if n then (.invalid, 0) else (.inf false, 0)
    | .fin n m e =>
      if m == 0 then (.num n 0 0 false, 0)
      else if n then (.invalid, 0)
      else
        let odd := e % 2 == 1
        let m' := (if odd then 2 * m else m) * 2 ^ (2 * (F.fw + 4))
        let e' := (if odd then e - 1 else e) / 2 - (F.fw + 4)
        let r := isqrt m'
        (.num false r e' (r * r != m'), 0)
    | c => (c.ex, 0))

/-- 1/√a (R114). -/
def exRsqrt (F : Fmt) (a : FVal) : ExF :=
  (pickNaN [a]).getD (match a with
    | .inf n => if n then (.invalid, 0) else (.num false 0 0 false, 0)
    | .fin n m e =>
      if m == 0 then (.inf n, fDZ)
      else if n then (.invalid, 0)
      else
        let odd := e % 2 == 1
        let m' := if odd then 2 * m else m
        let h := (if odd then e - 1 else e) / 2
        let k := F.fw + 6 + Nat.log2 m'
        let n' := 2 ^ (2 * k)
        let r := isqrt (n' / m')
        (.num false r (-h - k) (r * r * m' != n'), 0)
    | c => (c.ex, 0))

/-- One squaring of an interval [lo, hi] × 2^-w of mantissas in [1, 2); `x` is the exponent so far. None when the
interval straddles 2. -/
def squareStep (w : Nat) : Nat × Nat × Nat → Option (Nat × Nat × Nat)
  | (lo, hi, x) =>
    let lo' := lo * lo / 2 ^ w
    let hi' := hi * hi / 2 ^ w + 1
    if hi' < 2 ^ (w + 1) then some (lo', hi', 2 * x)
    else if 2 ^ (w + 1) ≤ lo' then some (lo' / 2, hi' / 2 + 1, 2 * x + 1)
    else none

def squareSteps (w : Nat) : Nat → Nat × Nat × Nat → Option (Nat × Nat × Nat)
  | 0, s => some s
  | n + 1, s => (squareStep w s).bind (squareSteps w n)

/-- floor(2^n × log2(x / 2^q)) for 2^q < x < 2^(q+1): by intervals where they decide it, else by the exact power. -/
def log2Floor (x q n : Nat) : Nat :=
  let w := n + q + 64
  let m := x * 2 ^ (w - q)
  match squareSteps w n (m, m, 0) with
  | some (_, _, v) => v
  | none => Nat.log2 (x ^ 2 ^ n) - q * 2 ^ n

/-- floor(2^q × 2^(r/2^n)) for 0 < r < 2^n, one bit at a time: x is not above 2^(r/2^n) exactly when
2^n × log2 x < r + (a fraction), that is when its floor is below r. -/
def exp2Bits (n r q : Nat) : Nat → Nat → Nat
  | 0, t => t
  | k + 1, t =>
    let c := t + 2 ^ k
    exp2Bits n r q k (if log2Floor c q n < r then c else t)

/-- 2^a (R114). Beyond |a| = 5,000 the result lies beyond every format's range, as at 5,000. -/
def exExp2 (F : Fmt) (a : FVal) : ExF :=
  (pickNaN [a]).getD (match a with
    | .inf n => (if n then .num false 0 0 false else .inf false, 0)
    | .fin n m e =>
      if m == 0 then (.num false 1 0 false, 0)
      else
        let d := (-e).toNat
        let i : Int := if e ≥ 0 then m * 2 ^ e.toNat else m / 2 ^ d
        let r := if e ≥ 0 then 0 else m % 2 ^ d
        if i > 5000 then (.num false 1 (if n then -5000 else 5000) true, 0)
        else if r == 0 then (.num false 1 (if n then -i else i) false, 0)
        else
          let k := if n then -i - 1 else i
          let r' := if n then 2 ^ d - r else r
          let q := F.fw + 4
          (.num false (exp2Bits d r' q q (2 ^ q)) (k - q) true, 0)
    | c => (c.ex, 0))

/-- log2 a (R114). -/
def exLog2 (F : Fmt) (a : FVal) : ExF :=
  (pickNaN [a]).getD (match a with
    | .inf n => if n then (.invalid, 0) else (.inf false, 0)
    | .fin n m e =>
      if m == 0 then (.inf true, fDZ)
      else if n then (.invalid, 0)
      else
        let l := Nat.log2 m
        let i : Int := l + e
        if m == 2 ^ l then (.num (i < 0) i.natAbs 0 false, 0)
        else
          let k := 2 * F.fw + 10
          let v : Int := i * 2 ^ k + log2Floor m l k
          (if v ≥ 0 then .num false v.natAbs (-k) true else .num true (-v - 1).natAbs (-k) true, 0)
    | c => (c.ex, 0))

/-- The order of two values; none when either is a NaN; −0 equals +0 (R61). -/
def FVal.cmp : FVal → FVal → Option Ordering
  | .nan .., _ | _, .nan .. => none
  | .inf a, .inf b => some (if a == b then .eq else if a then .lt else .gt)
  | .inf a, _ => some (if a then .lt else .gt)
  | _, .inf b => some (if b then .gt else .lt)
  | .fin n₁ m₁ e₁, .fin n₂ m₂ e₂ =>
    let e := min e₁ e₂
    let a : Int := m₁ * 2 ^ (e₁ - e).toNat
    let b : Int := m₂ * 2 ^ (e₂ - e).toNat
    some (compare (if n₁ then -a else a) (if n₂ then -b else b))

/-- `a` is strictly below `b`, with −0 below +0 (R61). -/
def FVal.belowTotal (a b : FVal) : Bool :=
  match a.cmp b with
  | some .lt => true
  | some .eq => a.isNeg && !b.isNeg
  | _ => false

/-- FMIN and FMAX (R92), on encodings. -/
def Fmt.minmax (F : Fmt) (top isMax : Bool) (x y : Nat) : Nat × Flags :=
  let a := F.decode top x
  let b := F.decode top y
  if a.isSNaN || b.isSNaN || (a.isNaN && b.isNaN) then F.deliver top .rne false ((pickNaN [a, b]).getD (.invalid, 0))
  else if a.isNaN then (y, 0)
  else if b.isNaN then (x, 0)
  else if (if isMax then a.belowTotal b else b.belowTotal a) then (y, 0)
  else (x, 0)

/-- AFMIN and AFMAX (R230), on encodings. -/
def Fmt.atomicMinmax (F : Fmt) (isMax : Bool) (x y : Nat) : Nat × Flags :=
  let a := F.decode false x
  let b := F.decode false y
  if a.isSNaN || b.isSNaN then (F.canonNaN false, fNV)
  else if a.isNaN && b.isNaN then (F.canonNaN false, 0)
  else if a.isNaN then (y, 0)
  else if b.isNaN then (x, 0)
  else if (if isMax then a.belowTotal b else b.belowTotal a) then (y, 0)
  else (x, 0)

/-- The floating conditions of Table 5-7: the result and NV. -/
def fcond (code : Nat) (a b : FVal) : Bool × Flags :=
  let un := a.isNaN || b.isNaN
  let fl := if a.isSNaN || b.isSNaN || (un && 2 ≤ code && code ≤ 5) then fNV else 0
  let o := a.cmp b
  let r := match code with
    | 0 => o == some .eq
    | 1 => o != some .eq
    | 2 => o == some .lt
    | 3 => o == some .lt || o == some .eq
    | 4 => o == some .gt
    | 5 => o == some .gt || o == some .eq
    | 6 => un
    | _ => !un
  (r, fl)

/-- FCLASS's bit (R96). -/
def Fmt.classBit (F : Fmt) (x : Nat) : Nat :=
  match F.decode false x with
  | .nan _ _ q => if q then 9 else 8
  | .inf n => if n then 0 else 7
  | .fin n m _ =>
    if m == 0 then (if n then 3 else 4)
    else if m < 2 ^ F.fw then (if n then 2 else 5)
    else (if n then 1 else 6)

/-- An integer format: its least and greatest values (R36, R56). -/
def intRange (code : Nat) : Int × Int :=
  match code with
  | 0x00 => (-128, 127)
  | 0x01 => (0, 255)
  | 0x02 => (-8, 7)
  | 0x03 => (-32768, 32767)
  | 0x04 => (-2147483648, 2147483647)
  | _ => (-9223372036854775808, 9223372036854775807)

/-- `sat` for integers (R36). -/
def clampInt (lo hi x : Int) : Int := max lo (min hi x)

/-- The integer neighbour of (-1)^neg × (m + δ) × 2^e by mode, and whether it was inexact (R62). -/
def roundInt (mode : RMode) (neg : Bool) (m : Nat) (e : Int) (sticky : Bool) : Int × Bool :=
  let shift := (-e).toNat
  let trunc := if e ≤ 0 then m / 2 ^ shift else m * 2 ^ e.toNat
  let rem := if e ≤ 0 then m % 2 ^ shift else 0
  let inexact := rem != 0 || sticky
  let up := roundsUp mode neg (trunc % 2 == 1) inexact (halfPlace rem shift sticky)
  let r : Int := if up then trunc + 1 else trunc
  (if neg then -r else r, inexact)

/-- A float to an integer format (R65). -/
def toInt (mode : RMode) (code : Nat) (v : FVal) : Int × Flags :=
  let (lo, hi) := intRange code
  match v with
  | .nan .. => (0, fNV)
  | .inf n => (if n then lo else hi, fNV)
  | .fin n m e =>
    let (r, inexact) := roundInt mode n m e false
    if r < lo || hi < r then (clampInt lo hi r, fNV) else (r, if inexact then fNX else 0)

/-- An integer as an exact result. -/
def exInt (x : Int) : ExF := (.num (x < 0) x.natAbs 0 false, 0)

/-- Read the low bits of `x` as the integer format (R56). -/
def readInt (code : Nat) (x : Nat) : Int :=
  let w := match code with | 0x00 | 0x01 => 8 | 0x02 => 4 | 0x03 => 16 | 0x04 => 32 | _ => 64
  let v : Int := (x % 2 ^ w : Nat)
  if code == 0x01 || v < 2 ^ (w - 1) then v else v - 2 ^ w

/-- A value times 2^k, exact. -/
def FVal.scale (v : FVal) (k : Int) : FVal :=
  match v with | .fin n m e => .fin n m (e + k) | c => c

/-- An MX element under its scale byte (R69). DESIGN CHOICE (log entry 56): under a NaN scale every element is the positive canonical NaN;
R69 says only that it decodes to NaN. -/
def mxValue (F : Fmt) (top : Bool) (elem scale : Nat) : FVal :=
  if scale == 0xFF then .nan false (2 ^ 51) true
  else (F.decode top elem).scale ((scale : Int) - 127)

/-- floor(log2 |x|) of a finite nonzero value. -/
def FVal.floorLog2 : FVal → Option Int
  | .fin _ m e => if m == 0 then none else some (Nat.log2 m + e)
  | _ => none

/-- The sign of weight `k` of CB2 index `i` (R70). -/
def cb2Sign (i k : Nat) : Bool :=
  if k < 7 then i / 2 ^ (k + 1) % 2 == 1
  else (List.range 7).foldl (fun s j => s != (i / 2 ^ (j + 1) % 2 == 1)) false

/-- Weight `k` of CB2 index `i` under the table word of its entry and the block's BF16 scale; none is 0 × ∞ (R70). A NaN scale makes it
the canonical NaN, which is quiet. -/
def cb2Weight (word i k : Nat) (scale : FVal) : Option FVal :=
  let c := word / 2 ^ (4 * k) % 16
  let h := i % 2
  let s := cb2Sign i k
  match scale with
  | .nan .. => some (.nan false (2 ^ 51) true)
  | .inf n => if 2 * c + h == 0 then none else some (.inf (n != s))
  | .fin n m e => some (.fin (n != s) (m * (2 * c + h)) (e - 1))

/-- A CB2 weight as the exact result of its decode: 0 × ∞ is invalid, and a signalling scale raises NV (R60, R70). -/
def cb2Ex (word i k : Nat) (scale : FVal) : ExF :=
  ((match cb2Weight word i k scale with | some v => v.ex | none => .invalid), if scale.isSNaN then fNV else 0)

/-- The decode of a CB2 weight raises NV (R60, R70, R140). -/
def cb2Invalid (word i k : Nat) (scale : FVal) : Bool := scale.isSNaN || (cb2Weight word i k scale).isNone

/-- An exact FP32 operation under RNE on encodings, without flags (the norms and variances of chapter 8). -/
def f32 (x : ExF) : Nat := (fp32.deliver false .rne false x).1
def d32 (x : Nat) : FVal := fp32.decode false x
def add32 (a b : Nat) : Nat := f32 (exAdd .rne (d32 a) (d32 b))
def mul32 (a b : Nat) : Nat := f32 (exMul (d32 a) (d32 b))

end Sys2Proof.Machine
end

