-- ==== Sys2Proof/Machine/Flags.lean ====
section
/-! DEFINITION. The integer operations of Table 5-3, the integer conditions of Table 5-5, the reduction operators of Table
6-4 and the combine field of R89: what the scalar, vector and bank-ALU instructions share. The flag rules of the float
operations stand with the formats in Float.lean (R60 to R68). -/

namespace Sys2Proof.Machine

/-- The operations of Table 5-3. -/
inductive AluOp where
  | add | sub | mul | mulh | mulhu | div | divu | rem | remu
  | and | or | xor | andn | shl | shr | sar | rotl
  | clz | ctz | popc | min | max | minu | maxu | abs | neg
deriving DecidableEq, Repr

/-- A `w`-bit pattern read in two's complement (`sext`, Table 2-9). -/
def sx (w a : Nat) : Int := if a < 2 ^ (w - 1) then (a : Int) else (a : Int) - 2 ^ w

/-- The bits of a number below `w`: one bits, and zero bits below the lowest one. -/
def popCount : Nat → Nat → Nat
  | 0, _ => 0
  | w + 1, a => a % 2 + popCount w (a / 2)

def trailing : Nat → Nat → Nat
  | 0, _ => 0
  | w + 1, a => if a % 2 = 1 then 0 else 1 + trailing w (a / 2)

/-- Leading zeros of a `w`-bit number (Table 5-3). -/
def leading (w a : Nat) : Nat := if a = 0 then w else w - 1 - Nat.log2 a

/-- The exact result x of Table 5-3 for operands of width `w` and the count `k`. A division by 0 is trapped before. -/
def AluOp.exact (op : AluOp) (w a b k : Nat) : Int :=
  let sa := sx w a
  let sb := sx w b
  match op with
  | .add => sa + sb
  | .sub => sa - sb
  | .mul => sa * sb
  | .mulh => sa * sb / 2 ^ w
  | .mulhu => ((a * b / 2 ^ w : Nat) : Int)
  | .div => sa.tdiv sb
  | .divu => ((a / b : Nat) : Int)
  | .rem => sa.tmod sb
  | .remu => ((a % b : Nat) : Int)
  | .and => ((a &&& b : Nat) : Int)
  | .or => ((a ||| b : Nat) : Int)
  | .xor => ((a ^^^ b : Nat) : Int)
  | .andn => ((a &&& (2 ^ w - 1 - b) : Nat) : Int)
  | .shl => if w ≤ k then 0 else ((a * 2 ^ k : Nat) : Int)
  | .shr => if w ≤ k then 0 else ((a / 2 ^ k : Nat) : Int)
  | .sar => sa / 2 ^ Nat.min k (w - 1)
  | .rotl => ((a * 2 ^ (k % w) + a / 2 ^ (w - k % w) : Nat) : Int)
  | .clz => (leading w a : Int)
  | .ctz => (trailing w a : Int)
  | .popc => (popCount w a : Int)
  | .min => Min.min sa sb
  | .max => Max.max sa sb
  | .minu => (Nat.min a b : Int)
  | .maxu => (Nat.max a b : Int)
  | .abs => sa.natAbs
  | .neg => -sa

/-- The S modifier is listed for the operation (R84, R111). -/
def AluOp.saturates : AluOp → Bool
  | .add | .sub | .mul | .abs | .neg | .div => true
  | _ => false

/-- `sat(x, INTw)` (Table 2-9). -/
def satInt (w : Nat) (x : Int) : Int := clampInt (-(2 ^ (w - 1))) (2 ^ (w - 1) - 1) x

/-- The `w` low bits of an integer. -/
def lowBits (w : Nat) (x : Int) : Nat := (x % 2 ^ w).toNat

/-- The result of R84: the exact one, saturated under S where S is listed, modulo 2^w. -/
def AluOp.result (op : AluOp) (sat : Bool) (w a b k : Nat) : Nat :=
  let x := op.exact w a b k
  lowBits w (if sat && op.saturates then satInt w x else x)

/-- The integer conditions of Table 5-5. -/
def icond (code w a b : Nat) : Bool :=
  match code with
  | 0 => a == b
  | 1 => a != b
  | 2 => sx w a < sx w b
  | 3 => sx w b ≤ sx w a
  | 4 => sx w a ≤ sx w b
  | 5 => sx w b < sx w a
  | 6 => a < b
  | 7 => b ≤ a
  | 8 => a ≤ b
  | _ => b < a

/-- The combine field of R89: 0 sets, 1 ands, 2 ors. -/
def combine (c : Nat) (old r : Bool) : Bool :=
  match c with | 0 => r | 1 => old && r | _ => old || r

/-- The integer operators of Table 6-4, codes 0 to 7. -/
def redInt (op w a b : Nat) : Nat :=
  match op with
  | 0 => (a + b) % 2 ^ w
  | 1 => lowBits w (Min.min (sx w a) (sx w b))
  | 2 => lowBits w (Max.max (sx w a) (sx w b))
  | 3 => Nat.min a b
  | 4 => Nat.max a b
  | 5 => a &&& b
  | 6 => a ||| b
  | _ => a ^^^ b

/-- The identities of Table 6-4, a float one as an encoding of format `F`. -/
def redIdentity (op w : Nat) (F : Fmt) : Nat :=
  match op with
  | 1 => 2 ^ (w - 1) - 1
  | 2 => 2 ^ (w - 1)
  | 3 => 2 ^ w - 1
  | 5 => 2 ^ w - 1
  | 8 => F.signed true 0
  | 9 => F.signed false F.infMag
  | 10 => F.signed true F.infMag
  | _ => 0

end Sys2Proof.Machine
end

