-- ==== Sys2Proof/Machine/Home.lean ====
section
/-! DEFINITION. The homes of global memory: the map of physical addresses (R197 to R202), poisoned granules (R207, R208),
moved lines and the contention predictor (R232 to R234), and the operations that are performed there: loads and stores
(R203), the bank ALUs' atomics (R229, R230), full/empty words (R235, R236) and ranked reductions (R237 to R239). -/

namespace Sys2Proof.Machine

/-- The tiers of Table 10-3. -/
inductive Tier where
  | dram | hbm | slice | reserved
deriving DecidableEq, Repr

/-- The tier of a physical address, by its package offset (Table 10-3). -/
def tierOf (pa : Nat) : Tier :=
  let o := pa % 2 ^ 43
  if o < 0x2000000000 then .dram
  else if 0x4000000000 ≤ o && o < 0x8000000000 then .hbm
  else if 0x8000000000 ≤ o && o < 0x8010000000 then .slice
  else .reserved

/-- The package of a physical address (R197). -/
def packageOf (pa : Nat) : Nat := pa / 2 ^ 43 % 8

/-- The slice that is a slice address's home, numbered die × 64 + slice (R200). -/
def sliceOf (pa : Nat) : Nat := pa / 2 ^ 26 % 4 * 64 + pa / 2 ^ 12 % 64

/-- The DRAM channel and the layer (0 lower, 1 upper) of a DRAM address (R197, R198). -/
def channelOf (pa : Nat) : Nat × Nat := (pa % 2 ^ 37 / 2 ^ 25, pa / 2 ^ 24 % 2)

/-- The die of a package cluster index (R11): rows 0 to 7 and columns 0 to 15 are die 0. -/
def clusterDie (c : Nat) : Nat := c % 32 / 16 + 2 * (c / 32 / 8)

/-- The home slice of a tile, numbered package × 256 + die × 64 + slice (R276). -/
def tileHome (pa : Nat) : Nat :=
  let p := packageOf pa * 256
  match tierOf pa with
  | .slice => p + sliceOf pa
  | .dram => p + clusterDie ((channelOf pa).1 / 8) * 64 + pa / 2 ^ 12 % 64
  | _ => p + pa / 2 ^ 12 % 4 * 64 + pa / 2 ^ 12 % 64

/-- The bytes of a protection granule of the tier (Table 10-5). -/
def granule (pa : Nat) : Nat := if tierOf pa = .slice then 8 else 32

/-- Some byte of the range lies in a poisoned granule (R208). -/
def State.poisoned (s : State) (pa n : Nat) : Bool :=
  s.pkg.poison.any fun g => g < pa + n && pa < g + granule g

/-! ### Records for the kernel -/

/-- The last `n` elements of a list. -/
def latest {α : Type} (n : Nat) (l : List α) : List α := (l.reverse.take n).reverse

/-- A record of the sherd ring, which keeps the latest 4,096 (R406). The unit within the die is numbered cluster × 8 + core. -/
def State.sherd (kind : Nat) (detail : Word) (s : State) : State :=
  let unit := s.cl.index % 16 * 64 + s.cl.index / 32 % 8 * 8 + s.core.idx
  let w := (BitVec.ofNat 64 kind <<< 56) ||| (BitVec.ofNat 64 (s.core.die % 4 * 1024 + unit % 1024) <<< 44) |||
    (detail &&& 0xFFFFFFFFFFF)
  { s with pkg := { s.pkg with sherd := latest 4096 (s.pkg.sherd ++ [⟨s.pkg.cycle, w⟩]) } }

/-- An uncorrectable error is reported to the kernel and written to the sherd record (R207, R399). -/
def State.uncorrectable (pa : Nat) (s : State) : State :=
  { s with pkg := { s.pkg with reports := BitVec.ofNat 64 pa :: s.pkg.reports } }.sherd 3 (BitVec.ofNat 64 pa)

/-! ### Stores -/

/-- The poison of a granule that a store, a pushed element or a burst covers whole is cleared (R208). -/
def State.cover (pa n : Nat) (s : State) : State :=
  if s.pkg.poison = [] then s
  else { s with pkg := { s.pkg with poison := s.pkg.poison.filter fun g => !(pa ≤ g && g + granule g ≤ pa + n) } }

/-- Bytes written one after the other as the runs that they form: address, length and data. -/
def mergeRuns (xs : List (Nat × Nat × Nat)) : List (Nat × Nat × Nat) :=
  xs.foldr (fun x acc => match acc with
    | y :: rest => if y.1 = x.1 + x.2.1 then (x.1, x.2.1 + y.2.1, x.2.2 + y.2.2 * 2 ^ (8 * x.2.1)) :: rest else x :: acc
    | [] => [x]) []

/-- A store at its home (R203, R208): bytes of a poisoned granule that it does not cover whole are discarded and
reported; a poisoned granule that it covers is cleared. -/
def State.homeStore (pa n data : Nat) (s : State) : State :=
  if s.pkg.poison = [] then { s with pkg := { s.pkg with mem := s.pkg.mem.store pa n data } }
  else
    let whole := fun g => pa ≤ g && g + granule g ≤ pa + n
    let lost := fun a => s.pkg.poison.any fun g => g ≤ a && a < g + granule g && !whole g
    let mem := (List.range n).foldl (fun m i =>
      if lost (pa + i) then m else m.write (pa + i) (BitVec.ofNat 8 (data / 2 ^ (8 * i)))) s.pkg.mem
    let t : State := { s with pkg := { s.pkg with mem, poison := s.pkg.poison.filter (fun g => !whole g) } }
    if (List.range n).any fun i => lost (pa + i) then t.uncorrectable pa else t

/-- A word of a slice is full (R200). -/
def State.full (s : State) (pa : Nat) : Bool := !s.pkg.empty.contains pa

/-- A word's full/empty bit is set to full or empty. -/
def State.setFull (pa : Nat) (full : Bool) (s : State) : State :=
  { s with pkg := { s.pkg with
    empty := if full then s.pkg.empty.filter (· != pa) else insertNat pa s.pkg.empty } }

/-- The bytes of an element of a format (Table 4-1); an INT4 nibble and an MX or MQ8 element are within one byte, and a CB2
weight within two. -/
def elemBytes (fmt : BitVec 5) : Nat :=
  match fmt.toNat with
  | 0x03 | 0x0A | 0x0B | 0x10 => 2
  | 0x04 | 0x09 => 4
  | 0x05 | 0x08 | 0x12 => 8
  | _ => 1

/-! ### Moved lines -/

/-- The counter of a station's contention predictor (R234): the station of a cluster, bits 15:6 of the address. -/
def predictorKey (cluster pa : Nat) : Nat :=
  (clusterDie cluster * 16 + cluster % 16) * 1024 + pa / 64 % 1024

def State.predictor (s : State) (key : Nat) : Nat := ((s.pkg.predictor.find? (·.1 == key)).map (·.2)).getD 0

/-- A line that another cluster accessed returns home: it stays there for 256 fabric cycles, and the counter of the
station that moved it rises (R233, R234). -/
def State.lineReturn (line : Nat) (counted : Bool) (s : State) : State :=
  match s.pkg.lines.find? (·.pa == line) with
  | none => s
  | some l =>
    let key := predictorKey l.cluster line
    let c := Nat.min 3 (s.predictor key + 1)
    { s with pkg := { s.pkg with
      lines := s.pkg.lines.filter (·.pa != line)
      stayHome := (line, s.pkg.cycle + 256) :: s.pkg.stayHome.filter (·.1 != line)
      predictor := if counted then (key, c) :: s.pkg.predictor.filter (·.1 != key) else s.pkg.predictor } }

/-- An agent of `cluster` accesses a byte: a line held by another cluster returns (R233). DEDUCED (log entry 35): R233 lets any access from
outside the holding cluster return the line, and says too that ordinary accesses are served where it is held; the model returns it. -/
def State.touch (cluster pa : Nat) (s : State) : State :=
  match s.pkg.lines.find? fun l => l.pa == pa / 64 * 64 && l.cluster != cluster with
  | some l => s.lineReturn l.pa true
  | none => s

/-- A reduction block with an arrival in progress overlaps the line (R232, R238): its first arrival has come, its last has not, and its
control word still counts arrivals. -/
def State.reducingAt (s : State) (line : Nat) : Bool :=
  s.pkg.reducing.any fun b => b.1 < line + 64 && line < b.1 + 16 + 8 * b.2 && (s.pkg.mem.word b.1).extractLsb' 32 9 != 0

/-- A line may move: it is one of this package's slices, holds no empty word and no word with a deferred-list entry, meets no reduction in progress (R232),
and its stay at home is over (R233). -/
def State.lineMayMove (s : State) (line : Nat) : Bool :=
  tierOf line = .slice && packageOf line == s.pkg.rank && !s.reducingAt line && !(s.pkg.empty.any fun e => line ≤ e && e < line + 64) &&
    !(s.pkg.deferred.any fun d => line ≤ d.pa && d.pa < line + 64) &&
    !(s.pkg.stayHome.any fun h => h.1 == line && s.pkg.cycle < h.2)

/-- A line moves to a cluster's line buffer of 16 lines; the least recently used line there makes room (R232, R233). The lines stand with
the latest move first, so that of those used in one step the last is the oldest. -/
def State.lineMove (line cluster : Nat) (s : State) : State :=
  if !s.lineMayMove line then s
  else
    let mine := s.pkg.lines.filter fun l => l.cluster == cluster && l.pa != line
    let oldest := mine.foldl (fun o l => match o with
      | none => some l
      | some b => if l.used ≤ b.used then some l else some b) (none : Option MovedLine)
    let s := if 16 ≤ mine.length then (match oldest with | some o => s.lineReturn o.pa false | none => s) else s
    { s with pkg := { s.pkg with
      lines := ⟨line, cluster, s.tick⟩ :: s.pkg.lines.filter (·.pa != line) } }

/-- A line goes home because an agent of `cluster` needs it there; the counter rises when another cluster held it (R233, R234). -/
def State.sendHome (cluster line : Nat) (s : State) : State :=
  s.lineReturn line ((s.pkg.lines.find? (·.pa == line)).any (·.cluster != cluster))

/-- Where an atomic executes (R232): under .LOC, and under .AUTO by its predictor, its line moves to the issuing cluster, from home or
from the cluster that holds it; otherwise the line goes home. Where it executes changes no result (R223). -/
def State.place (cluster : Nat) (hint : BitVec 2) (pa : Nat) (s : State) : State :=
  let line := pa / 64 * 64
  let loc := hint == 1 || (hint == 0 && s.predictor (predictorKey cluster pa) ≤ 1)
  if loc && s.lineMayMove line then s.lineMove line cluster else s.sendHome cluster line

/-! ### Atomics -/

/-- The width of an atomic's word by its page's format (R228): 8, 4, or none. -/
def atomicWidth (fmt : BitVec 5) : Option Nat :=
  match fmt.toNat with
  | 0x1F | 0x05 | 0x12 | 0x08 => some 8
  | 0x04 | 0x09 => some 4
  | _ => none

/-- Table 12-2 and R230: the new word and the flags, from the old word, B and D as `8n`-bit numbers. -/
def atomicNew (op : AtomOp) (fmt : BitVec 5) (rm : BitVec 3) (n m b d : Nat) : Nat × Flags :=
  let w := 8 * n
  let F := fmtOfCode fmt.toNat
  match op with
  | .add => ((m + b) % 2 ^ w, 0)
  | .and => (m &&& b, 0)
  | .or => (m ||| b, 0)
  | .xor => (m ^^^ b, 0)
  | .min => (redInt 1 w m b, 0)
  | .max => (redInt 2 w m b, 0)
  | .minu => (Nat.min m b, 0)
  | .maxu => (Nat.max m b, 0)
  | .swp => (b, 0)
  | .cas => (if m = d then b else m, 0)
  | .fadd =>
    let mode := RMode.ofCode rm.toNat
    F.deliver false mode false (exAdd mode (F.decode false m) (F.decode false b))
  | .fmin => F.atomicMinmax false m b
  | .fmax => F.atomicMinmax true m b

/-- One read-modify-write at the bank ALU (R229): the next state, the old word and the flags. -/
def State.atomicAt (op : AtomOp) (fmt : BitVec 5) (rm : BitVec 3) (pa : Nat) (b d : Word) (s : State) :
    State × Nat × Flags :=
  let n := (atomicWidth fmt).getD 8
  let m := s.pkg.mem.load pa n
  let r := atomicNew op fmt rm n m (b.toNat % 2 ^ (8 * n)) (d.toNat % 2 ^ (8 * n))
  (s.homeStore pa n r.1, m, r.2)

/-! ### Full/empty words -/

/-- A request served for this core: its wait has its value (R235, R247). -/
def State.serveTake (pa : Nat) (v : Word) (s : State) : State :=
  match s.core.wait with
  | some w =>
    (match w.kind with
     | .take p _ _ => if p = pa then { s with core := { s.core with wait := some { w with served := some v } } } else s
     | _ => s)
  | none => s

/-- The entries of a word served in arrival order while it stays full (R235). -/
def State.servePut (pa : Nat) (v : Word) : Nat → Bool → State → State × Bool
  | 0, served, s => (s, served)
  | k + 1, served, s =>
    if !s.full pa then (s, served)
    else match s.pkg.deferred.find? (·.pa == pa) with
      | none => (s, served)
      | some e =>
        let s := { s with pkg := { s.pkg with deferred := s.pkg.deferred.erase e } }
        let s := if e.who.isNone then s.serveTake pa v else s
        State.servePut pa v k true (if e.keep then s else s.setFull pa false)

/-- PUT at the home, by an agent of `cluster` (R235): the next state and its status. -/
def State.putAt (cluster pa : Nat) (v : Word) (s : State) : State × Word :=
  let was := s.full pa
  let s := (s.sendHome cluster (pa / 64 * 64)).homeStore pa 8 v.toNat
  let s := s.setFull pa true
  let r := s.servePut pa v s.pkg.deferred.length false
  (r.1, (bit01 r.2 <<< 1) ||| bit01 was)

/-- What a TAKE or TAKE.K meets at the home (R235, R236). -/
inductive Took where
  | value (s : State) (v : Word)
  | queued (s : State)
  | overflow

/-- TAKE and TAKE.K at the home, by an agent of `cluster` (R235, R236): `who` is none for this core. -/
def State.takeAt (cluster pa : Nat) (keep : Bool) (who : Option Nat) (s : State) : Took :=
  let s := s.sendHome cluster (pa / 64 * 64)
  if s.full pa then .value (if keep then s else s.setFull pa false) (s.pkg.mem.word pa)
  else if 64 ≤ (s.pkg.deferred.filter fun d => packageOf d.pa == packageOf pa && sliceOf d.pa == sliceOf pa).length then
    .overflow
  else .queued { s with pkg := { s.pkg with deferred := s.pkg.deferred ++ [⟨pa, who, keep⟩] } }

/-! ### Ranked reductions -/

/-- The control word of a reduction block is valid (Table 12-4). -/
def redControlOk (c : Word) : Bool :=
  let n := (c.extractLsb' 16 9).toNat
  let op := (c.extractLsb' 8 4).toNat
  let fmt := (c.extractLsb' 0 5).toNat
  c.extractLsb' 53 11 == 0 && c.extractLsb' 41 7 == 0 && c.extractLsb' 25 7 == 0 && c.extractLsb' 12 4 == 0 &&
    c.extractLsb' 5 3 == 0 && 1 ≤ n && n ≤ 510 && (c.extractLsb' 32 9).toNat ≤ n &&
    ((op ≤ 7 && fmt == 0x05) || (8 ≤ op && op ≤ 10 && (fmt == 0x08 || fmt == 0x09)))

/-- One step of the fold of R239. -/
def redOp (op : Nat) (F : Fmt) (x y : Nat × Flags) : Nat × Flags :=
  match op with
  | 8 =>
    let r := F.deliver false .rne false (exAdd .rne (F.decode false x.1) (F.decode false y.1))
    (r.1, x.2 ||| r.2)
  | 9 => let r := F.atomicMinmax false x.1 y.1; (r.1, x.2 ||| r.2)
  | 10 => let r := F.atomicMinmax true x.1 y.1; (r.1, x.2 ||| r.2)
  | _ => (redInt op 64 x.1 y.1, 0)

/-- The fold of the slots in rank order (R239). -/
def redFold (op : Nat) (fmt : Nat) (slots : List Nat) : Nat × Flags :=
  let F := fmtOfCode fmt
  let slots := if op ≤ 7 then slots else slots.map (· % 2 ^ F.w)
  let quiet := fun x => match F.decode false x with
    | .nan n f q => (F.encodeNaN false n f, if q then (0 : Flags) else fNV)
    | _ => (x, 0)
  let snan := slots.any fun x => (F.decode false x).isSNaN
  match slots with
  | [] => (0, 0)
  | x :: rest =>
    if op ≤ 7 then rest.foldl (fun a y => redOp op F a (y, 0)) (x, 0)
    else match (if op = 8 then slots.find? fun y => (F.decode false y).isNaN else none) with
      | some y => ((quiet y).1, if snan then fNV else 0)
      | none => rest.foldl (fun a y => redOp op F a (y, 0)) (quiet x)

/-- The address of a rank's slot in its block (Table 12-4). -/
def redSlot (pa r : Nat) : Nat := pa + 16 + 8 * r

/-- The lines of a block that an arrival touches go home (R233). -/
def State.blockHome (cluster pa n : Nat) (s : State) : State :=
  (List.range ((16 + 8 * n + 63) / 64)).foldl (fun s i => s.sendHome cluster (pa + 64 * i)) s

/-- The blocks with an arrival in progress replaced. -/
def State.setReducing (l : List (Nat × Nat)) (s : State) : State := { s with pkg := { s.pkg with reducing := l } }

/-- A block whose ARR is 0 starts: its result and its slots become empty (R238). -/
def State.redaStart (pa n : Nat) (s : State) : State :=
  (List.range n).foldl (fun s r => s.setFull (redSlot pa r) false)
    ((s.setReducing ((pa, n) :: s.pkg.reducing.filter (·.1 != pa))).setFull (pa + 8) false)

/-- A word of the block is filled, and what waits for it is served (R235, R238). -/
def State.redaFill (a : Nat) (v : Word) (s : State) : State :=
  let s := (s.homeStore a 8 v.toNat).setFull a true
  (s.servePut a v s.pkg.deferred.length false).1

/-- The last arrival (R238, R239): the fold in rank order, its flags in the control word `c`, and ARR back to 0. -/
def State.redaLast (pa n : Nat) (c : Word) (s : State) : State :=
  let f := redFold (c.extractLsb' 8 4).toNat (c.extractLsb' 0 5).toNat ((List.range n).map fun r => s.pkg.mem.load (redSlot pa r) 8)
  let c' := (c &&& 0xFFE0FE00FFFFFFFF#64) ||| (f.2.zeroExtend 64 <<< 48)
  let s := s.setReducing (s.pkg.reducing.filter (·.1 != pa))
  let s := ((s.homeStore (pa + 8) 8 f.1).homeStore pa 8 c'.toNat).setFull (pa + 8) true
  (s.servePut (pa + 8) (BitVec.ofNat 64 f.1) s.pkg.deferred.length false).1

/-- A rank arrives at a started block of `n` ranks of which `arr` have arrived (R238). -/
def State.redaArrive (pa rank n arr : Nat) (c v : Word) (s : State) : State × Word :=
  if s.full (redSlot pa rank) then (s, 2 <<< 17)
  else if arr + 1 = n then ((s.redaFill (redSlot pa rank) v).redaLast pa n c, BitVec.ofNat 64 (arr + 1) ||| (1 <<< 16))
  else
    ((s.redaFill (redSlot pa rank) v).homeStore pa 8 ((c &&& 0xFFFFFE00FFFFFFFF#64) ||| (BitVec.ofNat 64 (arr + 1) <<< 32)).toNat,
      BitVec.ofNat 64 (arr + 1))

/-- The arrival of a rank at its block, from an agent of `cluster` (R238): the next state and the status. -/
def State.redaAt (cluster pa : Nat) (rank : Nat) (v : Word) (s : State) : State × Word :=
  let s := s.sendHome cluster (pa / 64 * 64)
  let c := s.pkg.mem.word pa
  let n := (c.extractLsb' 16 9).toNat
  let arr := (c.extractLsb' 32 9).toNat
  if !redControlOk c || pa % 4096 + 8 * (n + 2) > 4096 then (s, 3 <<< 17)
  else if n ≤ rank then (s, 1 <<< 17)
  else (if arr = 0 then (s.blockHome cluster pa n).redaStart pa n else s.blockHome cluster pa n).redaArrive pa rank n arr c v

/-- The words that an arrival reads hold an uncorrectable error: the control word, the rank's slot, and for the last one every slot. -/
def State.redaBad (s : State) (pa rank : Nat) : Bool :=
  let c := s.pkg.mem.word pa
  let n := (c.extractLsb' 16 9).toNat
  let last := (c.extractLsb' 32 9).toNat + 1 = n
  s.poisoned pa 8 || (redControlOk c && rank < n && (s.poisoned (redSlot pa rank) 8 || (last && s.poisoned (redSlot pa 0) (8 * n))))

end Sys2Proof.Machine
end

