-- ==== Sys2Proof/Machine/Packet.lean ====
section
/-! DEFINITION. Queues and packets of the copy engine: descriptors and claims (R250, R251), the fields of a packet (Table 13-2),
its checks (R255), the local bytes that it touches (R265), and the place of every element that it moves (R256 to R259). -/

namespace Sys2Proof.Machine

/-! ### Queues -/

/-- The 56-bit count in a descriptor word. -/
def low56 (x : Word) : Nat := (x.extractLsb' 0 56).toNat

/-- The word of a queue's descriptor at an offset (Table 13-1). -/
def State.desc (s : State) (pa o : Nat) : Word := s.pkg.mem.word (pa + o)

/-- The slots of a queue. -/
def State.slots (s : State) (pa : Nat) : Nat := 2 ^ ((s.desc pa 0x28).extractLsb' 0 5).toNat

/-- The slots of a queue that are claimed and not read yet (R251): W - R modulo 2^56. -/
def State.claimed (s : State) (pa : Nat) : Nat := low56 (s.desc pa 0 - s.desc pa 0x10)

/-- A claim at the descriptor (R251): the index, or all ones. -/
def State.claimAt (pa : Nat) (s : State) : State × Word :=
  if s.claimed pa < s.slots pa then (s.homeStore pa 8 (low56 (s.desc pa 0 + 1)), BitVec.ofNat 64 (low56 (s.desc pa 0)))
  else (s, BitVec.allOnes 64)

/-- An access of `n` bytes is a read of a queue's CLAIM (R251). -/
def State.isClaim (s : State) (pa n : Nat) : Bool := n == 8 && 8 ≤ pa && s.pkg.descriptors.contains (pa - 8)

/-- The engine ORs bits into STAT, and writes FADDR when it sets FAULT from 0 (R250). -/
def State.setStat (pa : Nat) (bits faddr : Word) (s : State) : State :=
  let old := s.desc pa 0x30
  let s := s.homeStore (pa + 0x30) 8 (old ||| bits).toNat
  if bits.getLsbD 8 && !old.getLsbD 8 then s.homeStore (pa + 0x38) 8 faddr.toNat else s

/-- A queue that a fault stopped is served again once STAT's bit is clear (R252). -/
def State.restartQueues (s : State) : State :=
  { s with cl := { s.cl with queues := s.cl.queues.map fun q =>
      if q.halt != 0 && !(s.desc q.pa 0x30).getLsbD q.halt then { q with halt := 0 } else q } }

/-- A descriptor binds its queue to this cluster's engine (Table 13-1). -/
def State.boundAt (s : State) (pa : Nat) : Bool :=
  let c := s.desc pa 0x28
  c.getLsbD 47 && (c.extractLsb' 17 3).toNat == s.pkg.rank && (c.extractLsb' 8 9).toNat == s.cl.index

/-- A queue is bound to this cluster's engine (Table 13-1). -/
def State.bound (s : State) (q : QueueBind) : Bool := s.boundAt q.pa

/-- The kernel has created a queue (R250): its descriptor is known at its bank ALU, and the engine that it names serves it, as one of at
most 16. -/
def State.bindQueue (pa : Nat) (va root : Word) (s : State) : State :=
  let s := { s with pkg := { s.pkg with descriptors := pa :: s.pkg.descriptors.filter (· != pa) } }
  let others := s.cl.queues.filter (·.pa != pa)
  if s.boundAt pa && others.length < 16 then { s with cl := { s.cl with queues := others ++ [⟨pa, va, root, 0⟩] } } else s

/-! ### Fields -/

def Job.word (j : Job) (i : Nat) : Word := vget j.w i 0
/-- An unsigned field of a packet word. -/
def Job.field (j : Job) (i lo n : Nat) : Nat := ((j.word i).extractLsb' lo n).toNat
def Job.cvt (j : Job) : Bool := (j.word 0).getLsbD 63
def Job.top (j : Job) : Bool := (j.word 0).getLsbD 62
def Job.noMsg (j : Job) : Bool := (j.word 0).getLsbD 61
def Job.linked (j : Job) : Bool := (j.word 0).getLsbD 60
def Job.ser (j : Job) : Bool := (j.word 0).getLsbD 59
def Job.kind (j : Job) : Nat := j.field 0 56 3
def Job.sfmt (j : Job) : BitVec 5 := (j.word 4).extractLsb' 17 5
def Job.dfmt (j : Job) : BitVec 5 := (j.word 4).extractLsb' 22 5
def Job.rnd (j : Job) : Nat := j.field 4 27 3
def Job.sat (j : Job) : Bool := (j.word 4).getLsbD 30
def Job.ssp (j : Job) : Nat := j.field 4 0 3
def Job.score (j : Job) : Nat := j.field 4 3 3
def Job.dsp (j : Job) : Nat := j.field 4 6 3
def Job.dcore (j : Job) : Nat := j.field 4 9 3
def Job.stsp (j : Job) : Nat := j.field 4 12 2
def Job.mbxc (j : Job) : Nat := j.field 4 14 3
/-- Rows and columns of a COPY or GATHER tile. -/
def Job.th (j : Job) : Nat := j.field 5 48 16
def Job.tw (j : Job) : Nat := j.field 5 32 16
/-- A signed field of a packet word. -/
def Job.signed (j : Job) (i lo n : Nat) : Int := ((j.word i).extractLsb' lo n).toInt
/-- WINDOW: channels and window columns and rows. -/
def Job.chans (j : Job) : Nat := j.field 5 0 16
def Job.kw (j : Job) : Nat := j.field 5 24 8
def Job.kh (j : Job) : Nat := j.field 5 16 8
/-- The tensor's, table's or image's extents H and W. -/
def Job.height (j : Job) : Nat := j.field 6 16 16
def Job.width (j : Job) : Nat := j.field 6 0 16

/-- The element sizes e and e′ (R256). -/
def Job.e (j : Job) : Nat := if j.sfmt == 0x1F then 1 else elemBytes j.sfmt
def Job.e' (j : Job) : Nat := if j.cvt then elemBytes j.dfmt else j.e

/-- The bytes of a source row, or of a WINDOW pixel, of `k` elements (R259). -/
def Job.rowBytes (j : Job) (k : Nat) : Nat :=
  if isMX j.sfmt then 33 * ((k + 31) / 32) else k * j.e

/-- The rows of a WINDOW output: R, in elements (R258). -/
def Job.winRow (j : Job) : Nat := j.kh * j.kw * j.chans

/-- The in-bound box of a COPY (R256): YLO, YHI, XLO, XHI; an empty box has rows 0 to 0. -/
def Job.box (j : Job) : Nat × Nat × Nat × Nat :=
  let one := fun (o : Int) (n ext : Nat) =>
    (min n (-o).toNat, if ext = 0 then n else min n (ext - o).toNat)
  let y := one (j.signed 6 48 16) j.th j.height
  let x := one (j.signed 6 32 16) j.tw j.width
  if y.1 < y.2 && x.1 < x.2 then (y.1, y.2, x.1, x.2) else (0, 0, 0, 0)

/-- The elements of the packet, in its order, those that it clips included. -/
def Job.count (j : Job) : Nat := if j.kind = 2 then j.field 5 48 16 * j.winRow else j.th * j.tw

/-! ### The local bytes of a packet -/

/-- An address as an integer: local ones are small, and a negative one lies outside every range. -/
def Job.src (j : Job) : Int := (j.word 1).toInt
def Job.dst (j : Job) : Int := (j.word 2).toInt

/-- A source row's intervals: the elements from `x` on, and the scales of an MX row. -/
def Job.rowSpans (j : Job) (a : Int) (x n k : Nat) : List (Int × Nat) :=
  if isMX j.sfmt then [(a + x, n), (a + 32 * ((k + 31) / 32 : Nat), (k + 31) / 32)] else [(a + x * j.e, n * j.e)]

/-- The intervals of the source (R256 to R258). -/
def Job.srcSpans (j : Job) : List (Int × Nat) :=
  let sstr := j.signed 5 0 32
  match j.kind with
  | 0 =>
    let b := j.box
    (List.range (b.2.1 - b.1)).flatMap fun i =>
      j.rowSpans (j.src + (j.signed 6 48 16 + b.1 + i) * sstr + j.signed 6 32 16 * j.e) b.2.2.1 (b.2.2.2 - b.2.2.1) j.tw
  | 1 =>
    let span := (j.height - 1 : Nat) * sstr
    [(j.src + min 0 span, span.natAbs + j.rowBytes j.tw)]
  | _ => [(j.src, j.field 6 32 16 * j.height * j.width * j.rowBytes j.chans)]

/-- The intervals of the destination. -/
def Job.dstSpans (j : Job) : List (Int × Nat) :=
  let dstr := j.signed 4 32 32
  match j.kind with
  | 0 =>
    let b := j.box
    (List.range (b.2.1 - b.1)).map fun i =>
      (j.dst + (b.1 + i : Nat) * dstr + b.2.2.1 * j.e', (b.2.2.2 - b.2.2.1) * j.e')
  | 1 => (List.range j.th).map fun y => (j.dst + y * dstr, j.tw * j.e')
  | _ => [(j.dst, j.field 5 48 16 * j.winRow * j.e')]

/-- An interval of a local space lies in its range of Table 13-3. -/
def localSpan (sp : Nat) (kernel : Bool) (x : Int × Nat) : Bool :=
  if sp = 1 then 0x100000 ≤ x.1 && x.1 + x.2 ≤ 0x300000
  else 0 ≤ x.1 && x.1 + x.2 ≤ (if kernel then 0x20000 else 0x1E000)

/-! ### The checks of R255 -/

/-- SFMT and DFMT of a permitted conversion (R259). -/
def convertible (sf df : BitVec 5) : Bool :=
  let plain := fun (c : BitVec 5) => c == 0 || c == 1 || (3#5 ≤ c && c ≤ 5#5) || (8#5 ≤ c && c ≤ 0x0D#5)
  (plain sf || isMX sf) && plain df

/-- A circular buffer named as a space: an address of 0 to 7, initialised, with its direction (R254, R264). -/
def bufferOk (cbs : Vector CircBuf 8) (a : Word) (outbound : Bool) : Bool :=
  a.ule 7 && (let c := vget cbs a.toNat CircBuf.off; c.init && c.config.getLsbD 48 == outbound)

/-- The engine refuses the packet (R255): `hostOk` is HOSTOK, `kernel` says that the queue is a kernel queue. DESIGN CHOICE (log entry 58): a
NEXT of a LINK that is not a multiple of 64, and a scratchpad stamp outside the scratchpad, are refused; of a strided global or host
tile only SRC and DST are checked for alignment. -/
def Job.refuses (j : Job) (hostOk kernel : Bool) (cbs : Vector CircBuf 8) : Bool :=
  let sf := j.sfmt
  let df := j.dfmt
  let zero := fun i lo n => j.field i lo n == 0
  let badFields := 2 < j.kind || j.stsp == 3 || 4 < j.rnd || 4 < j.ssp || 4 < j.dsp ||
    (j.word 4).getLsbD 31 != (j.kind == 1) || (!j.cvt && df != 0) || (!j.linked && j.word 7 != 0) ||
    reservedFmt sf || reservedFmt df || 256 ≤ j.link
  let badShape := match j.kind with
    | 0 => zero 5 48 16 || zero 5 32 16 || (j.height == 0 && j.signed 6 48 16 < 0) || (j.width == 0 && j.signed 6 32 16 < 0) ||
        (isMX sf && !(zero 6 32 16 && zero 6 48 16))
    | 1 => zero 5 48 16 || zero 5 32 16 || j.height == 0 || !zero 6 0 16 || j.field 6 32 32 % 4 != 0
    | _ => zero 5 48 16 || zero 5 24 8 || zero 5 16 8 || zero 5 0 16 || !zero 6 48 16
  let badFormat := sf == 0x02 || sf == 0x10 || sf == 0x11 || df == 0x02 || df == 0x10 || df == 0x11 ||
    (!j.cvt && (isMX sf || sf == 0x12)) || (j.cvt && !convertible sf df)
  let far := fun (sp : Nat) => sp == 0 || sp == 4
  let badAddress := (far j.ssp && (j.word 1).toNat % j.e != 0) || (far j.dsp && (j.word 2).toNat % j.e' != 0) ||
    (j.word 3).toNat % 8 != 0 || (j.linked && (j.word 7).toNat % 64 != 0)
  let near := fun (sp : Nat) => sp == 1 || sp == 2
  let badBox := (near j.ssp && !j.srcSpans.all (localSpan j.ssp kernel)) ||
    (near j.dsp && !j.dstSpans.all (localSpan j.dsp kernel)) ||
    (j.kind == 1 && !localSpan 1 kernel (j.field 6 32 32, 4 * j.th)) ||
    (j.stsp == 1 && !localSpan 1 kernel ((j.word 3).toInt, 8))
  let badHost := !hostOk && (j.ssp == 4 || j.dsp == 4 || j.stsp == 2)
  let badBuffer := (j.ssp == 3 && !bufferOk cbs (j.word 1) true) || (j.dsp == 3 && !bufferOk cbs (j.word 2) false)
  badFields || badShape || badFormat || badAddress || badBox || badHost || badBuffer

/-- The stamp's address is usable (R261). -/
def Job.stampUsable (j : Job) (hostOk : Bool) : Bool :=
  (j.word 3).toNat % 8 == 0 && (match j.stsp with
    | 0 => j.word 3 != 0
    | 1 => localSpan 1 true ((j.word 3).toInt, 8)
    | 2 => hostOk
    | _ => false)

/-! ### Elements -/

/-- What the packet does with one element of its order: it moves it (source address, scale address, destination address, and its
dense places in buffer spaces), clips it, or finds its row past the batch. -/
inductive Item where
  | move (src : Int) (scale : Option Int) (dst : Int) (inAt outAt : Nat)
  | clip
  | past
deriving DecidableEq, Repr

/-- Element `i` of the packet's order (R256 to R259); a GATHER row uses the index that the job has read. -/
def Job.item (j : Job) (i : Nat) : Item :=
  let mx := isMX j.sfmt
  let row := fun (a dst : Int) (y x : Nat) =>
    Item.move (a + x * j.e) (if mx then some (a + (32 * ((j.tw + 31) / 32) + x / 32 : Nat)) else none) dst
      (y * j.rowBytes j.tw + x * j.e) (i * j.e')
  match j.kind with
  | 0 =>
    let y := i / j.tw
    let x := i % j.tw
    let b := j.box
    if b.1 ≤ y && y < b.2.1 && b.2.2.1 ≤ x && x < b.2.2.2 then
      row (j.src + (j.signed 6 48 16 + y) * j.signed 5 0 32 + j.signed 6 32 16 * j.e)
        (j.dst + y * j.signed 4 32 32 + x * j.e') y x
    else .clip
  | 1 =>
    let y := i / j.tw
    let x := i % j.tw
    let k := j.index.toInt
    if 0 ≤ k && k < j.height then row (j.src + k * j.signed 5 0 32) (j.dst + y * j.signed 4 32 32 + x * j.e') y x else .clip
  | _ =>
    let h := j.height
    let w := j.width
    let c := j.chans
    let r := i % j.winRow
    let q := j.field 4 32 32 + i / j.winRow
    if j.field 6 32 16 * h * w ≤ q then .past
    else
      let iy : Int := (q / w % h : Nat) + (r / (j.kw * c) : Nat) - (j.field 5 32 8 : Nat)
      let ix : Int := (q % w : Nat) + (r / c % j.kw : Nat) - (j.field 5 40 8 : Nat)
      if 0 ≤ iy && iy < h && 0 ≤ ix && ix < w then
        let px := j.src + ((((q / (h * w) : Nat) * h + iy) * w + ix) * (j.rowBytes c : Nat))
        .move (px + (r % c) * j.e) (if mx then some (px + (32 * ((c + 31) / 32) + r % c / 32 : Nat)) else none)
          (j.dst + i * j.e') (i / c * j.rowBytes c + r % c * j.e) (i * j.e')
      else .clip

end Sys2Proof.Machine
end

