-- ==== Sys2Proof/Machine/Global.lean ====
section
/-! DEFINITION. Global accesses: the walk and its checks at a station (R357 to R362, R201, R202, R367, R14, R285), the elements
of typed pages (R74 to R77), and the steps of an access that its station has accepted: it is performed at its home, and
its data return (R81, R204, R216). -/

namespace Sys2Proof.Machine

/-- A trap: its cause (Table 22-1) and TRAPVAL. -/
abbrev Trap := Nat × Word

/-- What a translation gives for one address: its physical address, and the page's size, FMT and BG. -/
structure Page where
  pa : Nat
  size : Nat
  fmt : BitVec 5
  bg : BitVec 3
deriving DecidableEq, Repr

/-- The size of a leaf's page and of the table indexed at a level (Table 21-2). -/
def levelShift (level : Nat) : Nat := match level with | 0 => 16 | 1 => 21 | 2 => 30 | _ => 39

/-- The index of a virtual address at a level (Table 21-2). -/
def levelIndex (level : Nat) (va : Word) : Nat :=
  match level with
  | 0 => (va.extractLsb' 16 5).toNat
  | 1 => (va.extractLsb' 21 9).toNat
  | 2 => (va.extractLsb' 30 9).toNat
  | _ => (va.extractLsb' 39 13).toNat

/-- The FMT and BG of a leaf keep R74. -/
def pageFmtOk (fmt : BitVec 5) (bg : BitVec 3) : Bool :=
  !reservedFmt fmt && bg.ule 2 && (bg == 0 || (0x0E#5 ≤ fmt && fmt ≤ 0x11#5))

/-- A valid entry keeps the rules of Table 21-3 and R359 at its level. -/
def entryOk (level : Nat) (e : Word) : Bool :=
  let clean := e.extractLsb' 46 10 == 0 && e.extractLsb' 5 3 == 0
  if e.getLsbD 1 then
    clean && level != 0 && e.extractLsb' 56 8 == 0 && e.extractLsb' 2 3 == 0 &&
      (level == 1 || e.extractLsb' 8 4 == 0)
  else
    clean && level != 3 && e.extractLsb' 8 8 == 0 && (e.toNat % 2 ^ 46) % 2 ^ levelShift level < 2 ^ 8 &&
      !(e.getLsbD 3 && !e.getLsbD 2) && pageFmtOk (e.extractLsb' 59 5) (e.extractLsb' 56 3)

/-- A physical address names a tier of a package of the domain (R201, R202). -/
def State.reachable (s : State) (pa : Nat) : Bool := tierOf pa != .reserved && packageOf pa < s.pkg.domain

/-! ### Readiness of the home (R14, R407) -/

/-- A readiness bit: the function's ready bit, or with 0x800 added to the offset its failed bit. -/
def State.readyBit (s : State) (offset i : Nat) : Bool := (s.pkg.ready.read (offset + i / 8)).getLsbD (i % 8)

/-- The readiness bit of the function that is an address's home in this package: kind offset and number. -/
def homeFunction (pa : Nat) : Nat × Nat :=
  match tierOf pa with
  | .slice => (0x40, sliceOf pa)
  | .dram => (0x80, (channelOf pa).1)
  | _ => (0x280, pa / 2 ^ 12 % 4)

/-- The home of an address: ready, declared failed, or not yet ready. A home in another package is reached over a link, which may have
been declared failed (R201, R207; which link is the implementation's). -/
def State.homeState (s : State) (pa : Nat) : Option Bool :=
  if packageOf pa != s.pkg.rank then some (!s.pkg.linksDown.getLsbD (Config.linkTo (packageOf pa) % 12))
  else
    let f := homeFunction pa
    if s.readyBit f.1 f.2 then some true else if s.readyBit (f.1 + 0x800) f.2 then some false else none

/-- Trap 0x11 at a global address of which no granule is wrong or none is left to record: its home has failed (R14). A trap's number stands
for its cause in its low 12 bits. -/
def farError : Nat := 0x1011

/-- Trap 0x11 of a poisoned granule at `pa`, which the trap records (R208, R399, R406). -/
def poisonTrap (pa : Nat) : Nat := farError + 2 ^ 16 * (pa + 1)

/-- A trap that a poisoned granule raises reports it (R399, R406). -/
def State.reportTrap (t : Trap) (s : State) : State := if 2 ^ 16 ≤ t.1 then s.uncorrectable (t.1 / 2 ^ 16 - 1) else s

/-- What a station says to a set of accesses, each with its virtual and its physical address: none when every home is ready, a hold when
one is not yet ready, trap 0x11 at the first whose home has failed (R14, R362). -/
def State.homes (s : State) (xs : List (Word × Nat)) : Option (Option Trap) :=
  match xs.find? fun x => s.homeState x.2 == some false with
  | some x => some (some (farError, x.1))
  | none => if xs.any fun x => s.homeState x.2 == none then some none else none

/-- A function that serves accesses in arrival order (R204): the home of an address in its package. -/
def homeOf (pa : Nat) : Nat × Nat × Nat := (packageOf pa, homeFunction pa)

/-! ### Elements of typed pages (R74 to R77) -/

/-- The offset of element `i` and its place within its bytes (R56, R70, R76). -/
def elemPlace (fmt : BitVec 5) (i : Nat) : Nat × Nat :=
  match fmt.toNat with
  | 0x02 => (i / 2, i % 2)
  | 0x10 => (2 * (i / 8), i % 8)
  | _ => (i * elemBytes fmt, 0)

/-- A block format (R74). -/
def isBlock (fmt : BitVec 5) : Bool := 0x0E#5 ≤ fmt && fmt ≤ 0x11#5

/-- The bytes of a block and of its scale (R75). -/
def blockShape (fmt : BitVec 5) : Nat × Nat :=
  match fmt.toNat with | 0x10 => (64, 2) | 0x11 => (2048, 4) | _ => (32, 1)

/-- The virtual address of the scale of the block that holds an element, or none when an element lies in the scale region of
a BG 1 page (R75, R76). -/
def scaleAddress (p : Page) (va : Word) : Option Word :=
  let off := va.toNat % p.size
  let pb := va.toNat - off
  let (b, g) := blockShape p.fmt
  if p.bg == 1 then
    if 31 * p.size / 32 ≤ off then none else some (BitVec.ofNat 64 (pb + 31 * p.size / 32 + g * (off / b)))
  else some (BitVec.ofNat 64 (pb + p.size + g * (off / b)))

/-- A raw element as an exact value: `sub` is its place within its bytes, `scale` its block's scale (R57, R58, R65, R69, R70,
R72). A 0 × ∞ is invalid. -/
def elemValue (fmt : BitVec 5) (top : Bool) (table : Memory) (raw sub : Nat) (scale : Option Nat) : ExF :=
  let toEx := fun (v : FVal) => (pickNaN [v]).getD (v.ex, 0)
  match fmt.toNat with
  | 0x02 => exInt (readInt 0x02 (raw / 16 ^ sub))
  | 0x12 => exInt (readInt 0x05 raw)
  | 0x0E => toEx (mxValue e4m3 top raw (scale.getD 127))
  | 0x0F => toEx (mxValue e5m2 top raw (scale.getD 127))
  | 0x10 =>
    let s := match scale with | some x => bf16.decode false x | none => .fin false 1 0
    cb2Ex (table.load (4 * (raw / 256 % 256)) 4) raw sub s
  | 0x11 => exMul (d32 (table.load (4 * (raw % 256)) 4)) (match scale with | some x => d32 x | none => .fin false 1 0)
  | c => if c < 8 then exInt (readInt c raw) else toEx ((fmtOfCode c).decode top raw)

/-- One element of a load as a value of type `t` (R76); an MQ8 element rounds to nearest even (R72). -/
def loadElem (t fmt : BitVec 5) (top : Bool) (rm : BitVec 3) (table : Memory) (raw sub : Nat) (scale : Option Nat) :
    Nat × Flags :=
  if fmt == 0x1F || fmt == t then (raw, 0)
  else (fmtOfCode t.toNat).deliver false (if fmt == 0x11 then .rne else RMode.ofCode rm.toNat) false
    (elemValue fmt top table raw sub scale)

/-- One element of a store encoded for its page (R77). -/
def storeElem (t fmt : BitVec 5) (top : Bool) (rm : BitVec 3) (x : Nat) : Nat × Flags :=
  if fmt == 0x1F || fmt == t then (x, 0)
  else
    let v := (fmtOfCode t.toNat).decode false x
    let mode := RMode.ofCode rm.toNat
    if 8 ≤ fmt.toNat && fmt.toNat ≤ 0x0D then
      (fmtOfCode fmt.toNat).deliver top mode false ((pickNaN [v]).getD (v.ex, 0))
    else
      let r := toInt mode (if fmt == 0x12 then 5 else fmt.toNat) v
      (lowBits (8 * elemBytes fmt) r.1, r.2)

/-! ### Steps of an accepted access -/

/-- The addresses of a part: its own, and its block scale's. -/
def Part.places (p : Part) : List Nat := p.pa :: (match p.scale with | some q => [q.1] | none => [])

/-- The parts of an access that are performed next, as one event: those in the same aligned 8 bytes (R203, R211). -/
def GAccess.unit (a : GAccess) : List Part :=
  match a.parts.drop a.next with
  | [] => []
  | p :: ps => p :: ps.takeWhile fun q => q.pa / 8 == p.pa / 8

/-- The addresses of what is performed next. -/
def GAccess.unitPlaces (a : GAccess) : List Nat := a.unit.flatMap Part.places

/-- Two accesses share a byte. -/
def GAccess.meets (a b : GAccess) : Bool :=
  a.parts.any fun p => b.parts.any fun q => p.pa < q.pa + q.n && q.pa < p.pa + p.n

/-- An access may be performed before an earlier one only where a load passes a store to other homes (R204, R215, R216). -/
def GAccess.mayPass (earlier a : GAccess) : Bool :=
  earlier.kind == .store && a.kind == .load && a.parts.all fun p => p.places.all fun x => earlier.parts.all fun q => homeOf x != homeOf q.pa

/-- The fabric cycles between the starts of a half-channel's refreshes (R206). -/
def State.refreshPeriod (s : State) (channel layer : Nat) : Nat := 7800 / 2 ^ (vget s.pkg.mult (2 * clusterDie (channel / 8) + layer) 0).toNat

/-- The latest cycle at which the first refresh at the spacing of a half-channel's multiplier begins (R206). -/
def State.firstRefresh (s : State) (channel layer : Nat) : Nat :=
  vget s.pkg.multAt (2 * clusterDie (channel / 8) + layer) 0 + s.refreshPeriod channel layer

/-- The start of a half-channel's next refresh (R206): its latest and the spacing, or where its phase is not set yet any cycle until the first
must have begun. -/
def State.nextRefresh (s : State) (channel layer : Nat) : Nat :=
  match s.pkg.refreshes.find? fun x => x.1 == channel && x.2.1 == layer with
  | some x => x.2.2 + s.refreshPeriod channel layer
  | none => min s.pkg.cycle (s.firstRefresh channel layer)

/-- The end of the latest refresh that has come due at a half-channel, on its spacing, whether or not DRAM_REFRESH has noted it (R206); 0 where
none has. DESIGN CHOICE (log entry 63): a phase that nothing has set by the cycle in which the first refresh must begin is that cycle's. -/
def State.refreshEnds (s : State) (c : Nat × Nat) : Nat :=
  let d := match s.pkg.refreshes.find? fun x => x.1 == c.1 && x.2.1 == c.2 with
    | some x => x.2.2 + s.refreshPeriod c.1 c.2
    | none => s.firstRefresh c.1 c.2
  if s.pkg.cycle < d then 0
  else d + (s.pkg.cycle - d) / s.refreshPeriod c.1 c.2 * s.refreshPeriod c.1 c.2 + 240

/-- The cycle at which the refresh that blocks a byte's half-channel ends, or 0 (R206). -/
def State.blockedUntil (s : State) (pa : Nat) : Nat :=
  if tierOf pa == .dram && packageOf pa == s.pkg.rank then
    ((s.pkg.blocked.filter fun b => (b.1, b.2.1) == channelOf pa).map (·.2.2)).foldl max (s.refreshEnds (channelOf pa))
  else 0

/-- The half-channels whose next refresh has come and is not noted: of those with a phase, and of those that an outstanding access of the core
waits for (R206). -/
def State.refreshesDue (s : State) : List (Nat × Nat) :=
  let mine := (s.core.gq.flatMap fun a => a.unitPlaces.filter fun pa => tierOf pa == .dram && packageOf pa == s.pkg.rank).map channelOf
  (s.pkg.refreshes.map (fun x => (x.1, x.2.1)) ++ mine).filter fun c =>
    (s.pkg.refreshes.any (fun x => (x.1, x.2.1) == c) || s.firstRefresh c.1 c.2 ≤ s.pkg.cycle) && s.nextRefresh c.1 c.2 ≤ s.pkg.cycle

/-- A refresh blocks one of the bytes. -/
def State.refreshHolds (s : State) (pas : List Nat) : Bool := pas.any fun pa => s.pkg.cycle < s.blockedUntil pa

/-- A home half-channel that a refresh blocks holds the access (R206). -/
def State.refreshing (s : State) (a : GAccess) : Bool := s.refreshHolds a.unitPlaces

/-- The time until the refreshes that block the bytes have ended passes (R206). -/
def State.waitRefresh (pas : List Nat) (s : State) : State :=
  let until_ := (pas.map s.blockedUntil).foldl max 0
  if s.pkg.cycle < until_ then s.advance (((until_ - s.pkg.cycle) * s.cl.gear.mhz + 1999) / 2000) else s

/-- An access that returns data or a status to a register, or may report an error there (R81). -/
def GAccess.returns (a : GAccess) : Bool := a.kind == .load || a.dest != .none

/-- A block's scale as the access has read it with an earlier element of the block, or as it stands now: it is read once (R76). -/
def State.scaleOf (s : State) (seen : List (Part × Nat × Nat)) (q : Nat × Nat) : Nat :=
  match seen.find? fun x => x.1.scale == some q with
  | some x => x.2.2
  | none => s.pkg.mem.load q.1 q.2

/-- One part of a load is read at its home, with its scale. An 8-byte read of a queue's CLAIM claims a slot (R251). -/
def State.readPart (seen : List (Part × Nat × Nat)) (p : Part) (s : State) : State × Nat × Nat :=
  if s.isClaim p.pa p.n then
    ((s.claimAt (p.pa - 8)).1, (s.claimAt (p.pa - 8)).2.toNat, 0)
  else
    (s, s.pkg.mem.load p.pa p.n, match p.scale with | some q => s.scaleOf seen q | none => 0)

/-- Some byte of a part or of its scale is uncorrectable (R207). -/
def State.partBad (s : State) (p : Part) : Bool :=
  s.poisoned p.pa p.n || (match p.scale with | some q => s.poisoned q.1 q.2 | none => false)

/-- The parts of a load are read in order, after those that it has `seen`. -/
def State.readParts (seen : List (Part × Nat × Nat)) : List Part → List (Nat × Nat) → State → State × List (Nat × Nat)
  | [], got, s => (s, got)
  | p :: ps, got, s => State.readParts seen ps (got ++ [(s.readPart seen p).2]) (s.readPart seen p).1

/-- The granules that a store covers whole, however many events write it (R208). -/
def State.coverParts (ps : List Part) (s : State) : State :=
  (mergeRuns (ps.map fun p => (p.pa, p.n, 0))).foldl (fun s x => s.cover x.1 x.2.1) s

/-- The stores of some parts. -/
def State.storeParts (ps : List Part) (s : State) : State := ps.foldl (fun s p => s.homeStore p.pa p.n p.data) s

/-- What a part of an access does at its home, `bad` where it meets an uncorrectable error. An atomic leaves the word poisoned (R231).
DEDUCED (log entry 49), as R231 states for atomics and R208 for stores: a `REDA` that reads a poisoned word changes nothing, and a `PUT`
of a poisoned word writes it, which clears the poison; both report the error. -/
def State.performAt (a : GAccess) (u : List Part) (bad : Bool) (s : State) : State × GAccess :=
  let b := { a with next := a.next + u.length, performed := a.parts.length ≤ a.next + u.length, bad := a.bad || bad }
  match a.kind, u with
  | .load, ps => let r := s.readParts (a.parts.zip a.got) ps []; (r.1, { b with got := a.got ++ r.2 })
  | .store, ps => (((if a.next = 0 then s.coverParts a.parts else s).storeParts ps).restartQueues, { b with bad := false })
  | _, [] => (s, b)
  | .atomic op fmt rm x d hint, p :: _ =>
    let s := s.place s.cl.index hint p.pa
    if bad then (s, b)
    else
      let r := s.atomicAt op fmt rm p.pa x d
      (r.1, { b with value := BitVec.ofNat 64 r.2.1, flags := r.2.2 })
  | .reda rank v, p :: _ =>
    if s.redaBad p.pa rank.toNat then ((if bad then s else s.uncorrectable p.pa), { b with bad := true })
    else let r := s.redaAt s.cl.index p.pa rank.toNat v; (r.1, { b with value := r.2 })
  | .put v, p :: _ => let r := s.putAt s.cl.index p.pa v; (r.1, { b with value := r.2 })

/-- An uncorrectable error that an access other than a store meets is reported (R207). -/
def State.reportBad (a : GAccess) (hit : Option Part) (s : State) : State :=
  match hit with
  | some p => if a.kind == .store then s else s.uncorrectable p.pa
  | none => s

/-- An access as `va` has it: where a part is uncorrectable, the address of the first such (R81, R362). DEDUCED (log entry 23): of a
vector access that is its lane's. -/
def GAccess.noteBad (a : GAccess) (hit : Option Part) : GAccess :=
  match hit with
  | some p => if a.bad then a else { a with va := p.va }
  | none => a

/-- A line that another cluster holds returns before an ordinary access (R233); an atomic's goes where its hint says. -/
def State.touchParts (a : GAccess) (u : List Part) (s : State) : State :=
  match a.kind with
  | .atomic .. => s
  | _ => u.foldl (fun s p => s.touch s.cl.index p.pa) s

/-- The next event of an access is performed at its home (R204, R211): what it writes is written there, and what it brings is kept. -/
def State.performUnit (a : GAccess) (s : State) : State × GAccess :=
  let s := (s.waitRefresh a.unitPlaces).touchParts a a.unit
  let hit := a.unit.find? s.partBad
  (s.reportBad a hit).performAt (a.noteBad hit) a.unit hit.isSome

/-- At most `n` events of an access are performed. -/
def State.performUnits : Nat → GAccess → State → State × GAccess
  | 0, a, s => (s, a)
  | n + 1, a, s => if a.performed then (s, a) else State.performUnits n (s.performUnit a).2 (s.performUnit a).1

/-- The whole access is performed. -/
def State.perform (a : GAccess) (s : State) : State × GAccess := s.performUnits (a.parts.length + 1) a

/-- A vector's lanes of width `w` from lane values, and the mask of the lanes given. -/
def packLanes (w : Nat) (xs : List (Nat × Nat)) : Vec × Vec :=
  xs.foldl (fun acc x =>
    (acc.1 ||| (BitVec.ofNat 512 (x.2 % 2 ^ w) <<< (w * x.1)), acc.2 ||| (BitVec.ofNat 512 (2 ^ w - 1) <<< (w * x.1)))) (0, 0)

/-- What a performed access delivers: the write of its destination and the flags of its conversion. -/
def GAccess.deliver (a : GAccess) : Option RegWrite × Flags :=
  let elems := (a.parts.zip a.got).map fun (p, g) =>
    match a.ty with
    | some t => (p.lane, loadElem t a.fmt a.top a.rm a.table g.1 p.sub (p.scale.map fun _ => g.2))
    | none => (p.lane, (g.1, (0 : Flags)))
  let fl := elems.foldl (fun f e => f ||| e.2.2) 0
  let packed := packLanes a.lw (elems.map fun e => (e.1, e.2.1))
  match a.kind, a.dest with
  | .load, .s n => (scalarWrite n (packed.1.extractLsb' 0 64), fl)
  | .load, .v n => (some (.v (n.toNat - 64) packed.2 packed.1), fl)
  | .load, .none => (none, fl)
  | _, .s n => (scalarWrite n a.value, a.flags)
  | _, _ => (none, 0)

/-- The data of a performed access arrive: the destination and the flags are written (R81, R231). -/
def State.arrive (a : GAccess) (s : State) : State :=
  let (w, fl) := a.deliver
  let s := match a.dest with | .s n | .v n => s.landReg n | .none => s
  let s := match w with | some w => { s with ctx := s.ctx.land w } | none => s
  { s with ctx := s.ctx.land (.flags fl) }

/-- Entry `k` of the queue of accepted accesses replaced, or removed once it is performed and nothing is left to return. -/
def setAccess : List GAccess → Nat → GAccess → List GAccess
  | [], _, _ => []
  | _ :: q, 0, a => if a.returns || !a.performed then a :: q else q
  | b :: q, k + 1, a => b :: setAccess q k a

/-- The `k`-th accepted access may be performed now. -/
def State.performable (s : State) (k : Nat) : Bool :=
  match s.core.gq[k]? with
  | none => false
  | some a => !a.performed && !s.refreshing a && (s.core.gq.take k).all fun b => b.performed || b.mayPass a

/-- The accesses outstanding replaced. -/
def State.setGq (q : List GAccess) (s : State) : State := { s with core := { s.core with gq := q } }

/-- The next event of the `k`-th accepted access is performed. -/
def State.performNth (k : Nat) (s : State) : State :=
  match s.core.gq[k]? with
  | none => s
  | some a =>
    let r := s.performUnit a
    r.1.setGq (setAccess r.1.core.gq k r.2)

/-- An access is performed unless it has been. -/
def State.performNow (a : GAccess) (s : State) : State × GAccess := if a.performed then (s, a) else s.perform a

/-- Every accepted access is performed and its data arrive, in order; a load of an uncorrectable granule gives the address
that trap 0x11 reports and writes nothing (R372, R81). -/
def State.drainList : List GAccess → Option Word → State → State × Option Word
  | [], bad, s => (s, bad)
  | a :: q, bad, s =>
    let r := s.performNow a
    if r.2.bad && r.2.returns then State.drainList q (bad.orElse fun _ => some r.2.va) r.1
    else State.drainList q bad (r.1.arrive r.2)

/-- An access is performed and its data arrive; one that is uncorrectable stays, with its trap 0x11 still to come. -/
def State.landLoad (s : State) (a : GAccess) : State :=
  let r := s.performNow a
  if r.2.bad && r.2.returns then r.1.setGq (r.1.core.gq ++ [r.2]) else r.1.arrive r.2

/-- Every accepted access is performed and its data arrive, in order, but for those that are uncorrectable. -/
def State.landLoads (s : State) : State := s.core.gq.foldl State.landLoad (s.setGq [])

/-- One access is performed, and stays while it has data to return. -/
def State.performKept (s : State) (a : GAccess) : State :=
  let r := s.performNow a
  r.1.setGq (if r.2.returns then r.1.core.gq ++ [r.2] else r.1.core.gq)

/-- Every accepted access is performed, in order; what returns data keeps them. -/
def State.performAll (s : State) : State := s.core.gq.foldl State.performKept (s.setGq [])

/-- Every accepted access is performed if one of them reads: a later access of the core that is performed at once follows it (R215,
R216). Stores alone may stay behind. -/
def State.performReads (s : State) : State := if s.core.gq.any fun a => !a.performed && a.kind != .store then s.performAll else s

/-- All outstanding global accesses land. -/
def State.drain (s : State) : State × Option Word :=
  State.drainList s.core.gq none (s.setGq [])

/-! ### The walk (R358 to R362) -/

/-- A word of a table as a walk reads it: one of this core with what the core has issued before and no home has performed yet (R216,
R361), and any other as it stands at its home. -/
def State.tableWord (s : State) (own : Bool) (ea : Nat) : Word :=
  let writes := fun (a : GAccess) => a.kind != .load && !a.performed && a.parts.any fun p => ea < p.pa + max p.n 8 && p.pa < ea + 8
  if own && s.core.gq.any writes then s.performAll.pkg.mem.word ea else s.pkg.mem.word ea

/-- This core as a requester (R356, R360). -/
def State.me (s : State) : Requester := ⟨s.ctx.sys.pid, s.ctx.sys.xlroot, !s.core.k⟩

/-- The entries that the station keeps for a page and a requester: this core's first level serves this core alone (R357). -/
def State.keptFor (s : State) (own : Bool) (who : Requester) (level vpn : Nat) : List Word :=
  (s.pkg.kept.filter fun k => k.pid == who.pid && k.level == level && k.vpn == vpn && (!k.first || own)).map (·.entry)

/-- The table entry that a station uses: as the table holds it, or one it has kept (R361; which one is free, for each page, level and
step on its own). -/
def State.entryAt (s : State) (own : Bool) (who : Requester) (level vpn ea : Nat) : Word :=
  let now := s.tableWord own ea
  let ks := s.keptFor own who level vpn
  if ks.all (· == now) then now else ((ks ++ [now])[Config.pickEntry (4 * s.tick + level) vpn % (ks.length + 1)]?).getD now

/-- The permissions of R360. -/
def permits (k : AccKind) (user : Bool) (e : Word) : Bool :=
  match k with
  | .look => true
  | .read => e.getLsbD 2 && (!user || e.getLsbD 4)
  | .write => e.getLsbD 3 && (!user || e.getLsbD 4)
  | .readWrite => e.getLsbD 2 && e.getLsbD 3 && (!user || e.getLsbD 4)

/-- An export window of the target package admits the access (R367). -/
def State.exported (s : State) (k : AccKind) (pa : Nat) : Bool :=
  packageOf pa == s.pkg.rank ||
    s.pkg.exports.any fun x => x.1 == packageOf pa &&
      x.2.base * 65536 ≤ pa % 2 ^ 43 && pa % 2 ^ 43 < (x.2.base + x.2.len) * 65536 &&
      x.2.mask.getLsbD s.pkg.rank &&
      (match k with | .look => true | .read => x.2.r | .write => x.2.w | .readWrite => x.2.r && x.2.w)

/-- No trap: the home of a table is not ready yet, and the station holds the access (R14). -/
def heldCause : Nat := 0x1000

/-- The walk of R358 from a table at a level, and the entries it used; `own` for an access of this core itself. A table is read at its home,
which must be ready (R14). -/
def State.walk (s : State) (own : Bool) (who : Requester) (k : AccKind) (va : Word) :
    Nat → Nat → List Kept → Except Trap (Page × List Kept)
  | 0, _, _ => .error (0x07, va)
  | level + 1, base, kept =>
    let ea := base + 8 * levelIndex level va
    let vpn := va.toNat / 2 ^ levelShift level
    if !s.reachable base then .error (0x07, va)
    else if s.homeState ea == none then .error (heldCause, va)
    else if s.homeState ea == some false then .error (farError, va)
    else if s.poisoned ea 8 then .error (poisonTrap ea, va)
    else
      let e := s.entryAt own who level vpn ea
      if !e.getLsbD 0 then .error (0x06, va)
      else if !entryOk level e then .error (0x07, va)
      else
        let kept := ⟨own, who.pid, level, vpn, e⟩ :: kept
        if e.getLsbD 1 then State.walk s own who k va level (e.toNat % 2 ^ 46 / 2 ^ 8 * 2 ^ 8) kept
        else if !permits k who.user e then .error (0x07, va)
        else
          let size := 2 ^ levelShift level
          let pa := e.toNat % 2 ^ 46 / size * size + va.toNat % size
          if !s.reachable pa || !s.exported k pa then .error (0x07, va)
          else .ok (⟨pa, size, e.extractLsb' 59 5, e.extractLsb' 56 3⟩, kept)

/-- Translation and protection of one access (R38, R358 to R360), of this core itself or of another agent. -/
def State.translateAs (s : State) (own : Bool) (who : Requester) (k : AccKind) (va : Word) : Except Trap (Page × List Kept) :=
  if va.extractLsb' 52 12 != 0 then .error (0x06, va)
  else s.walk own who k va 4 (who.root.toNat % 2 ^ 46 / 2 ^ 16 * 2 ^ 16) []

/-- Translation of an access of this core. -/
def State.translate (s : State) (who : Requester) (k : AccKind) (va : Word) : Except Trap (Page × List Kept) :=
  s.translateAs (who == s.me) who k va

/-- The levels hold 512 and 16,384 entries (R357). DESIGN CHOICE (log entry 57): the latest stay, and what leaves the first level enters
the second. -/
def keptLevels (ks : List Kept) : List Kept :=
  let one := ks.filter fun k => k.first
  let out := (one.drop 512).map fun k : Kept => { k with first := false }
  one.take 512 ++ (out ++ ks.filter fun k => !k.first).take 16384

/-- The station keeps the entries that a walk used (R361). -/
def State.keep (es : List Kept) (s : State) : State :=
  { s with pkg := { s.pkg with
    kept := if es = [] then s.pkg.kept else keptLevels (es ++ s.pkg.kept.filter fun k =>
      !es.any fun e => e.first == k.first && e.pid == k.pid && e.level == k.level && e.vpn == k.vpn) } }

/-- An 8-byte read of CLAIM claims, which needs R and W (R251, R360). -/
def State.claimKind (s : State) (k : AccKind) (pa n : Nat) : AccKind := if k == .read && s.isClaim pa n then .readWrite else k

/-- The tile of the access is declared for it in the open transaction (R285). -/
def State.declared (s : State) (k : AccKind) (pa : Nat) : Bool :=
  s.ctx.tx.state != 2 || s.ctx.tx.tiles.any fun t => t.1 == pa / 4096 && (k == .read || t.2)

/-- The access of the context to `n` bytes that a translation has placed at `pa`, which as a claim needs both permissions (R360): its
protection fault, or the undeclared access after it (R362, R285). -/
def State.claimFault (s : State) (k : AccKind) (n : Nat) (va : Word) (pa : Nat) : Option Trap :=
  let k' := s.claimKind k pa n
  match (if k' == k then none else match s.translate s.me k' va with | .error t => some t | .ok _ => none) with
  | some t => some t
  | none => if s.declared k' pa then none else some (0x0A, va)

/-- A translated access of the context to `n` bytes (R360, R362, R285). -/
def State.reach (s : State) (k : AccKind) (n : Nat) (va : Word) : Except Trap (Page × List Kept) :=
  match s.translate s.me k va with
  | .ok p => (match s.claimFault k n va p.1.pa with | some t => .error t | none => .ok p)
  | .error e => .error e

/-- Several accesses, each translated and checked in turn; the first fault is reported (R362). -/
def State.reachAll (s : State) (k : AccKind) (n : Nat) : List (Nat × Word) → Except Trap (List (Nat × Word × Page) × List Kept)
  | [] => .ok ([], [])
  | (i, va) :: rest =>
    match s.reach k n va with
    | .error e => .error e
    | .ok (p, ks) =>
      match s.reachAll k n rest with
      | .error e => .error e
      | .ok (ps, ks') => .ok ((i, va, p) :: ps, ks ++ ks')

end Sys2Proof.Machine
end

