-- ==== Sys2Proof/Machine/Local.lean ====
section
/-! DEFINITION. The local window (R37, R189 to R196): its ranges and checks, the bytes that a tile operand occupies (R137,
R138), what a write into the scratchpad marks in the norm slots (R169), the check of R150, and the stream registers'
buffers (R130, R133). -/

namespace Sys2Proof.Machine

/-- The ranges of the local window (Table 10-1). -/
inductive LPlace where
  | store | spad | event | mail | ready
deriving DecidableEq, Repr

/-- The range that holds all of the bytes `a` to `a + n − 1` (R37). -/
def lplace (a n : Nat) : Option LPlace :=
  if a + n ≤ 0x20000 then some .store
  else if 0x100000 ≤ a && a + n ≤ 0x300000 then some .spad
  else if 0x300000 ≤ a && a + n ≤ 0x301000 then some .event
  else if 0x310000 ≤ a && a + n ≤ 0x310400 then some .mail
  else if 0x320000 ≤ a && a + n ≤ 0x321000 then some .ready
  else none

/-- A granule of local store or scratchpad with an uncorrectable error (R207). -/
def State.localBad (s : State) (pl : LPlace) (a n : Nat) : Bool :=
  s.cl.bad.any fun g => g.1 == (if pl == .store then s.core.idx else 8) && g.2 < a + n && a < g.2 + 8

/-- The checks of `lmem(a, n)` in their order (R37, R196, R207): misalignment, range, kernel bytes, and what may not be
written. -/
def State.lmemCheck (s : State) (a : Word) (n : Nat) (write : Bool) : Except Trap LPlace :=
  if a.toNat % n != 0 then .error (0x08, a)
  else match lplace a.toNat n with
    | none => .error (0x05, a)
    | some pl =>
      if pl == .store && !s.core.k && 0x1E000 < a.toNat + n then .error (0x05, a)
      else if pl == .ready && (!s.core.control || write) then .error (0x05, a)
      else if pl == .mail && write then .error (0x05, a)
      else if !write && (pl == .store || pl == .spad) && s.localBad pl a.toNat n then .error (0x11, a)
      else .ok pl

/-- The core's own local store. -/
def State.own (s : State) : Memory := vget s.cl.stores s.core.idx []

/-- The bytes of a message's entry in the mailbox window (R196); word 0 as it was delivered. DESIGN CHOICE (log entry 60): an entry that
holds no message reads 0, though the message that it held may still stand there. -/
def State.mailBytes (s : State) (a n : Nat) : Nat :=
  match s.ctx.mailbox.find? (·.slot == a % 0x1000 / 64) with
  | some m => m.data.toNat / 2 ^ (8 * (a % 64)) % 2 ^ (8 * n)
  | none => 0

/-- `n` bytes of the local window, without the side effects of the event unit (R98, R196, R407). -/
def State.lread (s : State) (pl : LPlace) (a n : Nat) : Nat :=
  match pl with
  | .store => s.own.load a n
  | .spad => s.cl.spad.load a n
  | .mail => s.mailBytes a n
  | .ready => s.pkg.ready.load (a % 0x1000) n
  | .event => 0

/-! ### The bytes of a tile operand -/

/-- The bytes of an element of a tile format (R138). -/
def tileElem (fmt : BitVec 5) : Nat := elemBytes fmt

/-- The scales' offset in a row of `K` MX elements (R138). -/
def scaleOffset (k : Nat) : Nat := 32 * ((k + 31) / 32)

/-- The intervals (start, length) of slice `s` of an operand of `16n` contraction elements (R138, R169), row by row. -/
def sliceSpans (h : TileHeader) (n s : Nat) : List (Nat × Nat) :=
  let e := tileElem h.fmt
  let st := 16 * h.stride.toNat
  let a := h.addr.toNat
  if h.t then (List.range 16).map fun k => (a + (16 * s + k) * st, 16 * e)
  else (List.range 16).flatMap fun r =>
    (a + r * st + 16 * s * e, 16 * e) ::
      (if isMX h.fmt then [(a + r * st + scaleOffset (16 * n) + s / 2, 1)] else [])

/-- An interval meets `n` bytes from `a`. -/
def spanMeets (a n : Nat) (x : Nat × Nat) : Bool := x.1 < a + n && a < x.1 + x.2

/-- The stale map after a write of `n` bytes at `a` in the scratchpad (R169). -/
def NormSlot.mark (z : NormSlot) (a n : Nat) : NormSlot :=
  { z with stale := (List.range z.n).foldl (fun m s =>
    if (sliceSpans (tileHeader z.header) z.n s).any (spanMeets a n) then m ||| (1 <<< s) else m) z.stale }

/-- Every registered slot watches the scratchpad (R169). -/
def State.markNorms (a n : Nat) (s : State) : State :=
  { s with ctx := { s.ctx with tiles := { s.ctx.tiles with norm := s.ctx.tiles.norm.map fun z => z.map (·.mark a n) } } }

/-- `n` bytes of scratchpad are written, by any agent of the cluster. -/
def State.spadWrite (a n data : Nat) (s : State) : State :=
  { s with cl := { s.cl with
    spad := s.cl.spad.store a n data
    bad := s.cl.bad.filter fun g => !(g.1 == 8 && a ≤ g.2 && g.2 + 8 ≤ a + n) } }.markNorms a n

/-- A running copy job's record of what stood in this core's local store, where another agent writes there meanwhile: what is written counts
as of then, and the job's own bytes only once it has ended (R17). -/
def State.patchJobs (a n data : Nat) (s : State) : State :=
  if s.cl.jobs.all fun j => j.old.all fun c => c.1 < a || a + n ≤ c.1 then s
  else { s with cl := { s.cl with jobs := s.cl.jobs.map fun j => { j with old := j.old.map fun c =>
    if a ≤ c.1 && c.1 < a + n then (c.1, BitVec.ofNat 8 (data / 2 ^ (8 * (c.1 - a)))) else c } } }

/-- `n` bytes of a core's local store are written, through either port (R191). -/
def State.storeWrite (core a n data : Nat) (s : State) : State :=
  { s with cl := { s.cl with
    stores := vset s.cl.stores core ((vget s.cl.stores core []).store a n data)
    bad := s.cl.bad.filter fun g => !(g.1 == core && a ≤ g.2 && g.2 + 8 ≤ a + n) } }

/-- `n` bytes of local store or scratchpad are written by the core (R98). -/
def State.lwrite (pl : LPlace) (a n data : Nat) (s : State) : State :=
  match pl with
  | .store => (s.patchJobs a n data).storeWrite s.core.idx a n data
  | .spad => s.spadWrite a n data
  | _ => s

/-! ### Footprints -/

/-- The intervals that `KLDB` reads for `c` panels (R139). -/
def loadSpans (h : TileHeader) (c : Nat) : List (Nat × Nat) :=
  let e := tileElem h.fmt
  let st := 16 * h.stride.toNat
  let a := h.addr.toNat
  if h.fmt == 0x10 then (List.range c).map fun i => (a + i * st, 66)
  else if h.t then (List.range 16).flatMap fun col =>
    (a + col * st, 16 * c * e) :: (if isMX h.fmt then [(a + col * st + scaleOffset (16 * c), (16 * c + 31) / 32)] else [])
  else (List.range (16 * c)).map fun k => (a + k * st, 16 * e)

/-- The header of tile `k` of a batch: rows 16k to 16k + 15 of the layout with K = 16 (R157). -/
def batchHeader (h : TileHeader) (k : Nat) : TileHeader :=
  let off := if h.t then 16 * k * tileElem h.fmt else 16 * k * (16 * h.stride.toNat)
  { h with addr := h.addr + BitVec.ofNat 32 off }

/-- The intervals that a command reads through its header: its A footprint or its source (R138, R148). -/
def KilnCmd.reads (c : KilnCmd) : List (Nat × Nat) :=
  let h := tileHeader c.header
  let b := bSpec c.bspec
  match c.op with
  | .ldb => loadSpans h b.n
  | .mul | .est => (List.range b.n).flatMap (sliceSpans h b.n)
  | .mulb => (List.range b.n).flatMap fun k => (sliceSpans h 1 0).map fun x =>
      (x.1 + (if h.t then 16 * k * tileElem h.fmt else 16 * k * (16 * h.stride.toNat)), x.2)
  | .norm => (List.range c.d).flatMap (sliceSpans h c.d)
  | .zero | .normRel => []

/-- The command reads local-window bytes of `n` at `a` that the range `pl` of the core holds. -/
def KilnCmd.touches (c : KilnCmd) (pl : LPlace) (a n : Nat) : Bool :=
  let h := tileHeader c.header
  ((h.space == 0 && pl == .store) || (h.space == 1 && pl == .spad)) && c.reads.any (spanMeets a n)

/-- The intervals of slice `i` of a command's A operand (R138, R157). -/
def KilnCmd.sliceReads (c : KilnCmd) (i : Nat) : List (Nat × Nat) :=
  let h := tileHeader c.header
  match c.op with
  | .mulb => (sliceSpans h 1 0).map fun x =>
      (x.1 + (if h.t then 16 * i * tileElem h.fmt else 16 * i * (16 * h.stride.toNat)), x.2)
  | _ => sliceSpans h (bSpec c.bspec).n i

/-- The intervals of which a command may yet take what another agent writes (R224). DEDUCED (log entry 25): a product takes its value of
a unit no later than the grant of its first pass over it, a `KEST` no later than its choice, a load or `KNORM` until it completes. -/
def KilnCmd.openReads (c : KilnCmd) : List (Nat × Nat) :=
  if !c.started then c.reads
  else match c.op with
  | .ldb | .norm => c.reads
  | .est => if c.case.isNone && c.ecode = 0 then c.reads else []
  | .mul | .mulb => (c.plan.drop c.granted).flatMap fun p => c.sliceReads p.slice
  | .zero | .normRel => []

/-- The intervals of the passes granted, whose units are decided. -/
def KilnCmd.takenReads (c : KilnCmd) : List (Nat × Nat) :=
  match c.op with
  | .mul | .mulb => (c.plan.take c.granted).flatMap fun p => c.sliceReads p.slice
  | _ => []

/-- The command has not read a byte of its operand yet: its 8-byte unit is not decided (R149, R224). -/
def KilnCmd.undecided (c : KilnCmd) (a : Nat) : Bool :=
  c.openReads.any (spanMeets a 1) && !c.takenReads.any (spanMeets (a / 8 * 8) 8)

/-- A store of the core into bytes of which an uncompleted earlier command has not read one yet is held (R149). -/
def State.storeHeldAt (s : State) (pl : LPlace) (as : List Nat) : Bool :=
  s.core.kq.any fun c => as.any fun a => c.touches pl a 1 && c.undecided a

/-- A store of the core into `n` bytes is held (R149). -/
def State.storeHeld (s : State) (pl : LPlace) (a n : Nat) : Bool := s.storeHeldAt pl ((List.range n).map (a + ·))

/-- A global store of the core into bytes of which an uncompleted earlier command has not read one yet is held (R149). -/
def State.globalHeldAt (s : State) (pas : List Nat) : Bool :=
  s.core.kq.any fun c => (tileHeader c.header).space == 2 && pas.any fun pa =>
    c.pages.any fun p => p.2 ≤ pa && pa < p.2 + 4096 && c.undecided (p.1 * 4096 + (pa - p.2))

/-- A global store of the core into `n` bytes is held (R149). -/
def State.globalHeld (s : State) (pa n : Nat) : Bool := s.globalHeldAt ((List.range n).map (pa + ·))

/-- The local bytes of a packet (R254, R265): space, core, intervals, and whether it writes them. -/
def jobSpans (j : Job) : List (LPlace × Nat × Nat × Nat × Bool) :=
  let place := fun (sp core : Nat) (xs : List (Int × Nat)) (wr : Bool) =>
    let at' := if sp == 1 then [(LPlace.spad, 8)] else if sp == 2 then [(LPlace.store, core)] else []
    at'.flatMap fun p => xs.map fun x => (p.1, p.2, x.1.toNat, x.2, wr)
  place j.ssp j.score j.srcSpans false ++ place j.dsp j.dcore j.dstSpans true ++
    (if j.kind == 1 then [(LPlace.spad, 8, j.field 6 32 32, 4 * j.th, false)] else []) ++
    (if j.stsp == 1 then [(LPlace.spad, 8, (j.word 3).toNat, 8, true)] else [])

/-- A job's local ranges meet `n` bytes at `a` of a range; `write` asks for bytes that it reads as well (R148, R150). -/
def Job.touches (j : Job) (pl : LPlace) (core a n : Nat) (write : Bool) : Bool :=
  (jobSpans j).any fun x => x.1 == pl && (pl == .spad || x.2.1 == core) && (write || x.2.2.2.2) &&
    spanMeets a n (x.2.2.1, x.2.2.2.1)

/-- A byte lies in the footprint of an uncompleted command or job (R150). -/
def State.clashes (s : State) (pl : LPlace) (write : Bool) (a : Nat) : Bool :=
  (write && (s.core.kq ++ s.cl.others).any fun c => (pl == .spad || c.core == s.core.idx) && c.touches pl a 1) ||
    s.cl.jobs.any fun j => !j.stampDone && j.touches pl s.core.idx a 1 write

/-- Under FCHK, an access to bytes of which some lie in the footprint of an uncompleted command or job raises trap 0x0B at the first such
byte (R150). -/
def State.footprintAt (s : State) (pl : LPlace) (as : List Nat) (write : Bool) : Option Trap :=
  if !s.ctx.tiles.cfg.getLsbD 1 then none
  else (as.find? (s.clashes pl write)).map fun a => (0x0B, BitVec.ofNat 64 a)

/-- The check of R150 for an access to `n` bytes. -/
def State.footprint (s : State) (pl : LPlace) (a n : Nat) (write : Bool) : Option Trap :=
  s.footprintAt pl ((List.range n).map (a + ·)) write

/-! ### Stream buffers (R129 to R133) -/

/-- The stream reads or writes global memory. -/
def Stream.global (q : Stream) : Bool := q.desc.getLsbD 63

/-- The stream writes. -/
def Stream.writes (q : Stream) : Bool := q.desc.getLsbD 61

/-- The distance between elements in bytes, modulo 2^64 (R129). -/
def Stream.step (q : Stream) : Word := (q.desc.extractLsb' 32 16).signExtend 64 <<< 6

/-- A stream register's configuration and buffers replaced. -/
def State.setStream (q : Nat) (st : Stream) (s : State) : State :=
  { s with ctx := { s.ctx with streams := vset s.ctx.streams q st } }

/-! ### Banks (R192, R193) -/

/-- The bank of a 64-byte line. -/
def lineBank (line : Nat) : Nat := (line + line / 16) % 16

/-- A bank for which this core waits: its number, its round-robin pointer, and the other cores that contend for its cycle. -/
abbrev BankWait := Nat × BitVec 3 × BitVec 8

/-- The first core of a set from a bank's pointer on (R193). -/
def firstCore (p : BitVec 3) (who : BitVec 8) : Option Nat :=
  ((List.range 8).map fun k => (p.toNat + k) % 8).find? (who.getLsbD ·)

/-- The core that may have a bank's cycle `k` cycles from now, this core among those that contend: none while a reservation holds the bank,
or where the phase counter is 3 and an engine's request is pending (R193). Whether one is, is free. -/
def State.bankWinner (s : State) (k : Nat) (b : BankWait) : Option Nat :=
  if s.core.cyc + k < vget s.cl.bankBusy b.1 0 || (s.cl.phase + BitVec.ofNat 2 k == 3 && Config.engineWants (256 * s.tick + 16 * k + b.1)) then none
  else firstCore b.2.1 (b.2.2 ||| bit8 s.core.idx)

/-- A bank after a cycle in which this core was not granted all of its banks: where the cycle was a core's, the first of the others has had
it, and the pointer moves past that core (R193). -/
def State.bankNext (s : State) (k : Nat) (b : BankWait) : BankWait :=
  if s.bankWinner k b == none then b
  else match firstCore b.2.1 (b.2.2 &&& ~~~(bit8 s.core.idx)) with
    | some i => (b.1, BitVec.ofNat 3 (i + 1), b.2.2 &&& ~~~(bit8 i) &&& ~~~(bit8 s.core.idx))
    | none => b

/-- The cycles until one in which every bank is this core's, at most as many as the fuel, and the banks then (R193). -/
def State.bankWait (s : State) : Nat → Nat → List BankWait → Nat × List BankWait
  | 0, k, bs => (k, bs)
  | fuel + 1, k, bs =>
    if bs.all fun b => s.bankWinner k b == some s.core.idx then (k, bs)
    else s.bankWait fuel (k + 1) (bs.map (s.bankNext k))

/-- The core is held at issue until a cycle in which it can reserve every bank that it accesses, at most 10 cycles (R193). Which other cores
contend for a bank, and whether an engine's request is pending, is free. DESIGN CHOICE (log entry 62): a core's own earlier reservation of
more than 10 cycles holds it no longer than that, and each other core that contends has one access to make there. -/
def State.awaitBanks (lines : List Nat) (s : State) : State :=
  if lines = [] then s
  else
    let banks := (lines.map lineBank).eraseDups
    let w := s.bankWait 10 0 (banks.map fun b => (b, vget s.cl.pointers b 0, Config.contenders (16 * s.tick + b)))
    { s with tick := s.tick + 1, cl := { s.cl with pointers := w.2.foldl (fun v (b : BankWait) => vset v b.1 b.2.1) s.cl.pointers } }.advance w.1

/-- A core's grant of a bank moves the bank's round-robin pointer; a transposed VLDL reserves as many consecutive cycles in a bank as it has
lines there (R193). -/
def State.grantBanks (column : Bool) (lines : List Nat) (s : State) : State :=
  { s with cl := { s.cl with
    pointers := lines.foldl (fun v l => vset v (lineBank l) (BitVec.ofNat 3 (s.core.idx + 1))) s.cl.pointers
    bankBusy := if column then lines.foldl (fun v l => vset v (lineBank l) (max (vget v (lineBank l) 0) s.core.cyc + 1)) s.cl.bankBusy
      else s.cl.bankBusy } }

/-- The line of a stream's element in the scratchpad. -/
def Stream.line (st : Stream) (va : Word) : List Nat := if !st.global && lplace va.toNat 64 == some .spad then [va.toNat / 64] else []

/-! ### Pushes -/

/-- The bytes that a push writes of the `n` from byte `lo`: as runs of offset, length and data (R130). -/
def Pushed.runs (p : Pushed) (lo n : Nat) : List (Nat × Nat × Nat) :=
  mergeRuns ((((List.range n).map (lo + ·)).filter fun i => p.mask.getLsbD (8 * i)).map fun i =>
    (i, 1, (p.x.extractLsb' (8 * i) 8).toNat))

/-- One run of a push is written; a global one waits at its home for a refresh (R206), and returns a line that another cluster holds (R233). -/
def State.writeRun (p : Pushed) (x : Nat × Nat × Nat) (s : State) : State :=
  match p.pa with
  | some pa => ((s.waitRefresh [pa + x.1]).touch s.cl.index (pa + x.1)).homeStore (pa + x.1) x.2.1 x.2.2
  | none => match lplace p.va.toNat 64 with
    | some pl => s.lwrite pl (p.va.toNat + x.1) x.2.1 x.2.2
    | none => s

/-- The granules that a global push covers whole, however many events write it (R208). -/
def State.coverPush (p : Pushed) (s : State) : State :=
  match p.pa with
  | some pa => (p.runs 0 64).foldl (fun s x => s.cover (pa + x.1) x.2.1) s
  | none => s

/-- The first 8 bytes of a push of which it writes some: its next .D access (R203). -/
def Pushed.unit (p : Pushed) : Option Nat := (List.range 8).find? fun u => p.mask.extractLsb' (64 * u) 64 != 0

/-- A push without one of its .D accesses. -/
def Pushed.without (p : Pushed) (u : Nat) : Pushed := { p with mask := p.mask &&& ~~~((0xFFFFFFFFFFFFFFFF : Vec) <<< (64 * u)) }

/-- The next access of a push is made; `rest` follows it in stream `q`'s buffer. -/
def State.writePushed (q : Nat) (st : Stream) (p : Pushed) (rest : List Pushed) (s : State) : State :=
  match p.unit with
  | none => s.setStream q { st with push := rest }
  | some u =>
    let p' := p.without u
    ((((p.runs (8 * u) 8).foldl (fun s x => s.writeRun p x) (s.coverPush p))).grantBanks false (st.line p.va)).setStream q
      { st with push := if p'.mask = 0 then rest else p' :: rest }

/-- The oldest push of stream `q` makes its next access; a global one after every access that the core issued before it. -/
def State.writePush (q : Nat) (s : State) : State :=
  let st := vget s.ctx.streams q Stream.off
  match st.push with
  | [] => s
  | p :: rest => (if p.pa.isSome then s.performAll else s).writePushed q st p rest

/-- Every push of stream `q` is written; each is at most eight accesses. -/
def State.drainPushes (q : Nat) (s : State) : State :=
  (List.range (8 * (vget s.ctx.streams q Stream.off).push.length)).foldl (fun s _ => s.writePush q) s

/-- The core waits for the bank of the oldest push of stream `q`. -/
def State.awaitPush (q : Nat) (s : State) : State :=
  match (vget s.ctx.streams q Stream.off).push with
  | [] => s
  | p :: _ => s.awaitBanks ((vget s.ctx.streams q Stream.off).line p.va)

/-- A push to a full buffer is held until the oldest push has been written (R130). -/
def State.makeRoom (q : Nat) (s : State) : State :=
  if (vget s.ctx.streams q Stream.off).push.length < 4 then s
  else (List.range 8).foldl (fun s _ => if 4 ≤ (vget s.ctx.streams q Stream.off).push.length then s.writePush q else s) (s.awaitPush q)

/-- Every buffered push of every stream is written (R133). -/
def State.drainStreams (s : State) : State :=
  (List.range 8).foldl (fun s q => s.drainPushes q) s

/-- The core's buffered pushes are written, and what reads before is performed: a local access follows them (R133, R216, R220). -/
def State.caughtUp (s : State) : State := s.drainStreams.performReads

/-- Every access that the core issued before has been performed: what follows publishes or joins (R216, R221, R222). -/
def State.published (s : State) : State := s.drainStreams.performAll

/-- What was read ahead is discarded (R133). -/
def State.dropAhead (s : State) : State :=
  { s with ctx := { s.ctx with streams := s.ctx.streams.map fun q => { q with ahead := [] } } }

/-- Pushes are written, and what was read ahead is discarded (R133, R372). -/
def State.flushStreams (s : State) : State := s.drainStreams.dropAhead

/-! ### Elements read ahead -/

/-- The 8 bytes at `pa` are read at their home for a stream's element (R203): a line that another cluster holds returns (R233), and a queue's
CLAIM is claimed (R251). -/
def State.streamWord (pa : Nat) (s : State) : State × Nat :=
  let s := s.touch s.cl.index pa
  if s.isClaim pa 8 then ((s.claimAt (pa - 8)).1, (s.claimAt (pa - 8)).2.toNat) else (s, s.pkg.mem.load pa 8)

/-- What reading the 64-byte element at `pa` needs: a claim among its eight accesses needs R and W (R251, R360). -/
def State.elementKind (s : State) (pa : Nat) : AccKind :=
  if (List.range 8).any fun u => s.isClaim (pa + 8 * u) 8 then .readWrite else .read

/-- Access `u` of the eight that read a global stream's element at `va` (R130, R203): its bytes or its trap; none while its home, or that of a
table, is not ready or a refresh blocks it. -/
def State.streamGlobal (va : Word) (u : Nat) (s : State) : Option (State × Except Trap Nat) :=
  let at' := va + BitVec.ofNat 64 (8 * u)
  match s.translate s.me .read va with
  | .error e => if e.1 = heldCause then none else some (s, .error e)
  | .ok (p, _) =>
    let pa := p.pa + 8 * u
    let k := s.claimKind .read pa 8
    match (if k == .read then none else match s.translate s.me k at' with | .error e => some e | .ok _ => none) with
    | some e => some (s, .error e)
    | none =>
      match s.homes [(va, pa)] with
      | some none => none
      | some (some e) => some (s, .error e)
      | none =>
        if s.refreshHolds [pa] then none
        else if s.poisoned pa 8 then some (s, .error (poisonTrap pa, at'))
        else some ((s.streamWord pa).1, .ok (s.streamWord pa).2)

/-- Access `u` of the eight that read a stream's element at `va` in the local window. -/
def State.streamLocal (s : State) (va : Word) (u : Nat) : Except Trap Nat :=
  let at' := va + BitVec.ofNat 64 (8 * u)
  if 0x400000 ≤ va.toNat then .error (0x05, va)
  else if va.toNat % 64 != 0 then .error (0x08, va)
  else match s.lmemCheck at' 8 false with
    | .error e => .error e
    | .ok pl => if pl == .store || pl == .spad then .ok (s.lread pl at'.toNat 8) else .error (0x05, va)

/-- Access `u` of the eight that read a stream's element at `va`. -/
def State.streamUnit (q : Stream) (va : Word) (u : Nat) (s : State) : Option (State × Except Trap Nat) :=
  if q.global then s.streamGlobal va u else some (s, s.streamLocal va u)

/-- The element has been read, or holds a trap. -/
def Ahead.ready (a : Ahead) : Bool := a.held.isSome || 8 ≤ a.units

/-- Stream `q` has an element to read ahead and room for it, or one of which it has read a part (R130). -/
def Stream.mayRead (q : Stream) : Bool :=
  q.on && !q.writes && (q.ahead.any (!·.ready) || (q.ahead.length < 4 && q.ahead.length < q.remain.toNat && q.ahead.all (·.held.isNone)))

/-- An element joins those read ahead as far as its next access brings it. -/
def Ahead.add (a : Ahead) (r : Except Trap Nat) : Ahead :=
  match r with
  | .error t => { a with held := some t }
  | .ok x => { a with x := a.x ||| (BitVec.ofNat 512 x <<< (64 * a.units)), units := a.units + 1 }

/-- The elements that have been read, and the one whose next access comes. -/
def Stream.reading (q : Stream) : List Ahead × Ahead :=
  match q.ahead.getLast? with
  | some a => if a.ready then (q.ahead, ⟨0, 0, none⟩) else (q.ahead.dropLast, a)
  | none => ([], ⟨0, 0, none⟩)

/-- The address of the element whose next access comes. -/
def Stream.aheadAt (q : Stream) : Word := q.next + q.step * BitVec.ofNat 64 q.reading.1.length

/-- The next access of the element after those read ahead is made, once its home is ready. -/
def State.takeAhead (q : Nat) (st : Stream) (s : State) : State :=
  match s.streamUnit st st.aheadAt st.reading.2.units with
  | none => s
  | some x => (x.1.grantBanks false (st.line st.aheadAt)).setStream q { st with ahead := st.reading.1 ++ [st.reading.2.add x.2] }

/-- The core's earlier writes have been made where stream `st` reads: pushes, and global accesses for a global stream. -/
def State.settleFor (st : Stream) (s : State) : State := if st.global then s.published else s.caughtUp

/-- Stream `q` makes its next access ahead. Pushes that the core has issued are written first. -/
def State.readAhead (q : Nat) (s : State) : State :=
  let st := vget s.ctx.streams q Stream.off
  if st.mayRead then (s.settleFor st).takeAhead q st else s

/-- The element that the next pop takes has been read. -/
def State.headReady (q : Nat) (s : State) : Bool := (vget s.ctx.streams q Stream.off).ahead.head?.any (·.ready)

/-- The element that the next pop takes is read, at once where its home lets it, once the core has its bank (R193). -/
def State.readHead (q : Nat) (s : State) : State :=
  if s.headReady q then s
  else
    let st := vget s.ctx.streams q Stream.off
    (List.range 8).foldl (fun s _ => if s.headReady q then s else s.readAhead q) (s.awaitBanks (st.line st.aheadAt))

end Sys2Proof.Machine
end

