-- ==== Sys2Proof/Machine/Ops.lean ====
section
/-! DEFINITION. What every instruction shares: taking an exception and returning from one (R372 to R376, R395), the order of
checks at issue (R32, R34, R411), guarded-off instructions (R33), retirement with its marks and repeat bodies (R21, R31,
R103, R391), and fetch (R16, R17). -/

namespace Sys2Proof.Machine

/-! ### The state-change trace -/

/-- A record of the state-change trace (R390), when TRCTL turns its kind on. -/
def State.trace (kind : Nat) (value : Word) (s : State) : State :=
  let t := s.core.trctl
  if t.getLsbD 63 && (kind != 1 || t.getLsbD 61) && (kind != 2 || t.getLsbD 62) then
    let cap := 256 * 2 ^ (t.extractLsb' 8 4).toNat
    let pa := (t.extractLsb' 12 34).toNat * 4096 + 16 * (s.core.trn % cap)
    let w1 := (BitVec.ofNat 64 kind <<< 56) ||| ((s.ctx.pc.extractLsb' 0 22).zeroExtend 64 <<< 34) ||| (value &&& 0xFFFFFFFF)
    let s := (s.homeStore pa 8 (s.pkg.cycle % 2 ^ 64)).homeStore (pa + 8) 8 w1.toNat
    { s with core := { s.core with trn := s.core.trn + 1 } }
  else s

/-- GEAR (Table 18-2). -/
def State.gearWord (s : State) : Word :=
  let g := s.cl.gear
  bit01 s.ctx.sys.gearReq ||| (bit01 g.n <<< 4) ||| (g.sub.zeroExtend 64 <<< 8) ||| (bit01 g.lift <<< 12) |||
    (g.cause.zeroExtend 64 <<< 13)

/-! ### Exceptions -/

/-- A member leaves its chain (R324). -/
def State.leaveChain (s : State) : State :=
  if s.core.chain.isSome then { s with core := { s.core with chain := none } }.trace 6 0 else s

/-- A wait is withdrawn at the place that holds it (R247): the deferred list, the barrier line, the mutex, the event line. A
wait that the place has served is not withdrawn. -/
def State.withdraw (s : State) : State :=
  match s.core.wait with
  | none => s
  | some w =>
    let me := s.core.idx
    let s := { s with core := { s.core with wait := none } }
    match w.kind with
    | .take pa _ _ =>
      { s with pkg := { s.pkg with deferred := s.pkg.deferred.filter fun d => !(d.pa == pa && d.who.isNone) } }
    | .barrier b =>
      let l := vget s.cl.bars b ⟨0, 0, 0⟩
      { s with cl := { s.cl with bars := vset s.cl.bars b { l with arrived := l.arrived &&& ~~~(bit8 me) } } }
    | .mutex x =>
      let l := vget s.cl.mutexes x ⟨false, 0, false, []⟩
      { s with cl := { s.cl with mutexes := vset s.cl.mutexes x { l with queue := l.queue.filter (· != me) } } }
    | .event e =>
      let l := vget s.cl.events e ⟨0, false, []⟩
      { s with cl := { s.cl with events := vset s.cl.events e { l with queue := l.queue.filter (· != me) } } }
    | .gang => { s with cl := { s.cl with gangArrived := s.cl.gangArrived &&& ~~~(bit8 s.ctx.address) } }
    | .closeCompute | .closeExchange =>
      { s with cl := { s.cl with part := { s.cl.part with arrived := s.cl.part.arrived &&& ~~~(bit8 me) } } }
    | .chain _ => { s with cl := { s.cl with slaves := s.cl.slaves &&& ~~~(bit8 me) } }
    | .mwait .. | .mwaitLocal .. | .message _ | .grant | .slot _ | .queue _ | .post | .send => s

/-- Steps 1 to 3 of R372: issued instructions complete, global loads land or give the address of trap 0x11, pushes are
written and read-ahead is discarded, and the chain is left. -/
def State.settle (s : State) : State × Option Word :=
  let r := s.landAll.drain
  (r.1.flushStreams.leaveChain, r.2)

/-- The word of a context's saggar entry, SAGIDX in CTXBUF (R378, R402): package offset 0x7F_E000_0000. -/
def State.saggar (s : State) : Nat :=
  s.pkg.rank * 2 ^ 43 + 0x7FE0000000 + 32 * (s.ctx.sys.ctxbuf.extractLsb' 0 16).toNat

/-- The core freezes in place (R375, R387). -/
def State.freeze (s : State) : State := { s with core := { s.core with run := .frozen, pre := none } }

/-- FREEZE by the halt tree (R387): steps 1 to 3 of R372, no handler, FRZ in the saggar entry, and the tree's two counts. A wait stays in
place. A load that lands uncorrectable stays outstanding: it raises trap 0x11 when the core runs again (DEDUCED, log entry 49). -/
def State.haltFreeze (s : State) : State :=
  if s.core.run == .running && !s.core.control then
    let s := s.landAll.landLoads.flushStreams.leaveChain.freeze
    let s := { s with cl := { s.cl with part := { s.cl.part with reached := s.cl.part.reached + 1, stopped := s.cl.part.stopped + 1 } } }
    let w := s.pkg.mem.word s.saggar
    s.homeStore s.saggar 8 (w ||| (1 <<< 61)).toNat
  else s

/-- A kernel crash (R400): every partition is frozen, the control cores are reset, and a sherd event is written. -/
def State.crash (reason : Nat) (s : State) : State :=
  let s := s.sherd 5 (BitVec.ofNat 64 reason)
  let s := { s with pkg := { s.pkg with frozen := true } }.haltFreeze
  if s.core.control then
    { s with
      ctx := Ctx.reset
      core := { Core.reset with
        control := true, k := true, idx := s.core.idx, die := s.core.die, pcore := s.core.pcore
        cyc := s.core.cyc, frac := s.core.frac } }
  else s

/-- A trap raised in kernel mode before `CTXSV` has executed since the last trap entry (R375). -/
def State.doubleTrap (pc : Word) (s : State) : State :=
  if s.core.control then (s.sherd 2 pc).crash 1 else (s.sherd 2 pc).freeze

/-- Where the image of a context holds what trap entry writes: TRAPPC, PRIV.PK, TRAPC, TRAPVAL and the REP word (Table 22-3). -/
def trapOffsets : List Nat := [0xA80, 0xA90, 0xAA8, 0xAB0, 0xAD0]

/-- What trap entry saves and sets (R372 step 4). -/
def State.saveTrap (c val pc : Word) (s : State) : State :=
  { s with
    ctx := { s.ctx with
      trap := { pk := s.core.k, c := c, pc := pc.extractLsb' 0 22, val := val, rep := s.ctx.rep }
      rep := none }
    core := { s.core with
      k := true, saved := false, pre := none, armed := false, fence := none
      badCtx := s.core.badCtx.filter fun a => !trapOffsets.contains a } }

/-- Trap entry ends with its trace record and the pc at HANDLER (R372, R390). -/
def State.toHandler (c : Word) (s : State) : State :=
  let s := s.trace 3 c
  { s with ctx := { s.ctx with pc := s.core.handler.zeroExtend 64 } }

/-- A control core's trap is recorded (R406). -/
def State.recordTrap (c : Word) (s : State) : State := if s.core.control then s.sherd 1 c else s

/-- Trap entry (R372): `c` is TRAPC (SW in bit 8), and `pc` the address that TRAPPC names. -/
def State.enterTrap (c val pc : Word) (s : State) : State :=
  let r := s.settle
  let s := r.1.withdraw
  let c := if r.2.isSome then 0x11 else c
  if s.core.k && !s.core.saved then s.doubleTrap pc
  else ((s.recordTrap c).saveTrap c (r.2.getD val) pc).toHandler c

/-- A cycle passes in which the instruction at pc does not issue. -/
def State.idle (s : State) : State :=
  { s with tick := s.tick + 1, core := { s.core with pre := none } }.advance 1

/-- The uncorrectable error that a trap 0x11 reports is recorded (R399, R406): that of a global granule by its physical address. DESIGN CHOICE
(log entry 49): one of a register, of an accumulator or of the local window, which has no physical address, by TRAPVAL. -/
def State.recordError (t : Trap) (s : State) : State := if t.1 = 0x11 then s.sherd 3 t.2 else s.reportTrap t

/-- The error lies in kernel-reserved local store. -/
def inKernelStore (t : Trap) : Bool := t.1 == 0x11 && 0x1E000 ≤ t.2.toNat && t.2.toNat < 0x20000

/-- An uncorrectable error in kernel-reserved local store is a double trap, and on a control core a kernel crash (R399, R400). -/
def State.kernelStoreError (s : State) : State :=
  let t := s.settle.1.withdraw
  if s.core.control then t.crash 3 else t.doubleTrap s.ctx.pc

/-- A synchronous trap of the instruction at pc, before it has any effect (R4, R373); an undeclared access sets FLT (R285). An instruction
whose access waits for the home of a table is held at issue (R14). -/
def State.trap (t : Trap) (s : State) : State :=
  if t.1 = heldCause then s.idle
  else if inKernelStore t then (s.recordError t).kernelStoreError
  else
    let s := s.recordError t
    (if t.1 = 0x0A then { s with ctx := { s.ctx with tx := { s.ctx.tx with flt := true } } } else s).enterTrap
      (BitVec.ofNat 64 (t.1 % 0x1000)) t.2 s.ctx.pc

/-- Resumption fetches the repeat body again (R103). -/
def Rep.refetch (m : Memory) (r : Rep) : Rep :=
  { r with words := (List.range r.words.length).map fun i => BitVec.ofNat 96 (m.load (r.body.toNat + 12 * i) 12) }

/-- The words of a body of `k` instructions; a prefixed pair is one. -/
def Memory.bodyWords (m : Memory) : Nat → Nat → List IWord
  | 0, _ => []
  | k + 1, a =>
    let w := BitVec.ofNat 96 (m.load a 12)
    if w.extractLsb' 86 10 == 0x300 then w :: BitVec.ofNat 96 (m.load (a + 12) 12) :: m.bodyWords k (a + 24)
    else w :: m.bodyWords k (a + 12)

/-- The local store as fetch sees it after a control transfer (R17): every write made before it, but a copy job's only once the whole job
has written, so that a word is never part of a job's old and part of its new bytes. -/
def State.fetchable (s : State) : Memory :=
  s.cl.jobs.foldl (fun m j => if j.started && !j.finished then j.old.foldl (fun m c => m.write c.1 c.2) m else m) s.own

/-- Return from a trap as one effect (R395): pc := TRAPPC and the mode of PRIV.PK, the trapped repeat body goes on (R103),
and STEP arms. What streams read ahead in the handler, under its rights, is discarded. -/
def State.leaveTrap (s : State) : State :=
  let s := s.dropAhead
  { s with
    ctx := { s.ctx with pc := s.ctx.trap.pc.zeroExtend 64, rep := s.ctx.trap.rep.map (·.refetch s.fetchable), trap := { s.ctx.trap with rep := none } }
    core := { s.core with k := s.ctx.trap.pk || s.core.control, halted := false, armed := s.core.dbgStep, ifetch := s.fetchable } }

end Sys2Proof.Machine

namespace Sys2Proof

open Sys2Proof.Machine

/-! ### Checks at issue -/

/-- A field's kind, class and literal (R24 to R27, R32): a literal needs a prefix with L, and there may be one only. -/
def OpSpec.accepts (k : OpSpec) (o : Operand) (haveLit seen : Bool) : Bool :=
  k.permits o && !(o == .lit && (!haveLit || seen))

/-- The number of the first field that check_fields refuses (R34, R411). -/
def Instr.badField (i : Instr) (f : Fields) (s : State) : Option Nat :=
  let k := i.spec
  let l := match s.core.pre with | some p => p.l | none => false
  let lims := i.limits (some s.core.idx) (some (s.val f.opD)) (some (s.val f.opA)) (some (s.val f.opB))
  let broken := fun n => (lims.find? fun x => x.1 == n && x.2.1).map fun x => x.2.2
  if !f.guardOk then some 0
  else if f.rsv then some 1
  else if !k.sels.getLsbD f.sel.toNat then some 2
  else if !k.d.accepts f.opD l false then some 3
  else (broken 3).orElse fun _ =>
    if !k.a.accepts f.opA l (f.opD == .lit) then some 4
    else (broken 4).orElse fun _ =>
      if !k.b.accepts f.opB l (f.opD == .lit || f.opA == .lit) then some 5
      else broken 5

/-- The prefix fields are all consumed (R32). -/
def Pfx.consumed (p : Pfx) (k : Spec) (f : Fields) : Bool :=
  (!p.l || 0 < f.lits) && (p.ovr == 0 || k.ovr) && (!p.s || k.sat)

/-- TRAPVAL of an encoding trap (Table 2-7). -/
def encodingVal (field : Nat) (op : BitVec 10) : Word := (BitVec.ofNat 64 field <<< 16) ||| op.zeroExtend 64

/-- The checks that a prefix adds before the fields of its consumer (R32, R34). -/
def Pfx.check (p : Pfx) (k : Spec) (f : Fields) : Option Trap :=
  if !p.ok then some (0x02, encodingVal 6 0x300)
  else if f.t then some (0x03, encodingVal 1 k.op)
  else if k.ct then some (0x03, encodingVal 2 k.op)
  else none

/-- The system register that an `MFS` or `MTS` names. -/
def Instr.sysReg (i : Instr) (f : Fields) : Option Nat :=
  match i with
  | .mfs _ => (match f.opA with | .imm v => some v.toNat | _ => none)
  | .mts _ | .mtsRetired _ | .mtsCycle _ | .sensinjWrite _ => (match f.opD with | .imm v => some v.toNat | _ => none)
  | _ => none

/-- `check_privilege` (R32, R355, R106 step 2). -/
def Instr.privTrap (i : Instr) (f : Fields) (s : State) : Option Trap :=
  match i.sysReg f with
  | some n =>
    if 0x100 ≤ n && n ≤ 0x1FF && !s.core.k then
      some (0x04, (BitVec.ofNat 64 n <<< 20) ||| i.spec.op.zeroExtend 64)
    else none
  | none => if i.spec.priv && !s.core.k then some (0x04, i.spec.op.zeroExtend 64) else none

/-- The traps that are raised whether or not the guard holds, in the order of R34. -/
def Instr.checks (i : Instr) (f : Fields) (s : State) : Option Trap :=
  (match s.core.pre with | some p => p.check i.spec f | none => none).orElse fun _ =>
  (match i.badField f s with | some n => some (0x02, encodingVal n i.spec.op) | none => none).orElse fun _ =>
  (match s.core.pre with
    | some p => if p.consumed i.spec f then none else some (0x03, encodingVal 4 i.spec.op)
    | none => none).orElse fun _ =>
  i.privTrap f s

/-- The guard (R18): p[g] xor sense. -/
def Fields.guard (f : Fields) (s : State) : Bool := s.ctx.regs.pred f.pred.toNat != f.sense

/-! ### Interlocks -/

/-- The class names registers of Table 2-5, not predicates, accumulators or nothing. -/
def RegCls.named : RegCls → Bool
  | .p | .acc | .blank | .none => false
  | _ => true

/-- The instruction works on lanes (R109). -/
def Instr.vector (i : Instr) : Bool := i.spec.op.extractLsb' 8 2 == 1

/-- The guard's predicate, and the mask of a vector instruction (R18, R109). -/
def Instr.guards (i : Instr) (f : Fields) : List (BitVec 7) :=
  predNum f.pred :: (if i.vector then [104#7 + f.pred.zeroExtend 7] else [])

/-- The predicates that an instruction reads beside its guard (R88, R90). -/
def Instr.predsRead (i : Instr) (f : Fields) : List (BitVec 7) :=
  match i with
  | .sel _ => [predNum (f.sel.zeroExtend 3)]
  | .plog _ => [predNum (f.opA.num.extractLsb' 0 3), predNum (f.opB.num.extractLsb' 0 3)]
  | _ => []

/-- The predicate or mask that a control word `c` in field D names (R89, R112). -/
def Instr.controlled (i : Instr) (c : Word) : List (BitVec 7) :=
  match i with
  | .cmp _ | .fcmp _ | .plog _ => [predNum (c.extractLsb' 0 3)]
  | .vcmp _ | .vfcmp _ => [104#7 + (c.extractLsb' 0 3).zeroExtend 7]
  | _ => []

/-- The registers an instruction names (R80): its fields, its guard and mask, predicates, what its control word names, and s62. -/
def Instr.names (i : Instr) (f : Fields) (s : State) : List (BitVec 7) :=
  let one := fun (k : OpSpec) (o : Operand) => match o with | .reg n => if k.cls.named then [n] else [] | _ => []
  let k := i.spec
  one k.d f.opD ++ one k.a f.opA ++ one k.b f.opB ++ i.guards f ++ i.predsRead f ++ i.controlled (s.val f.opD) ++
    (match i with | .call _ | .ret _ => [62#7] | _ => [])

end Sys2Proof

namespace Sys2Proof.Machine

/-- An outstanding global access will write a register that the instruction names (R19, R81). -/
def State.awaits (s : State) (names : List (BitVec 7)) : Bool :=
  s.core.gq.any fun a => match a.dest with
    | .s n | .v n => names.contains n
    | .none => false

/-- The cycles until every interlocked result that the names meet has been written (R80, R125). -/
def State.lockedFor (names : List (BitVec 7)) (s : State) : Nat :=
  (s.core.pend.filter fun p => (p.held || s.interlocks) && names.any fun n => p.w.hits n).foldl
    (fun m p => max m (p.due - s.core.cyc)) 0

/-- An instruction that names an interlocked result is held until it has been written (R80): for the cycles that are left of a stated
latency, and a free while for one whose bound R413 gives. -/
def State.unlock (names : List (BitVec 7)) (s : State) : State :=
  let k := s.lockedFor names
  let s := if k = 0 then s else s.advance k
  if s.core.locked.any fun n => names.contains n then
    { s with core := { s.core with locked := [] } }.linger 64
  else s

/-- D is a source: a store's data, an accumulating operand, an expected value, a rank, or a value that a command takes. -/
def readsD : Instr → Bool
  | .bfi _ | .ffma _ | .stl _ | .stg _ | .loop _ | .vclamp _ | .vfma _ | .vins _ | .vstl _ | .vstg _ | .vscat _ | .kldb _
  | .cbinit _ | .acas _ | .reda _ => true
  | _ => false

/-- The registers that an instruction writes and does not read: its destination, what its control word sets, and s62 for `CALL`. -/
def writesOnly (i : Instr) (f : Fields) (s : State) : List (BitVec 7) :=
  let d := match f.opD with | .reg n => if readsD i then [] else [n] | _ => []
  let c := s.val f.opD
  let link := match i with | .call _ => [62#7] | _ => []
  (d ++ (if c.extractLsb' 8 2 == 0 then i.controlled c else []) ++ link).filter fun n =>
    f.opA != .reg n && f.opB != .reg n && !(i.guards f).contains n && !(i.predsRead f).contains n

/-- The registers that an instruction reads. -/
def sources (i : Instr) (f : Fields) (s : State) : List (BitVec 7) :=
  (i.names f s).filter fun n => !(writesOnly i f s).contains n

/-- The instruction writes all of register `n`: of a vector or a mask it writes its active lanes (R109, R112). -/
def State.writesWhole (s : State) (i : Instr) (f : Fields) (n : BitVec 7) : Bool :=
  let lanes := if 104#7 ≤ n then 64 else 512 / (if i.spec.ovr then (fmtOfSel f.sel).w else selWidth f.sel)
  !i.vector || n < 64#7 || 120#7 ≤ n || (List.range lanes).all fun k => (vget s.ctx.regs.m f.pred.toNat 0).getLsbD k

/-- The number of a register in TRAPVAL (R207). DEDUCED (log entry 49): a predicate has its number of R27. -/
def regNumber (n : BitVec 7) : Word := if 120#7 ≤ n then (n - 120).zeroExtend 64 else n.zeroExtend 64

/-- Where the image of a context holds a system register (Table 22-3). -/
def sysOffsets (n : Nat) : List Nat :=
  match n with
  | 0x002 => [0xAC8] | 0x003 => [0xAB8] | 0x004 => [0xAC0] | 0x00C => [0xB00] | 0x00D => [0xB08] | 0x00E => [0xB10]
  | 0x00F => [0xB18] | 0x010 => [0xB20] | 0x011 => [0xB28] | 0x012 => [0xB48] | 0x014 => [0x10] | 0x015 => [0xB50]
  | 0x016 => [0xB30] | 0x017 => [0xB38] | 0x018 => [0xB40] | 0x101 => [0xA98] | 0x102 => [0xA90] | 0x103 => [0xAA8]
  | 0x104 => [0xA80] | 0x105 => [0xAB0] | 0x107 => [0xAA0] | 0x10B => [0xAD8]
  | _ => []

/-- `n` words of an image from an offset on. -/
def wordsFrom (a n : Nat) : List Nat := (List.range n).map fun i => a + 8 * i

/-- The other words of its context that an instruction reads, by their offsets in the image (Table 22-3). DESIGN CHOICE (log entry 49): those
that its own description names; what the device reads beside them (XLROOT in a walk, the governor's state) is taken as it stands. -/
def contextReads (i : Instr) (f : Fields) (s : State) : List Nat :=
  let a := (s.val f.opA).toNat
  let queues := fun (ops : List Operand) => ops.filterMap (·.stream) |>.flatMap fun q => wordsFrom (0xD00 + 32 * q) 4
  let entry := fun (p : BitVec 8 → Bool) =>
    ((s.ctx.mailbox.find? fun m => p (m.data.extractLsb' 0 8)).map fun m => wordsFrom (0x1600 + 64 * m.slot) 8).getD []
  let own := match i with
    | .mfs _ => sysOffsets a
    | .eret _ => [0xA80, 0xA90, 0xAD0]
    | .kstat _ | .kstatJ _ | .kstatJc _ => [0xB60]
    | .kevar _ => [0xB80 + 8 * f.opA.num.toNat]
    | .kmul _ | .kmulb _ => [0xB28, 0xB58]
    | .kest _ => wordsFrom 0xB08 5 ++ wordsFrom 0xB58 1 ++ wordsFrom 0x5A00 28
    | .kldb _ | .vcbd _ => wordsFrom 0xE00 128
    | .vqnt _ | .vdqnt _ => wordsFrom 0x1200 128
    | .lsupd _ => [0xB00, 0xB30, 0xB38]
    | .tstat _ | .tstatW _ => [0xB68]
    | .tend _ | .tendG _ => wordsFrom 0xC00 32 ++ [0xB68, 0xB70]
    | .mbxr _ | .mbxrT _ => entry fun src => src == 1
    | .mrecv _ | .mrecvT _ => entry fun src => src != 1
    | .sstat _ | .sstatDrain _ => queues [f.opA]
    | _ => []
  own ++ queues (match i with | .scfg _ => [f.opA, f.opB] | _ => [f.opD, f.opA, f.opB]) ++ (if i.spec.ovr then [0xAB8] else [])

/-- The other words of its context that an instruction writes whole. -/
def contextWrites (i : Instr) (f : Fields) (s : State) : List Nat :=
  match i with
  | .mts _ | .mtsRetired _ => sysOffsets (s.val f.opD).toNat
  | .kseed _ => [0xB08, 0xB10]
  | .kseedTc _ => [0xB10]
  | .klim _ => [0xB18, 0xB20]
  | .kcfg _ => [0xB58]
  | .scfg _ => ([f.opD].filterMap (·.stream)).flatMap fun q => wordsFrom (0xD00 + 32 * q) 4
  | .vcbdLt _ => wordsFrom (if s.val f.opB == 0 then 0xE00 else 0x1200) 128
  | _ => []

/-- A write of a whole register or word ends its error; `s` is the state in which the instruction took its effect. -/
def State.heal (i : Instr) (f : Fields) (s t : State) : State :=
  if t.core.badRegs = [] && t.core.badCtx = [] then t
  else { t with core := { t.core with
    badRegs := t.core.badRegs.filter fun n => !((writesOnly i f s).contains n && s.writesWhole i f n)
    badCtx := t.core.badCtx.filter fun a => !(contextWrites i f s).contains a } }

/-- A word of the context that is read was loaded poisoned (R399). -/
def State.badContext (s : State) (i : Instr) (f : Fields) : Option Trap :=
  if s.core.badCtx = [] then none
  else ((contextReads i f s).find? fun a => s.core.badCtx.contains a).map fun a => (0x11, Config.contextError a)

/-- A register that is read holds an uncorrectable error (R207). -/
def State.badReg (s : State) (ns : List (BitVec 7)) : Option Trap :=
  if s.core.badRegs = [] then none
  else (ns.find? fun n => s.core.badRegs.contains n).map fun n => (0x11, (1 <<< 63) ||| regNumber n)

/-- What an instruction reads of its context holds an uncorrectable error: its guard's predicate, and with a guard that passes a register
(R207) or another word (R399). -/
def State.badSource (s : State) (i : Instr) (f : Fields) : Option Trap :=
  match s.badReg (predNum f.pred :: (if f.guard s then sources i f s else [])) with
  | some t => some t
  | none => if f.guard s then s.badContext i f else none

/-! ### Retirement -/

/-- Where the stream goes on after an instruction: in sequence, into a repeat body (R103), or at a transfer's target (R83). -/
inductive Flow where
  | seq | enter | taken
deriving DecidableEq, Repr

/-- What an instruction's effect leaves: it completes and falls through, transfers, or enters a repeat body; it raises a trap, before any effect or
with a state that is kept, or after it has completed; it waits at issue; or it ends here with no further step. -/
inductive Eff where
  | ok (s : State)
  | jump (s : State) (pc : Word)
  | enter (s : State)
  | trap (t : Trap)
  | trapIn (s : State) (t : Trap)
  | trapAfter (s : State) (t : Trap)
  | hold (s : State)
  | stay (s : State)

/-- The next instruction of a repeat body (R103): the repeat state and the address. -/
def Rep.next (r : Rep) (pc : Word) : Option Rep × Word :=
  if r.pos + 1 < r.len then (some { r with pos := r.pos + 1 }, pc)
  else if r.left.toNat ≤ 1 then (none, pc)
  else (some { r with pos := 0, left := r.left - 1 }, r.body.zeroExtend 64)

/-- A B-marked issue counts in the basic-block counters when they are on (R391). -/
def State.countBlock (s : State) : State :=
  let t := s.ctx.sys.bbctab
  let n := 2 ^ (t.extractLsb' 22 4).toNat
  let a := (t.extractLsb' 0 22).toNat + 4 * (s.ctx.pc.toNat / 4 % n)
  if t.getLsbD 63 then s.storeWrite s.core.idx a 4 (Nat.min (2 ^ 32 - 1) (s.own.load a 4 + 1)) else s

/-- A B-marked issue counts in the basic-block counters and in the trace (R21, R390, R391). -/
def State.blockEntry (s : State) : State := s.countBlock.trace 1 s.ctx.retired

/-- The requests that wait for a Y mark: bit 0 a halt, 1 the watchdog, 2 a pre-emption, 3 the mailbox. -/
def Requests.waiting (r : Requests) : BitVec 4 :=
  BitVec.ofBool r.mailbox ++ BitVec.ofBool r.preempt ++ BitVec.ofBool r.wdog ++ BitVec.ofBool r.halt

/-- A request becomes pending; one that waits for a Y mark starts its 256 cycles (R21). -/
def State.request (g : Requests → Requests) (s : State) : State :=
  let r' := g s.core.reqs
  let new := r'.waiting &&& ~~~s.core.reqs.waiting
  { s with core := { s.core with reqs := { r' with
      since := Vector.ofFn fun i => if new.getLsbD i.val then s.core.cyc else r'.since[i]
      ySeen := r'.ySeen &&& ~~~new } } }

/-- The word at an address carries a T mark (R21). -/
def State.marked (s : State) (a : Word) : Bool := (s.own.read (a.toNat + 9)).getLsbD 3

/-- The B mark of the instruction, or of its prefix (R21, R31). -/
def State.marksBlock (s : State) (f : Fields) : Bool := match s.core.pre with | some p => p.b | none => f.b

/-- RETIRED rises, and a B mark is recorded with it (R21, R391). -/
def State.countRetired (f : Fields) (s : State) : State :=
  let t : State := { s with ctx := { s.ctx with retired := s.ctx.retired + 1 } }
  if s.marksBlock f then t.blockEntry else t

/-- Where the stream goes on after an instruction that leads to `pc`, in its repeat body or out of it (R103). -/
def State.continueAt (s : State) (flow : Flow) (pc : Word) : Option Rep × Word :=
  match flow, s.ctx.rep with
  | .seq, some r => r.next pc
  | _, r => (r, pc)

/-- The prefix is spent, an armed step comes due, and a Y mark is seen (R21, R31, R374). -/
def Core.retired (c : Core) (y : Bool) : Core :=
  { c with
    pre := none
    armed := false
    reqs := { c.reqs with
      step := c.reqs.step || c.armed
      ySeen := c.reqs.ySeen ||| (if y then BitVec.ofNat 4 ((List.range 4).foldl (fun m i =>
        if c.reqs.waiting.getLsbD i && c.cyc < vget c.reqs.since i 0 + 256 then m + 2 ^ i else m) 0) else 0) } }

/-- The instruction has issued with stall count `f.stall`: RETIRED, the marks, an armed step, and the cycles to the next
issue (R19, R21, R31, R83). `pc` is where the stream goes on. -/
def State.retire (f : Fields) (pc : Word) (flow : Flow) (s : State) : State :=
  let s := s.countRetired f
  let next := s.continueAt flow pc
  let n := f.stall.toNat + (if flow = .taken then (if s.marked pc then 2 else 4) else 1)
  { s with ctx := { s.ctx with rep := next.1, pc := next.2 }, core := s.core.retired f.y }.advance n

/-- A control-transfer instruction has executed: fetch sees every write to local store ordered before it (R17). -/
def State.refetch (i : Instr) (s : State) : State :=
  if i.spec.ct then { s with core := { s.core with ifetch := s.fetchable } } else s

/-! ### Scratchpad banks (R192, R193) -/

/-- The base address, the lane step in bytes, and whether a VLDL is transposed (R124). -/
def State.localForm (s : State) (f : Fields) : Word × Word × Bool :=
  let n := BitVec.ofNat 64 (selWidth f.sel / 8)
  match f.opB with
  | .imm v =>
    if v.getLsbD 20 then (s.val f.opA, (v.extractLsb' 0 16).zeroExtend 64, true)
    else (s.val f.opA + (v.extractLsb' 0 18).signExtend 64, n, false)
  | o => (s.val f.opA + s.val o, n, false)

/-- A VLDL of the transposed form (R125). -/
def readsColumn (i : Instr) (f : Fields) : Bool :=
  match i, f.opB with
  | .vldl _, .imm v => v.getLsbD 20
  | _, _ => false

/-- The index vector of a gather or scatter: a register's, or the element that its stream holds next. -/
def State.indexVec (s : State) (o : Operand) : Vec :=
  match o.stream with
  | some q => (((vget (s.readHead q).ctx.streams q Stream.off).ahead.head?).map (·.x)).getD 0
  | none => vget s.ctx.regs.v (o.num.toNat - 64) 0

/-- Lane `i`'s address of a vector access to the local window (R124, R127). -/
def laneAddr (f : Fields) (s : State) (gather : Bool) (i : Nat) : Word :=
  let w := selWidth f.sel
  if gather then
    s.val f.opA + (BitVec.ofNat w ((s.indexVec f.opB).toNat / 2 ^ (w * i))).signExtend 64 * BitVec.ofNat 64 (w / 8)
  else (s.localForm f).1 + BitVec.ofNat 64 i * (s.localForm f).2.1

/-- The addresses of the active lanes. -/
def laneAddrs (f : Fields) (s : State) (gather : Bool) : List Nat :=
  ((List.range (512 / selWidth f.sel)).filter fun i => (vget s.ctx.regs.m f.pred.toNat 0).getLsbD i).map fun i =>
    (laneAddr f s gather i).toNat

/-- The local addresses that an instruction accesses at issue, one in each line: loads and stores, a watched word, a table, a packet,
message or record image. -/
def localAddrs (i : Instr) (f : Fields) (s : State) : List Nat :=
  match i with
  | .ldl _ | .stl _ => [(s.val f.opA + s.val f.opB).toNat]
  | .vldl _ | .vstl _ => laneAddrs f s false
  | .vgath _ | .vscat _ => (match f.opA with | .loc _ => laneAddrs f s true | _ => [])
  | .mwait _ => if f.sel.getLsbD 1 then [(s.val f.opA).toNat] else []
  | .vcbdLt _ => (List.range 16).map fun k => (s.val f.opA).toNat + 64 * k
  | .cpost _ | .cgath _ | .cwin _ | .msend _ => [(s.val f.opB).toNat]
  | .clink _ | .post _ => [(s.val f.opA).toNat]
  | _ => []

/-- The scratchpad lines that an instruction accesses. -/
def spadLines (i : Instr) (f : Fields) (s : State) : List Nat :=
  (((localAddrs i f s).filter fun a => 0x100000 ≤ a && a < 0x300000).map (· / 64)).eraseDups

/-- The greatest number of lines in one bank (R125). -/
def bankDepth (lines : List Nat) : Nat :=
  ((List.range 16).map fun b => (lines.filter (lineBank · == b)).length).foldl max 0

/-- An instruction has taken its effect in `s`, which left `t`: a register's error ends with its write, the banks of its accesses were
granted, and a control transfer orders what is fetched. -/
def State.completed (i : Instr) (f : Fields) (s t : State) : State :=
  ((s.heal i f t).grantBanks (readsColumn i f) (spadLines i f s)).refetch i

/-- What follows from an instruction's effect. -/
def Eff.finish (i : Instr) (f : Fields) (s : State) : Eff → State
  | .ok s' => (s.completed i f s').retire f (s.ctx.pc + s.len) .seq
  | .jump s' pc => ((s.heal i f s').refetch i).retire f pc .taken
  | .enter s' => (s'.refetch i).retire f (s.ctx.pc + s.len) .enter
  | .trap t => s.trap t
  | .trapIn s' t => s'.trap t
  | .trapAfter s' t => let u := s'.retire f (s.ctx.pc + s.len) .seq; u.enterTrap (BitVec.ofNat 64 t.1) t.2 u.ctx.pc
  | .hold s' => s'.idle
  | .stay s' => s'

/-- What holds an instruction at issue: an interlocked result (R80, R413) and a bank cycle (R193). -/
def State.atIssue (i : Instr) (f : Fields) (s : State) : State :=
  let s := s.unlock (i.names f s)
  if f.guard s then s.awaitBanks (spadLines i f s) else s

/-- The place of this core's wait has served it (R247). -/
def State.waitServed (s : State) : Bool := match s.core.wait with | some w => w.served.isSome | none => false

/-- The issue of an instruction (R32): interlocks, the checks of R34, the guard, and the effect or its absence (R33). A wait
that has been served completes (R247). -/
def issue (i : Instr) (f : Fields) (eff : State → Eff) (s : State) : Host.Outcome State Fault Refusal :=
  if !s.pkg.power then .fault .powerLost
  else if s.waitServed then .next ((eff s).finish i f s)
  else if s.awaits (i.names f s) then .next s.idle
  else
    let s := s.atIssue i f
    match i.checks f s with
    | some t => .next (s.trap t)
    | none =>
      match s.badSource i f with
      | some t => .next (s.trap t)
      | none => .next (if f.guard s then (eff s).finish i f s else s.retire f (s.ctx.pc + s.len) .seq)

/-- A word satisfies the comparison of MWAIT (R241). -/
def satisfies (ne : Bool) (w b : Word) : Bool := if ne then w != b else (b.extractLsb' 0 56).ule (w.extractLsb' 0 56)

/-- The word that this core watches, where its error correction has not failed (R241). -/
def State.watched (s : State) (k : WaitKind) : Option (Word × Bool × Word) :=
  match k with
  | .mwait pa b ne => if s.poisoned pa 8 || s.isClaim pa 8 then none else some (s.pkg.mem.word pa, ne, b)
  | .mwaitLocal a b ne => (match lplace a 8 with
    | some pl => if s.localBad pl a 8 then none else some (BitVec.ofNat 64 (s.lread pl a 8), ne, b)
    | none => none)
  | _ => none

/-- The core re-reads the word that it watches after each write, and the write that satisfies it serves the wait (R241). -/
def State.latch (s : State) : State :=
  match s.core.wait with
  | some ⟨k, none, g⟩ => (match s.watched k with
    | some (w, ne, b) => if satisfies ne w b then { s with core := { s.core with wait := some ⟨k, some w, g⟩ } } else s
    | none => s)
  | _ => s

/-- A step that is no instruction: it needs power, and changes the state as given. -/
def event (g : State → State) (s : State) : Host.Outcome State Fault Refusal :=
  if s.pkg.power then .next { (g s).latch with tick := (g s).tick + 1 } else .fault .powerLost

/-! ### Fetch -/

/-- The repeat buffer holds the word at an address. -/
def Rep.holds (r : Rep) (a : Nat) : Bool := r.body.toNat ≤ a && a < r.body.toNat + 12 * r.words.length

/-- The word at an address, through the repeat buffer while its body runs (R103); a word of local store that was written since the
latest control transfer is fetched old or new (R17). -/
def State.wordAt (s : State) (a : Nat) : IWord :=
  let now := BitVec.ofNat 96 (s.fetchable.load a 12)
  match s.ctx.rep with
  | some r => if r.holds a then (r.words[(a - r.body.toNat) / 12]?).getD now else now
  | none =>
    let old := BitVec.ofNat 96 (s.core.ifetch.load a 12)
    if old == now || Config.fetchNew s.tick then now else old

/-- An uncorrectable error in the word at an address (R207): the first byte of it that lies in kernel-reserved store (R399), or the word's
address. A word of the repeat buffer is not read from local store again (R103), nor that of an instruction that waits. -/
def State.badWord (s : State) (a : Nat) : Option Nat :=
  let k := max a 0x1E000
  if s.ctx.rep.any (·.holds a) || s.core.wait.isSome || !s.localBad .store a 12 then none
  else some (if s.localBad .store k (a + 12 - k) then k else a)

/-- Fetch of one word with the faults of R16 and R207. -/
def State.fetch (s : State) (a : Word) : Except Trap IWord :=
  if a.toNat % 4 != 0 then .error (0x08, a)
  else if 0x20000 < a.toNat + 12 then .error (0x05, a)
  else if !s.core.k && 0x1E000 < a.toNat + 12 then .error (0x05, a)
  else match s.badWord a.toNat with
    | some b => .error (0x11, BitVec.ofNat 64 b)
    | none => .ok (s.wordAt a.toNat)

/-- PFX (R30 to R32): alone it issues nothing. It latches its fields for the word after it, whose fetch traps come first; as
the consumer of a prefix it is an orphan. -/
def execPfx (p : Pfx) (s : State) : Host.Outcome State Fault Refusal :=
  if !s.pkg.power then .fault .powerLost
  else match s.core.pre with
    | some q =>
      .next (s.trap (if !q.ok then (0x02, encodingVal 6 0x300) else if p.t then (0x03, encodingVal 1 0x300)
        else (0x03, encodingVal 3 0x300)))
    | none =>
      match s.fetch (s.ctx.pc + 12) with
      | .error t => .next (s.trap t)
      | .ok _ => .next { s with core := { s.core with pre := some p } }

end Sys2Proof.Machine
end

