-- ==== Sys2Proof/Machine/Redundant.lean ====
section
/-! DEFINITION. A member of a redundant task (R312, R313): its signature, the reads that a shadow takes from its primary, and the
accesses that a shadow does not perform. -/

namespace Sys2Proof.Machine

/-- One bit of CRC-64 with polynomial 0x42F0_E1EB_A9EA_3693, without reflection. -/
def crcBit (r : Word) : Word := if r.getLsbD 63 then (r <<< 1) ^^^ 0x42F0E1EBA9EA3693 else r <<< 1

/-- One byte of the CRC. -/
def crcByte (r : Word) (b : Nat) : Word := (List.range 8).foldl (fun r _ => crcBit r) (r ^^^ (BitVec.ofNat 64 (b % 256) <<< 56))

/-- The `n` bytes of a number, lowest first. -/
def crcBytes (r : Word) : Nat → Nat → Word
  | 0, _ => r
  | n + 1, x => crcBytes (crcByte r x) n (x / 256)

/-- The CRC-64 of `n` bytes of a memory (R313's parameters). -/
def crcMemory (m : Memory) (a n : Nat) : Word :=
  (List.range n).foldl (fun r i => crcByte r (m.read (a + i)).toNat) (BitVec.allOnes 64) ^^^ BitVec.allOnes 64

/-- The context is the shadow copy. -/
def State.isShadow (s : State) : Bool := match s.core.red with | some r => r.shadow | none => false

/-- An access feeds the signature with its address and the bytes it writes (R313). -/
def State.sign (a n data : Nat) (s : State) : State :=
  match s.core.red with
  | none => s
  | some r => { s with core := { s.core with red := some { r with sig := crcBytes (crcBytes r.sig 8 a) n data } } }

/-- The value and the flags that a shadow's next read returns: those of its primary's (R312). The primary is another core, whose reads
events bring. -/
def State.nextRead (s : State) : Option ((Vec × BitVec 5) × State) :=
  match s.core.red with
  | some r => (match r.reads with
    | [] => none
    | x :: rest => some (x, { s with core := { s.core with red := some { r with reads := rest } } }))
  | none => none

/-- A shadow's read: it waits for that of its primary (R312). -/
def shadowRead (k : State → Vec → BitVec 5 → Eff) (s : State) : Eff :=
  match s.nextRead with
  | some (x, s) => k s x.1 x.2
  | none => .hold s

/-- A global or scratchpad read of `x`: a shadow's returns what its primary's returned (R312). -/
def reading (x : Nat) (k : State → Nat → Eff) (s : State) : Eff :=
  if s.isShadow then shadowRead (fun s x _ => k s x.toNat) s else k s x

/-- An access that writes: it feeds the signature, and a shadow's is not performed (R312, R313). -/
def State.writing (a n data : Nat) (w : State → State) (s : State) : State :=
  let s := s.sign a n data
  if s.isShadow then s else w s

end Sys2Proof.Machine
end

