-- ==== Sys2Proof/Machine/Operands.lean ====
section
/-! DEFINITION. Every operand form: scalar destinations (R79, R80), lanes and masks (R109), vector sources with broadcast and
ln (R28, Table 6-1), stream pops and pushes (R29, R130, R131), and the raising of float flags (R68, R82). -/

namespace Sys2Proof.Machine

/-! ### Scalar destinations -/

/-- A scalar result after `lat` cycles, or interlocked with `none` (R80). -/
def State.setS (lat : Option Nat) (o : Operand) (x : Word) (s : State) : State :=
  match lat with
  | some l => s.putS l o.num x
  | none => s.putSLocked o.num x

/-! ### Flags -/

/-- Trap 0x0E when a raised flag is enabled: TRAPVAL holds every flag that the instruction raised (R68). -/
def State.fpTrap (s : State) (fl : Flags) : Option Trap :=
  if fl &&& s.enables != 0 then some (0x0E, fl.zeroExtend 64) else none

/-- The flags reach FMODE at the end of the latency (R82); while an enable is set nothing issues before they are known. DESIGN CHOICE (log
entry 21): those of an interlocked result of no stated latency (`FDIV`, `FSQRT`) reach it at issue, so that an `MTS` of FMODE right after
writes over them; the spec does not say when they do. -/
def State.raiseFlags (lat : Option Nat) (fl : Flags) (s : State) : State :=
  let s := match lat with
    | some l => s.put l (.flags fl)
    | none => { s with ctx := s.ctx.land (.flags fl) }
  if s.enables == 0 then s
  else match lat with
    | some l => s.advance (l - 1)
    | none => s.linger 64

/-- A float result in a scalar destination, or trap 0x0E. -/
def fpScalar (lat : Option Nat) (o : Operand) (r : Nat × Flags) (s : State) : Eff :=
  match s.fpTrap r.2 with
  | some t => .trap t
  | none => .ok ((s.setS lat o (BitVec.ofNat 64 r.1)).raiseFlags lat r.2)

/-! ### Lanes -/

/-- `lane(v, i, w)` (Table 2-9). -/
def lane (x : Vec) (i w : Nat) : Nat := x.toNat / 2 ^ (w * i) % 2 ^ w

/-- A number whose `w`-bit digits are given, `k` of them. -/
def digits (w : Nat) (g : Nat → Nat) : Nat → Nat
  | 0 => 0
  | k + 1 => digits w g k + g k % 2 ^ w * 2 ^ (w * k)

/-- A vector from its lanes. -/
def ofLanes (w : Nat) (g : Nat → Nat) : Vec := BitVec.ofNat 512 (digits w g (512 / w))

/-- The bits of the lanes that a predicate on lanes selects. -/
def laneMask (w : Nat) (act : Nat → Bool) : Vec := ofLanes w fun i => if act i then 2 ^ w - 1 else 0

/-- Lane `i` is active: bit i of m[g] (R109). -/
def State.act (s : State) (f : Fields) (i : Nat) : Bool := (vget s.ctx.regs.m f.pred.toNat 0).getLsbD i

/-- A 64-bit value broadcast to every lane (R28). -/
def broadcast (w : Nat) (x : Word) : Vec := ofLanes w fun _ => x.toNat

/-- The register that `ln` names: lane i holds i (Table 2-5). -/
def lnVec (w : Nat) : Vec := ofLanes w fun i => i

/-- A vector source that is no stream: a vector register, ln, or a broadcast value (R28, Table 6-1). -/
def State.vsrc (s : State) (w : Nat) (o : Operand) : Vec :=
  match o with
  | .reg n =>
    if 64 ≤ n.toNat && n.toNat ≤ 95 then vget s.ctx.regs.v (n.toNat - 64) 0
    else if n == 113 then lnVec w
    else broadcast w (s.ctx.regs.scalar n)
  | o => broadcast w (s.val o)

/-- The old value of a vector destination that is a vector register. -/
def State.vold (s : State) (o : Operand) : Vec := vget s.ctx.regs.v (o.num.toNat - 64) 0

/-! ### Streams -/

/-- Trap 0x0F (R131). -/
def misuse (q reason : Nat) : Trap := (0x0F, BitVec.ofNat 64 (reason * 256 + q))

/-- The misuse of a stream by a pop or a push (R131). -/
def Stream.misused (st : Stream) (q : Nat) (push : Bool) : Option Trap :=
  if !st.on then some (misuse q 1)
  else if st.writes != push then some (misuse q 2)
  else if st.remain == 0 then some (misuse q 3)
  else none

/-- What a pop or a push meets. -/
inductive Pop where
  | trap (t : Trap)
  | wait
  | ok (s : State) (x : Vec)

/-- A stream's element, popped (R130): held at issue until it has arrived. -/
def State.pop (q : Nat) (s : State) : Pop :=
  let st := vget s.ctx.streams q Stream.off
  match st.misused q false with
  | some t => .trap t
  | none =>
    let s := s.readHead q
    let st := vget s.ctx.streams q Stream.off
    match st.ahead with
    | [] => .wait
    | a :: rest =>
      if !a.ready then .wait else
      let undeclared : Option Trap := if st.global then (match s.translate s.me .read st.next with
        | .ok (p, _) => if s.declared (s.elementKind p.pa) p.pa then none else some (0x0A, st.next)
        | .error _ => none) else none
      let clash := if st.global then none else match lplace st.next.toNat 64 with
        | some pl => s.footprint pl st.next.toNat 64 false
        | none => none
      match a.held, undeclared, clash with
      | some t, _, _ => .trap t
      | none, some t, _ => .trap t
      | none, none, some t => .trap t
      | none, none, none =>
        let s := s.setStream q { st with ahead := rest, next := st.next + st.step, remain := st.remain - 1 }
        if s.isShadow && (st.global || lplace st.next.toNat 64 == some .spad) then
          (match s.nextRead with | some (x, s) => .ok s x.1 | none => .wait)
        else .ok s a.x

/-- A result pushed to a stream: checked and translated at issue, and only active lanes' bytes are written (R130, R149, R150). -/
def State.push (q : Nat) (mask x : Vec) (s : State) : Pop :=
  let st := vget s.ctx.streams q Stream.off
  match st.misused q true with
  | some t => .trap t
  | none =>
    let s := s.makeRoom q
    let st := vget s.ctx.streams q Stream.off
    let bytes := (List.range 64).filter fun i => mask.getLsbD (8 * i)
    let enter := fun (pa : Option Nat) (s : State) =>
      let outside := mask != 0 && (st.global || lplace st.next.toNat 64 == some .spad)
      let s := if outside then (Pushed.runs ⟨st.next, pa, mask, x⟩ 0 64).foldl (fun s y => s.sign (st.next.toNat + y.1) y.2.1 y.2.2) s else s
      let push := if outside && s.isShadow then st.push else st.push ++ [⟨st.next, pa, mask, x⟩]
      Pop.ok (s.setStream q { st with push, next := st.next + st.step, remain := st.remain - 1 }) 0
    if mask == 0 then enter none s
    else if st.global then
      match s.reach .write 64 st.next with
      | .error t => .trap t
      | .ok (p, ks) =>
        match s.homes [(st.next, p.pa)] with
        | some none => .wait
        | some (some t) => .trap t
        | none => if s.globalHeldAt (bytes.map (p.pa + ·)) then .wait else enter (some p.pa) (s.keep ks)
    else if 0x400000 ≤ st.next.toNat then .trap (0x05, st.next)
    else match s.lmemCheck st.next 64 true with
      | .error t => .trap t
      | .ok pl =>
        if pl != .store && pl != .spad then .trap (0x05, st.next)
        else match s.footprintAt pl (bytes.map (st.next.toNat + ·)) true with
          | some t => .trap t
          | none => if s.storeHeldAt pl (bytes.map (st.next.toNat + ·)) then .wait else enter none s

/-- The effect on its sources: stream fields are popped, A first and then B (R29). -/
def withSources (w : Nat) (a b : Operand) (s : State) (k : State → Vec → Vec → Eff) : Eff :=
  let one := fun (o : Operand) (s : State) => match o.stream with
    | some q => s.pop q
    | none => .ok s (s.vsrc w o)
  match one a s with
  | .trap t => .trap t
  | .wait => .hold s
  | .ok s₁ x =>
    match one b s₁ with
    | .trap t => .trap t
    | .wait => .hold s
    | .ok s₂ y => k s₂ x y

/-- A vector result under its lanes' mask: written after `lat` cycles or interlocked, or pushed (R29, R80, R109). `s₀` is the
state before the instruction, to which a held push returns. -/
def State.setV (s₀ : State) (lat : Option Nat) (o : Operand) (mask x : Vec) (s : State) : Eff :=
  match o.stream with
  | some q =>
    (match s.push q mask x with
     | .trap t => .trap t
     | .wait => .hold s₀
     | .ok s' _ => .ok s')
  | none =>
    let w := RegWrite.v (o.num.toNat - 64) mask x
    match lat with
    | some l => .ok (s.put l w)
    | none => .ok (s.putLocked o.num w)

/-- A float vector result: trap 0x0E, or the result and its flags. DEDUCED (log entry 23): trap 0x0E is raised before the misuse of a
stream destination, which the result would be pushed to. -/
def fpVector (s₀ : State) (lat : Option Nat) (o : Operand) (mask x : Vec) (fl : Flags) (s : State) : Eff :=
  match s.fpTrap fl with
  | some t => .trap t
  | none => match s₀.setV lat o mask x s with
    | .ok s' => .ok (s'.raiseFlags lat fl)
    | e => e

/-- A mask register's lanes `act` receive `r` by the combine field of the control word `c` (R112). -/
def State.setMask (lat : Nat) (c : Word) (n : Nat) (act r : Nat → Bool) (s : State) : State :=
  let md := (c.extractLsb' 0 3).toNat
  let old := vget s.ctx.regs.m md 0
  let bits := (List.range n).foldl (fun (acc : Word × Word) i =>
    if act i then
      let b := combine (c.extractLsb' 8 2).toNat (old.getLsbD i) (r i)
      (acc.1 ||| (1 <<< i), acc.2 ||| (bit01 b <<< i))
    else acc) (0, 0)
  s.put lat (.m md bits.1 bits.2)

/-- A predicate receives `r` by the combine field of the control word `c` (R89). -/
def State.setPred (lat : Nat) (c : Word) (r : Bool) (s : State) : State :=
  let pd := (c.extractLsb' 0 3).toNat
  s.put lat (.p pd (combine (c.extractLsb' 8 2).toNat (s.ctx.regs.pred pd) r))

end Sys2Proof.Machine
end

