-- ==== Sys2Proof/Machine/EventUnit.lean ====
section
/-! DEFINITION. The event unit of a cluster (R195, R242 to R246): what an arrival, a request or a signal of any core does to a
line, and the loads and stores of the window at 0x30_0000. -/

namespace Sys2Proof.Machine

/-- A wait of this core is served with a value (R247). -/
def State.serve (p : WaitKind → Bool) (v : Word) (s : State) : State :=
  match s.core.wait with
  | some w =>
    if p w.kind && w.served.isNone then { s with core := { s.core with wait := some { w with served := some v } } } else s
  | none => s

/-- A wait begins, or goes on: the clock is gated (R247). -/
def State.waitFor (k : WaitKind) (s : State) : State :=
  { s with core := { s.core with wait := some ⟨k, none, true⟩ } }

/-- The wait is over. -/
def State.endWait (s : State) : State := { s with core := { s.core with wait := none } }

/-! ### Lines -/

def State.bar (s : State) (b : Nat) : BarrierLine := vget s.cl.bars b ⟨0, 0, 0⟩
def State.mtx (s : State) (x : Nat) : Mutex := vget s.cl.mutexes x ⟨false, 0, false, []⟩
def State.evl (s : State) (e : Nat) : EventLine := vget s.cl.events e ⟨0, false, []⟩

def State.setBar (b : Nat) (l : BarrierLine) (s : State) : State := { s with cl := { s.cl with bars := vset s.cl.bars b l } }
def State.setMtx (x : Nat) (l : Mutex) (s : State) : State := { s with cl := { s.cl with mutexes := vset s.cl.mutexes x l } }
def State.setEvl (e : Nat) (l : EventLine) (s : State) : State := { s with cl := { s.cl with events := vset s.cl.events e l } }

/-- A barrier line releases when MASK is not 0 and every core in it has arrived (R242). -/
def State.barRelease (b : Nat) (s : State) : State :=
  let l := s.bar b
  if l.mask != 0 && l.mask &&& ~~~l.arrived == 0 then
    let gen := l.gen + 1
    (s.setBar b { l with gen, arrived := 0 }).serve (· == .barrier b) (gen.zeroExtend 64)
  else s

/-- A core arrives at a barrier line; a core outside MASK is ignored (R242). -/
def State.barArrive (b core : Nat) (s : State) : State :=
  let l := s.bar b
  if l.mask.getLsbD core then (s.setBar b { l with arrived := l.arrived ||| bit8 core }).barRelease b else s

/-- A store to MASK (R242). -/
def State.barMask (b : Nat) (mask : BitVec 8) (s : State) : State := (s.setBar b { s.bar b with mask }).barRelease b

/-- A request for a mutex (R243): the value that a load of LOCK returns at once, or none when the core queues for it. -/
def State.mutexLock (x core : Nat) (s : State) : State × Option Word :=
  let l := s.mtx x
  if !l.held then (s.setMtx x { l with held := true, owner := core }, some 1)
  else if l.owner = core then (s.setMtx x { l with err := true }, some 0)
  else (s.setMtx x { l with queue := l.queue ++ [core] }, none)

/-- A load of TRY (R243). -/
def State.mutexTry (x core : Nat) (s : State) : State × Word :=
  let l := s.mtx x
  if !l.held then (s.setMtx x { l with held := true, owner := core }, 1) else (s, 0)

/-- A store to UNLOCK (R243). What OWNER reads of a freed mutex is open, and free. -/
def State.mutexUnlock (x core : Nat) (s : State) : State :=
  let l := s.mtx x
  if !(l.held && l.owner = core) then s.setMtx x { l with err := true }
  else match l.queue with
    | [] => s.setMtx x { l with held := false, owner := (Config.noOwner s.tick).toNat }
    | c :: rest =>
      let s := s.setMtx x { l with owner := c, queue := rest }
      if c = s.core.idx then s.serve (· == .mutex x) 1 else s

/-- The signals of a line go to its waiters in order, one each (R244); `k` bounds the number of waiters. -/
def State.eventServe (e : Nat) : Nat → State → State
  | 0, s => s
  | k + 1, s =>
    let l := s.evl e
    match l.queue with
    | [] => s
    | c :: rest =>
      if l.pend = 0 then s
      else
        let s := s.setEvl e { l with pend := l.pend - 1, queue := rest }
        let s := if c = s.core.idx then s.serve (· == .event e) (l.pend.zeroExtend 64) else s
        State.eventServe e k s

/-- A store to SIG (R244): PEND saturates at 65,535, and then sets SAT. -/
def State.eventSig (e : Nat) (n : BitVec 16) (s : State) : State :=
  let l := s.evl e
  let t := l.pend.toNat + n.toNat
  let l := if 65535 < t then { l with pend := 65535, sat := true } else { l with pend := BitVec.ofNat 16 t }
  (s.setEvl e l).eventServe e l.queue.length

/-- A store to PEND (R244). -/
def State.eventPend (e : Nat) (v : BitVec 16) (s : State) : State :=
  let l := s.evl e
  (s.setEvl e { l with pend := v, sat := false }).eventServe e l.queue.length

/-- A load of WAIT (R244): the value, or none when the core waits. -/
def State.eventWait (e core : Nat) (s : State) : State × Option Word :=
  let l := s.evl e
  if l.pend != 0 && l.queue.isEmpty then (s.setEvl e { l with pend := l.pend - 1 }, some (l.pend.zeroExtend 64))
  else (s.setEvl e { l with queue := l.queue ++ [core] }, none)

/-! ### The window -/

/-- The kinds of lines (Table 10-2). -/
inductive EvLine where
  | bar (b : Nat) | mutex (x : Nat) | event (e : Nat)
deriving DecidableEq, Repr

/-- The line and the register of a window address; none at offsets 0x20 to 0x3F (R195). -/
def evPlace (a : Nat) : Option (EvLine × Nat) :=
  let o := a % 0x1000
  let r := o % 64 / 8
  if 3 < r then none
  else if o < 0x400 then some (.bar (o / 64), r)
  else if o < 0x800 then some (.mutex (o / 64 - 16), r)
  else some (.event (o / 64 - 32), r)

/-- What a load of the window does: it returns a value, or its core waits. -/
inductive EvLoad where
  | value (s : State) (v : Word)
  | wait (s : State) (k : WaitKind)

/-- The status word of a mutex (Table 12-7); OWNER resets to 0, and has no stated value once the mutex is freed, or while the context that
holds it is on no core. -/
def State.mutexStatus (x : Nat) (s : State) : Word :=
  let l := s.mtx x
  let owner : BitVec 3 := if l.owner < 8 then BitVec.ofNat 3 l.owner else Config.noOwner s.tick
  bit01 l.held ||| (owner.zeroExtend 64 <<< 1) ||| (BitVec.ofNat 64 l.queue.length <<< 8) ||| (bit01 l.err <<< 16)

/-- A load of an event-unit word by the core `core` of the cluster (Tables 12-6 to 12-8). -/
def State.evLoad (l : EvLine) (r : Nat) (s : State) : EvLoad :=
  let me := s.core.idx
  match l, r with
  | .bar b, 0 => .value s ((s.bar b).mask.zeroExtend 64)
  | .bar b, 1 => .value s (((s.bar b).gen.zeroExtend 64 <<< 16) ||| (s.bar b).arrived.zeroExtend 64)
  | .bar _, 2 => .value s 0
  | .bar b, _ =>
    let gen := (s.bar b).gen
    if !(s.bar b).mask.getLsbD me then .value s ((1 <<< 63) ||| gen.zeroExtend 64)
    else
      let s := (s.waitFor (.barrier b)).barArrive b me
      match s.core.wait with
      | some ⟨_, some v, _⟩ => .value s.endWait v
      | _ => .wait s (.barrier b)
  | .mutex x, 0 =>
    (match s.mutexLock x me with
     | (s, some v) => .value s v
     | (s, none) => .wait s (.mutex x))
  | .mutex x, 1 => let r := s.mutexTry x me; .value r.1 r.2
  | .mutex _, 2 => .value s 0
  | .mutex x, _ => .value s (s.mutexStatus x)
  | .event e, 0 => .value s ((s.evl e).pend.zeroExtend 64)
  | .event _, 1 => .value s 0
  | .event e, 2 =>
    (match s.eventWait e me with
     | (s, some v) => .value s v
     | (s, none) => .wait s (.event e))
  | .event e, _ =>
    let l := s.evl e
    .value s (l.pend.zeroExtend 64 ||| (BitVec.ofNat 64 l.queue.length <<< 16) ||| (bit01 l.sat <<< 24))

/-- A store to an event-unit word by this core; none where the word has no writable field (R195). -/
def State.evStore (l : EvLine) (r : Nat) (v : Word) (s : State) : Option State :=
  let me := s.core.idx
  match l, r with
  | .bar b, 0 => some (s.barMask b (v.extractLsb' 0 8))
  | .bar b, 2 => some (s.barArrive b me)
  | .mutex x, 2 => some (s.mutexUnlock x me)
  | .mutex x, 3 => some (if v.getLsbD 16 then s.setMtx x { s.mtx x with err := false } else s)
  | .event e, 0 => some (s.eventPend e (v.extractLsb' 0 16))
  | .event e, 1 => some (s.eventSig e (v.extractLsb' 0 16))
  | _, _ => none

/-- A waiting instruction: it completes with the value that its place has served, or goes on to ask (R247). -/
def onServed (s : State) (done : Word → State → Eff) (ask : Eff) : Eff :=
  match s.core.wait with
  | some ⟨_, some v, _⟩ => done v s.endWait
  | _ => ask

/-- An instruction whose effect is a load of the event unit: what comes before it is published when it asks (R221), and it completes
with the value, or waits for it. -/
def State.evEffect (l : EvLine) (r : Nat) (done : Word → State → Eff) (s : State) : Eff :=
  onServed s done <|
    let s := s.published
    if s.core.wait.isSome then .hold s
    else match s.evLoad l r with
      | .value s v => done v s
      | .wait s k => .hold (s.waitFor k)

end Sys2Proof.Machine
end

