-- ==== Sys2Proof/Machine/KilnMath.lean ====
section
/-! DEFINITION. The arithmetic of the Kiln: pairings (Table 7-1), cells and panels of the B store (R134), decoded operands
(R138 to R140), slice sums and accumulation (R141 to R146), norms (R166), and the selection, draws and variance of a
sampled estimate (R171 to R175). -/

namespace Sys2Proof.Machine

/-! ### Pairings and panels -/

/-- The accumulator formats. -/
inductive AccumKind where
  | fp32 | fp64 | fx64
deriving DecidableEq, Repr

/-- The accumulator of a pairing (Table 7-1). -/
def accKind (afmt : BitVec 5) : AccumKind := if afmt == 0x08 then .fp64 else if afmt ≤ 1#5 then .fx64 else .fp32

/-- The panel size of a B format (Table 7-1, R155). -/
def panelSize (bfmt : BitVec 5) : Nat :=
  match bfmt.toNat with
  | 0x08 => 2048 | 0x09 => 1024 | 0x0A | 0x0B => 512 | 0x10 => 128 | _ => 256

/-- The panel size of a pairing. -/
def pairSize (afmt : BitVec 5) (cb : Bool) : Nat := if cb then 128 else panelSize afmt

/-- Table 7-1 permits the B format for the pairing. -/
def pairPermits (afmt : BitVec 5) (cb : Bool) (bfmt : BitVec 5) : Bool :=
  if cb then bfmt == 0x10
  else if isFloat8 afmt then isFloat8 bfmt
  else if afmt == 0x0A || afmt == 0x0B then bfmt == 0x0A || bfmt == 0x0B
  else if afmt ≤ 1#5 then bfmt ≤ 1#5
  else bfmt == afmt

/-- The size code of a cell tag (R383). -/
def sizeCode (z : Nat) : Nat := match z with | 128 => 1 | 256 => 2 | 512 => 3 | 1024 => 4 | _ => 5

/-- The first cell of panel `p` of size `z`, counted macro by macro (R134). -/
def firstCell (p z : Nat) : Nat := p % 16 * 64 + p / 16 * (z / 128)

/-- The panel numbers that a B specification names (R155, R156). -/
def panelsOf (b : BSpec) (z : Nat) : List Nat := (List.range b.n).map fun i => (b.f + i * b.t) % (131072 / z)

/-- The cells of a panel. -/
def panelCells (p z : Nat) : List Nat := (List.range (z / 128)).map fun i => firstCell p z + i

/-- The tag of a cell. -/
def Cluster.tag (c : Cluster) (cell : Nat) : Option CellTag := (c.tags.find? (·.1 == cell)).map (·.2)

/-- The tag check of R153 on the panels of a product command: 0, or the ECODE. -/
def Cluster.tagCheck (c : Cluster) (afmt : BitVec 5) (cb : Bool) (ps : List Nat) : Nat :=
  let z := pairSize afmt cb
  let tags := ps.flatMap fun p => (panelCells p z).map c.tag
  if tags.any (·.isNone) then 2
  else if tags.any fun t => t.any fun t => t.size != sizeCode z || !pairPermits afmt cb t.fmt then 1
  else 0

/-! ### Decoded operands -/

/-- A raw element of a tile format as a value (R140); integers are exact values. -/
def tileValue (fmt : BitVec 5) (top : Bool) (raw : Nat) : FVal :=
  if fmt ≤ 1#5 then let v := readInt fmt.toNat raw; .fin (v < 0) v.natAbs 0
  else (fmtOfCode (if fmt == 0x0E then 0x0C else if fmt == 0x0F then 0x0D else fmt.toNat)).decode top raw

/-- Element (r, j) of an operand of K = 16n elements at a base address (R138). -/
def aElem (h : TileHeader) (base n : Nat) (src : Memory) (top : Bool) (r j : Nat) : FVal :=
  let e := tileElem h.fmt
  let st := 16 * h.stride.toNat
  if isMX h.fmt then
    let scale := (src.read (base + r * st + scaleOffset (16 * n) + j / 32)).toNat
    mxValue (if h.fmt == 0x0E then e4m3 else e5m2) top (src.read (base + r * st + j)).toNat scale
  else tileValue h.fmt top (src.load (if h.t then base + j * st + r * e else base + r * st + j * e) e)

/-- The decoded A block of slice `s`: element 16r + k is (r, 16s + k). -/
def aBlock (h : TileHeader) (base n : Nat) (src : Memory) (top : Bool) (s : Nat) : Vector FVal 256 :=
  Vector.ofFn fun i => aElem h base n src top (i.val / 16) (16 * s + i.val % 16)

/-- Element (k, col) of a panel whose cells start at byte `q` of the B store, by its tag. The half of the store above 128 KiB
holds what the cells do not: the scale bytes and the valid rows of an MX panel, and the table words of a CB2 panel (R140). -/
def bElem (b : Memory) (q : Nat) (t : CellTag) (k col : Nat) : FVal :=
  let side := 0x20000 + q
  if t.fmt == 0x10 then
    if (b.read (q + 66)).toNat ≤ k then .fin false 0 0
    else
      let j := 2 * k + col / 8
      match cb2Weight (b.load (side + 4 * j) 4) (b.load (q + 2 * j) 2) (col % 8) (bf16.decode false (b.load (q + 64) 2)) with
      | some v => v
      | none => .nan false (2 ^ 51) true
  else if isMX t.fmt then
    if (b.read (side + 16)).toNat ≤ k then .fin false 0 0
    else mxValue (if t.fmt == 0x0E then e4m3 else e5m2) t.top (b.read (q + 16 * k + col)).toNat (b.read (side + col)).toNat
  else
    let e := tileElem t.fmt
    tileValue t.fmt t.top (b.load (q + (16 * k + col) * e) e)

/-- The decoded B block of a panel: element 16k + col is (k, col). -/
def bBlock (b : Memory) (q : Nat) (t : CellTag) : Vector FVal 256 :=
  Vector.ofFn fun i => bElem b q t (i.val / 16) (i.val % 16)

/-- The decoded B block of panel `p` of size `z`. -/
def Cluster.block (c : Cluster) (p z : Nat) : Vector FVal 256 :=
  bBlock c.bstore (128 * firstCell p z) ((c.tag (firstCell p z)).getD ⟨0, false, 0⟩)

/-! ### Rows that do not count -/

/-- e(x) of R146, with −2^31 for −∞ and 2^31 − 1 for +∞. -/
def elemExp (x : FVal) : Int :=
  match x with
  | .nan .. | .inf _ => 2 ^ 31 - 1
  | v => (v.floorLog2).getD (-2 ^ 31)

/-- The largest e(x) of a segment. -/
def segExp (xs : List FVal) : Int := xs.foldl (fun m x => max m (elemExp x)) (-2 ^ 31)

/-- Row r of the block. -/
def blockRow (b : Vector FVal 256) (r : Nat) : List FVal := (List.range 16).map fun k => vget b (16 * r + k) (.fin false 0 0)

/-- The predictor skips a segment of largest exponent `e` under KZTH (R146). -/
def predictorSkips (kzth : Word) (e : Int) : Bool := kzth.getLsbD 16 && e < (kzth.extractLsb' 0 12).toInt

/-- Row r of slice's block counts: below the valid count and not skipped by the predictor (R145, R146). -/
def rowCounts (h : TileHeader) (kzth : Word) (b : Vector FVal 256) (r : Nat) : Bool :=
  r < h.valid.toNat && !predictorSkips kzth (segExp (blockRow b r))

/-! ### Slice sums -/

/-- A slice sum: none, an encoding of the accumulator's float format, or an integer (R141). -/
inductive Sum where
  | none
  | float (x : Nat)
  | int (x : Int)
deriving DecidableEq, Repr

/-- Kiln status bits (Table 7-5). -/
def kACCSAT : Word := 0x100
def kNV : Word := 0x200
def kOF : Word := 0x400

/-- NV and OF of float flags as status bits. -/
def kilnFlags (f : Flags) : Word := (if f &&& fNV != 0 then kNV else 0) ||| (if f &&& fOF != 0 then kOF else 0)

/-- The format of a float accumulator. -/
def AccumKind.fmt : AccumKind → Fmt | .fp64 => Sys2Proof.Machine.fp64 | _ => Sys2Proof.Machine.fp32

/-- σ of 16 operand pairs (R141, R142), and the status bits it sets. -/
def sliceSum (kind : AccumKind) (ps : List (FVal × FVal)) : Sum × Word :=
  let prods := ps.map fun p => mulVal p.1 p.2
  if prods.all fun p => match p with | some v => v.isZero | none => false then (.none, 0)
  else if kind = .fx64 then
    (.int (prods.foldl (fun t p => match p with | some (.fin n m e) => t + (if n then -1 else 1) * (m * 2 ^ e.toNat : Nat) | _ => t) 0), 0)
  else
    let F := kind.fmt
    let nan := ps.any fun p => p.1.isNaN || p.2.isNaN
    let snan := ps.any fun p => p.1.isSNaN || p.2.isSNaN
    let bad := ps.any fun p => !p.1.isNaN && !p.2.isNaN && (mulVal p.1 p.2).isNone
    let infs := prods.filterMap fun p => match p with | some (.inf n) => some n | _ => none
    let clash := infs.any id && infs.any not
    if nan || bad || clash then (.float (F.canonNaN false), if snan || bad || clash then kNV else 0)
    else match infs with
      | n :: _ => (.float (F.signed n F.infMag), 0)
      | [] =>
        let e := (prods.filterMap fun p => p.bind FVal.floorLog2).foldl (fun m x => match m with | some y => some (max x y) | none => some x) (none : Option Int)
        let q := e.getD 0 - (if kind = .fp64 then 82 else 30)
        let total := prods.foldl (fun t p => match p with
          | some (.fin n m e) =>
            let k : Int := if q ≤ e then (m * 2 ^ (e - q).toNat : Nat) else (m / 2 ^ (q - e).toNat : Nat)
            t + (if n then -k else k)
          | _ => t) (0 : Int)
        let r := F.round false .rne (total < 0) total.natAbs q false
        (.float r.1, kilnFlags (r.2 &&& fOF))

/-- The accumulator element after a slice sum (R143), and the status bits. -/
def accumulate (kind : AccumKind) (sat : Bool) (c : Nat) (x : Sum) : Nat × Word :=
  match x with
  | .none => (c, 0)
  | .float y =>
    let F := kind.fmt
    let r := F.deliver false .rne sat (exAdd .rne (F.decode false c) (F.decode false y))
    (r.1, kilnFlags r.2)
  | .int y =>
    let t := sx 64 c + y
    let u := satInt 64 t
    (lowBits 64 u, if u = t then 0 else kACCSAT)

/-- The bytes of an accumulator element. -/
def AccumKind.bytes : AccumKind → Nat | .fp32 => 4 | _ => 8

/-- The elements of the accumulator that starts at tile `d`, in row order (R144). -/
def accRead (acc : Memory) (kind : AccumKind) (d : Nat) : List Nat :=
  (List.range 256).map fun i => acc.load (1024 * d + kind.bytes * i) kind.bytes

/-- The elements of an accumulator written in row order. -/
def accWrite (acc : Memory) (kind : AccumKind) (d : Nat) (xs : List Nat) : Memory :=
  (xs.foldl (fun (p : Memory × Nat) x => (p.1.store p.2 kind.bytes x, p.2 + kind.bytes)) (acc, 1024 * d)).1

/-- The slice sums of a block pair in row order, and the status bits (R141, R145, R146). -/
def blockSums (h : TileHeader) (kzth : Word) (kind : AccumKind) (a b : Vector FVal 256) : List Sum × Word :=
  let rows := (List.range 16).map (rowCounts h kzth a)
  let zero := FVal.fin false 0 0
  let xs := (List.range 256).map fun i =>
    if (rows[i / 16]?).getD false then
      sliceSum kind ((List.range 16).map fun k => (vget a (16 * (i / 16) + k) zero, vget b (16 * k + i % 16) zero))
    else (.none, 0)
  (xs.map (·.1), xs.foldl (fun f x => f ||| x.2) 0)

/-- Slice sums added to an accumulator (R143): the memory and the status bits. -/
def addSums (acc : Memory) (kind : AccumKind) (sat : Bool) (d : Nat) (xs : List Sum) : Memory × Word :=
  let rs := (accRead acc kind d).zipWith (accumulate kind sat) xs
  (accWrite acc kind d (rs.map (·.1)), rs.foldl (fun f r => f ||| r.2) 0)

/-- Each element of a float accumulator the canonical NaN, of an FX64 one the most negative (R153). -/
def spoil (acc : Memory) (kind : AccumKind) (d : Nat) : Memory :=
  accWrite acc kind d (List.replicate 256 (match kind with
    | .fp32 => fp32.canonNaN false | .fp64 => fp64.canonNaN false | .fx64 => 2 ^ 63))

/-! ### Norms -/

/-- ss of a row (R166). -/
def rowSS (xs : List FVal) : Nat := xs.foldl (fun ss x => add32 ss (f32 (exMul x x))) 0

/-- The norm of a block from the row sums that count (R166). -/
def normOf (sss : List Nat) : Nat := f32 (exSqrt fp32 (d32 (sss.foldl add32 0)))

/-- nB of a panel (R166, R167). -/
def panelNorm (b : Vector FVal 256) : Nat := normOf ((List.range 16).map fun k => rowSS (blockRow b k))

/-- The segment entries of a block: ss and e of each row (Table 8-1). -/
def segments (b : Vector FVal 256) : List (BitVec 32 × Int) :=
  (List.range 16).map fun r => (BitVec.ofNat 32 (rowSS (blockRow b r)), segExp (blockRow b r))

/-- nA of a slice from its segment entries, under a valid count and KZTH (R166, R168). -/
def sliceNorm (valid : Nat) (kzth : Word) (seg : List (BitVec 32 × Int)) : Nat :=
  normOf ((seg.zipIdx.filter fun x => x.2 < valid && !predictorSkips kzth x.1.2).map fun x => x.1.1.toNat)

/-! ### Estimates -/

/-- gen(j) of R172. -/
def estGen (seed kstep ktc : Word) (j : Nat) : Nat :=
  let h : BitVec 32 := (seed.extractLsb' 0 32 ^^^ seed.extractLsb' 32 32) ^^^ (kstep.extractLsb' 0 32 * 0x85EBCA6B) ^^^
    (ktc.extractLsb' 0 32 * 0xC2B2AE35) ^^^ (BitVec.ofNat 32 j * 0x27D4EB2F)
  let h := (h ^^^ (h >>> 16)) * 0x7FEB352D
  let h := (h ^^^ (h >>> 15)) * 0x846CA68B
  let h := h ^^^ (h >>> 16)
  (h >>> 8).toNat

/-- What the selection of R171 and R172 gives: the case, the passes, |X| and the number of draws. -/
structure Selection where
  case : EstCase
  plan : List Pass
  nx : Nat
  draws : Nat
deriving DecidableEq, Repr

/-- Passes over slices, each exact. -/
def exactPasses (xs : List Nat) : List Pass := xs.map fun s => ⟨s, none⟩

/-- An FP32 encoding is NaN or infinite. -/
def nonFinite (x : Nat) : Bool := (d32 x).isNaN || (d32 x).isInf

/-- floor(2^24 × q / t) for positive FP32 values (R172). -/
def quantShare (q t : Nat) : Nat :=
  match d32 q, d32 t with
  | .fin _ m₁ e₁, .fin _ m₂ e₂ =>
    let e := min e₁ e₂
    2 ^ 24 * m₁ * 2 ^ (e₁ - e).toNat / (m₂ * 2 ^ (e₂ - e).toNat)
  | _, _ => 0

/-- The first slice whose cumulative count lies above u (R172). -/
def drawSlice (u : Nat) : Nat → List (Nat × Nat) → Nat × Nat
  | _, [] => (0, 1)
  | c, (s, dc) :: rest => if u < c + dc then (s, dc) else drawSlice u (c + dc) rest

/-- The quantised counts dc of Rm (R172): shares of 2^24, the remainder to the greatest, the lowest among equals. -/
def quantCounts (rm : List (Nat × Nat)) : List (Nat × Nat) :=
  let total := rm.foldl (fun t x => add32 t x.2) 0
  let dcs := rm.map fun x => (x.1, max 1 (quantShare x.2 total))
  let top := rm.foldl (fun (b : Option (Nat × Nat)) x => match b with
    | none => some x
    | some y => if (d32 x.2).cmp (d32 y.2) == some .gt then some x else some y) none
  let sum := (dcs.map (·.2)).sum
  dcs.map fun x => if top.any (·.1 == x.1) then (x.1, ((x.2 : Int) + 2 ^ 24 - sum).toNat) else x

/-- The selection of R171 for `n` slices under budget `m`: norms (nA, stale) by slice and nB by slice. -/
def selectSlices (n m : Nat) (na : List (Nat × Bool)) (nb : List Nat) (gen : Nat → Nat) : Selection :=
  let all := List.range n
  let exact := exactPasses all
  let stale := fun s => ((na[s]?).getD (0, false)).2
  let a := fun s => ((na[s]?).getD (0, false)).1
  let b := fun s => (nb[s]?).getD 0
  let c := all.filter fun s => !stale s
  let qs := c.map fun s => (s, mul32 (a s) (b s))
  let q := qs.foldl (fun t x => add32 t x.2) 0
  let heavy := fun (x : Nat) => match d32 x with
    | .fin false k e => k != 0 && ((FVal.fin false (m * k) e).cmp (d32 q) != some .lt)
    | _ => false
  let positive := fun (x : Nat) => match d32 x with | .fin neg k _ => !neg && k != 0 | _ => false
  let h := (qs.filter fun x => heavy x.2).map (·.1)
  let xs := all.filter fun s => stale s || h.contains s
  let rm := qs.filter fun x => !h.contains x.1 && positive x.2
  if m = 0 then ⟨.exactAll, exact, n, 0⟩
  else if c.any (fun s => nonFinite (a s) || nonFinite (b s)) || qs.any (fun x => nonFinite x.2) || nonFinite q then
    ⟨.recompute 2, exact, 0, 0⟩
  else if m < xs.length || (m = xs.length && !rm.isEmpty) then ⟨.recompute 3, exact, xs.length, 0⟩
  else if rm.length ≤ m - xs.length then
    ⟨.covered, exactPasses (all.filter fun s => xs.contains s || rm.any (·.1 == s)), xs.length, 0⟩
  else
    let k := m - xs.length
    let dcs := quantCounts rm
    ⟨.draw, exactPasses xs ++ (List.range k).map (fun j => let d := drawSlice (gen j) 0 dcs; ⟨d.1, some d.2⟩), xs.length, k⟩

/-- The weighted sum of a draw (R173): round(σ × w, FP32, RNE), and the status bits. -/
def weigh (draws dc : Nat) (x : Sum) : Sum × Word :=
  match x with
  | .float y =>
    let w := f32 (exDiv fp32 (.fin false (2 ^ 24) 0) (.fin false (draws * dc) 0))
    let r := fp32.deliver false .rne false (exMul (d32 y) (d32 w))
    (.float r.1, kilnFlags r.2)
  | s => (s, 0)

/-- The exact multiplier of R174 applied to a slice sum. -/
def scaleDraw (dc : Nat) (x : Sum) : Nat :=
  match x with
  | .float y => f32 (exDiv fp32 ((d32 y).scale 24) (.fin false dc 0))
  | _ => 0

/-- V of R174 from the sums of the draws with their counts. -/
def variance (ds : List (List Sum × Nat)) : Nat :=
  let m := ds.length
  let r := ds.foldl (fun (p : Nat × List Nat) d =>
    let xs := d.1.map (scaleDraw d.2)
    let f := xs.foldl (fun f x => add32 f (mul32 x x)) 0
    (add32 p.1 f, p.2.zipWith add32 xs)) (0, List.replicate 256 0)
  let g := r.2.foldl (fun g t => add32 g (mul32 t t)) 0
  if m = 1 then 0x7F800000
  else
    let b := f32 (exSub .rne (d32 r.1) (d32 (f32 (exDiv fp32 (d32 g) (.fin false m 0)))))
    let v := f32 (exDiv fp32 (d32 b) (.fin false (m * (m - 1)) 0))
    if (d32 v).cmp (.fin false 0 0) == some .lt then 0 else v

/-- The test of R175: the estimate stands. -/
def varianceOk (vlim vfloor v : Nat) (acc : List Nat) : Bool :=
  let f := acc.foldl (fun f x => add32 f (mul32 x x)) 0
  let lim := mul32 vlim (fp32.minmax false true f vfloor).1
  !(d32 v).isNaN && (d32 v).cmp (d32 lim) != some .gt

end Sys2Proof.Machine
end

