-- ==== Sys2Proof/Machine/Scalar.lean ====
section
/-! DEFINITION. The scalar integer group (R84 to R90) and the scalar floating-point group (R91 to R96). -/

namespace Sys2Proof.Machine

/-! ### Integer -/

/-- The operation divides (R84). -/
def AluOp.divides : AluOp → Bool
  | .div | .divu | .rem | .remu => true
  | _ => false

/-- The effect of R84: operands at the selector's width, trap 0x0D for a zero divisor (R85), and the result zero-extended. -/
def alu (op : AluOp) (lat : Option Nat) (f : Fields) (s : State) : Eff :=
  let w := selWidth f.sel
  let a := (s.val f.opA).toNat % 2 ^ w
  let b := (s.val f.opB).toNat % 2 ^ w
  if op.divides && b == 0 then .trap (0x0D, BitVec.ofNat 64 a)
  else .ok (s.setS lat f.opD (BitVec.ofNat 64 (op.result s.sat w a b (s.val f.opB).toNat)))

/-- ADD (R84, Table 5-3). -/
def execAdd (f : Fields) (s : State) : Host.Outcome State Fault Refusal := issue (.add f) f (alu .add (some 1) f) s

/-- SUB (R84, Table 5-3). -/
def execSub (f : Fields) (s : State) : Host.Outcome State Fault Refusal := issue (.sub f) f (alu .sub (some 1) f) s

/-- MUL (R84, Table 5-3). -/
def execMul (f : Fields) (s : State) : Host.Outcome State Fault Refusal := issue (.mul f) f (alu .mul (some 3) f) s

/-- MULH (R84, Table 5-3). -/
def execMulh (f : Fields) (s : State) : Host.Outcome State Fault Refusal := issue (.mulh f) f (alu .mulh (some 3) f) s

/-- MULHU (R84, Table 5-3). -/
def execMulhu (f : Fields) (s : State) : Host.Outcome State Fault Refusal := issue (.mulhu f) f (alu .mulhu (some 3) f) s

/-- DIV (R85, Table 5-3). -/
def execDiv (f : Fields) (s : State) : Host.Outcome State Fault Refusal := issue (.div f) f (alu .div none f) s

/-- DIVU (R85, Table 5-3). -/
def execDivu (f : Fields) (s : State) : Host.Outcome State Fault Refusal := issue (.divu f) f (alu .divu none f) s

/-- REM (R85, Table 5-3). -/
def execRem (f : Fields) (s : State) : Host.Outcome State Fault Refusal := issue (.rem f) f (alu .rem none f) s

/-- REMU (R85, Table 5-3). -/
def execRemu (f : Fields) (s : State) : Host.Outcome State Fault Refusal := issue (.remu f) f (alu .remu none f) s

/-- AND (R84, Table 5-3). -/
def execAndOp (f : Fields) (s : State) : Host.Outcome State Fault Refusal := issue (.andOp f) f (alu .and (some 1) f) s

/-- OR (R84, Table 5-3). -/
def execOrOp (f : Fields) (s : State) : Host.Outcome State Fault Refusal := issue (.orOp f) f (alu .or (some 1) f) s

/-- XOR (R84, Table 5-3). -/
def execXor (f : Fields) (s : State) : Host.Outcome State Fault Refusal := issue (.xor f) f (alu .xor (some 1) f) s

/-- ANDN (R84, Table 5-3). -/
def execAndn (f : Fields) (s : State) : Host.Outcome State Fault Refusal := issue (.andn f) f (alu .andn (some 1) f) s

/-- SHL (R84, Table 5-3). -/
def execShl (f : Fields) (s : State) : Host.Outcome State Fault Refusal := issue (.shl f) f (alu .shl (some 1) f) s

/-- SHR (R84, Table 5-3). -/
def execShr (f : Fields) (s : State) : Host.Outcome State Fault Refusal := issue (.shr f) f (alu .shr (some 1) f) s

/-- SAR (R84, Table 5-3). -/
def execSar (f : Fields) (s : State) : Host.Outcome State Fault Refusal := issue (.sar f) f (alu .sar (some 1) f) s

/-- ROTL (R84, Table 5-3). -/
def execRotl (f : Fields) (s : State) : Host.Outcome State Fault Refusal := issue (.rotl f) f (alu .rotl (some 1) f) s

/-- CLZ (R84, Table 5-3). -/
def execClz (f : Fields) (s : State) : Host.Outcome State Fault Refusal := issue (.clz f) f (alu .clz (some 1) f) s

/-- CTZ (R84, Table 5-3). -/
def execCtz (f : Fields) (s : State) : Host.Outcome State Fault Refusal := issue (.ctz f) f (alu .ctz (some 1) f) s

/-- POPC (R84, Table 5-3). -/
def execPopc (f : Fields) (s : State) : Host.Outcome State Fault Refusal := issue (.popc f) f (alu .popc (some 1) f) s

/-- MIN (R84, Table 5-3). -/
def execMin (f : Fields) (s : State) : Host.Outcome State Fault Refusal := issue (.min f) f (alu .min (some 1) f) s

/-- MAX (R84, Table 5-3). -/
def execMax (f : Fields) (s : State) : Host.Outcome State Fault Refusal := issue (.max f) f (alu .max (some 1) f) s

/-- MINU (R84, Table 5-3). -/
def execMinu (f : Fields) (s : State) : Host.Outcome State Fault Refusal := issue (.minu f) f (alu .minu (some 1) f) s

/-- MAXU (R84, Table 5-3). -/
def execMaxu (f : Fields) (s : State) : Host.Outcome State Fault Refusal := issue (.maxu f) f (alu .maxu (some 1) f) s

/-- ABS (R84, Table 5-3). -/
def execAbs (f : Fields) (s : State) : Host.Outcome State Fault Refusal := issue (.abs f) f (alu .abs (some 1) f) s

/-- NEG (R84, Table 5-3). -/
def execNeg (f : Fields) (s : State) : Host.Outcome State Fault Refusal := issue (.neg f) f (alu .neg (some 1) f) s

/-- SEXT and ZEXT (R86). -/
def extend (signed : Bool) (f : Fields) (s : State) : Eff :=
  let w := selWidth f.sel
  let a := (s.val f.opA).toNat % 2 ^ w
  .ok (s.setS (some 1) f.opD (if signed then BitVec.ofInt 64 (sx w a) else BitVec.ofNat 64 a))

/-- SEXT (R86). -/
def execSext (f : Fields) (s : State) : Host.Outcome State Fault Refusal := issue (.sext f) f (extend true f) s

/-- ZEXT (R86). -/
def execZext (f : Fields) (s : State) : Host.Outcome State Fault Refusal := issue (.zext f) f (extend false f) s

/-- The field control of BFX and BFI (R87): lo and len. -/
def fieldLo (c : Word) : Nat := (c.extractLsb' 0 6).toNat
def fieldLen (c : Word) : Nat := Nat.min (c.extractLsb' 6 7).toNat 64

/-- The result of BFX (R87). -/
def bfxResult (a c : Word) : Word :=
  let len := fieldLen c
  let f := a.toNat / 2 ^ fieldLo c % 2 ^ len
  if c.getLsbD 13 && 0 < len then BitVec.ofInt 64 (sx len f) else BitVec.ofNat 64 f

/-- The result of BFI (R87). -/
def bfiResult (d a c : Word) : Word :=
  let m := BitVec.ofNat 64 ((2 ^ fieldLen c - 1) * 2 ^ fieldLo c)
  (d &&& ~~~m) ||| BitVec.ofNat 64 (a.toNat % 2 ^ fieldLen c * 2 ^ fieldLo c)

/-- BFX (R87). -/
def execBfx (f : Fields) (s : State) : Host.Outcome State Fault Refusal :=
  issue (.bfx f) f (fun s => .ok (s.setS (some 1) f.opD (bfxResult (s.val f.opA) (s.val f.opB)))) s

/-- BFI (R87); D is also a source. -/
def execBfi (f : Fields) (s : State) : Host.Outcome State Fault Refusal :=
  issue (.bfi f) f (fun s => .ok (s.setS (some 1) f.opD (bfiResult (s.val f.opD) (s.val f.opA) (s.val f.opB)))) s

/-- LEA (R88): A + B × the element size. -/
def execLea (f : Fields) (s : State) : Host.Outcome State Fault Refusal :=
  issue (.lea f) f (fun s => .ok (s.setS (some 1) f.opD (s.val f.opA + s.val f.opB * BitVec.ofNat 64 (selWidth f.sel / 8)))) s

/-- MOV (R88). -/
def execMov (f : Fields) (s : State) : Host.Outcome State Fault Refusal :=
  issue (.mov f) f (fun s => .ok (s.setS (some 1) f.opD (BitVec.ofNat 64 ((s.val f.opA).toNat % 2 ^ selWidth f.sel)))) s

/-- SEL (R88): the selector names p0 to p3. -/
def execSel (f : Fields) (s : State) : Host.Outcome State Fault Refusal :=
  issue (.sel f) f (fun s =>
    .ok (s.setS (some 1) f.opD (if s.ctx.regs.pred f.sel.toNat then s.val f.opA else s.val f.opB))) s

/-- CMP (R89): the control word in D names the predicate, the condition and the combine field. -/
def cmpEffect (f : Fields) (s : State) : Eff :=
  let c := s.val f.opD
  let w := selWidth f.sel
  let r := icond (c.extractLsb' 4 4).toNat w ((s.val f.opA).toNat % 2 ^ w) ((s.val f.opB).toNat % 2 ^ w)
  .ok (s.setPred 1 c r)

/-- CMP (R89). -/
def execCmp (f : Fields) (s : State) : Host.Outcome State Fault Refusal := issue (.cmp f) f (cmpEffect f) s

/-- PLOG (R90): bit 2 × p[A] + p[B] of the truth table. -/
def plogEffect (f : Fields) (s : State) : Eff :=
  let c := s.val f.opD
  let k := (if s.ctx.regs.pred f.opA.num.toNat then 2 else 0) + (if s.ctx.regs.pred f.opB.num.toNat then 1 else 0)
  .ok (s.setPred 1 c ((c.extractLsb' 4 4).getLsbD k))

/-- PLOG (R90). -/
def execPlog (f : Fields) (s : State) : Host.Outcome State Fault Refusal := issue (.plog f) f (plogEffect f) s

/-! ### Floating point -/

/-- The float operations that round once (R91, R114). -/
inductive FOp where
  | add | sub | mul | fma | div | sqrt | rsqrt | exp2 | log2
deriving DecidableEq, Repr

/-- The exact result of an operation in format `F` (R91, R114): a, b and for FMA d. -/
def FOp.exact (op : FOp) (F : Fmt) (mode : RMode) (a b d : FVal) : ExF :=
  match op with
  | .add => exAdd mode a b
  | .sub => exSub mode a b
  | .mul => exMul a b
  | .fma => exFma mode a b d
  | .div => exDiv F a b
  | .sqrt => exSqrt F a
  | .rsqrt => exRsqrt F a
  | .exp2 => exExp2 F a
  | .log2 => exLog2 F a

/-- The result r of R91 and its flags, on encodings of `F`. -/
def FOp.result (op : FOp) (F : Fmt) (mode : RMode) (sat : Bool) (a b d : Nat) : Nat × Flags :=
  F.deliver false mode sat (op.exact F mode (F.decode false a) (F.decode false b) (F.decode false d))

/-- `rmode()` as a mode. -/
def State.mode (s : State) : RMode := RMode.ofCode s.rmode.toNat

/-- The effect of R91. -/
def fop (op : FOp) (lat : Option Nat) (f : Fields) (s : State) : Eff :=
  let F := fmtOfSel f.sel
  fpScalar lat f.opD (op.result F s.mode s.sat (s.val f.opA).toNat (s.val f.opB).toNat (s.val f.opD).toNat) s

/-- FADD (R91). -/
def execFadd (f : Fields) (s : State) : Host.Outcome State Fault Refusal := issue (.fadd f) f (fop .add (some 4) f) s

/-- FSUB (R91). -/
def execFsub (f : Fields) (s : State) : Host.Outcome State Fault Refusal := issue (.fsub f) f (fop .sub (some 4) f) s

/-- FMUL (R91). -/
def execFmul (f : Fields) (s : State) : Host.Outcome State Fault Refusal := issue (.fmul f) f (fop .mul (some 4) f) s

/-- FFMA (R91). -/
def execFfma (f : Fields) (s : State) : Host.Outcome State Fault Refusal := issue (.ffma f) f (fop .fma (some 4) f) s

/-- FDIV (R91). -/
def execFdiv (f : Fields) (s : State) : Host.Outcome State Fault Refusal := issue (.fdiv f) f (fop .div none f) s

/-- FSQRT (R91). -/
def execFsqrt (f : Fields) (s : State) : Host.Outcome State Fault Refusal := issue (.fsqrt f) f (fop .sqrt none f) s

/-- FMIN and FMAX (R92). -/
def fminmax (isMax : Bool) (f : Fields) (s : State) : Eff :=
  let F := fmtOfSel f.sel
  fpScalar (some 2) f.opD (F.minmax false isMax ((s.val f.opA).toNat % 2 ^ F.w) ((s.val f.opB).toNat % 2 ^ F.w)) s

/-- FMIN (R92). -/
def execFmin (f : Fields) (s : State) : Host.Outcome State Fault Refusal := issue (.fmin f) f (fminmax false f) s

/-- FMAX (R92). -/
def execFmax (f : Fields) (s : State) : Host.Outcome State Fault Refusal := issue (.fmax f) f (fminmax true f) s

/-- FCMP (R93): the predicate is not written when trap 0x0E is raised. -/
def fcmpEffect (f : Fields) (s : State) : Eff :=
  let F := fmtOfSel f.sel
  let c := s.val f.opD
  let r := fcond (c.extractLsb' 4 4).toNat (F.decode false (s.val f.opA).toNat) (F.decode false (s.val f.opB).toNat)
  match s.fpTrap r.2 with
  | some t => .trap t
  | none => .ok ((s.setPred 2 c r.1).raiseFlags (some 2) r.2)

/-- FCMP (R93). -/
def execFcmp (f : Fields) (s : State) : Host.Outcome State Fault Refusal := issue (.fcmp f) f (fcmpEffect f) s

/-- A conversion between float formats by their codes (R94): to the same format it copies, quieting a signalling NaN. -/
def convertFloat (src dst : Nat) (top : Bool) (mode : RMode) (sat : Bool) (x : Nat) : Nat × Flags :=
  let S := fmtOfCode src
  let D := fmtOfCode dst
  let v := S.decode top x
  if src == dst && !v.isSNaN then (x % 2 ^ S.w, 0)
  else D.deliver top mode sat ((pickNaN [v]).getD (v.ex, 0))

/-- FCVT (R94). -/
def fcvtEffect (f : Fields) (s : State) : Eff :=
  let b := s.val f.opB
  fpScalar (some 3) f.opD
    (convertFloat (b.extractLsb' 0 5).toNat (b.extractLsb' 8 5).toNat s.top s.mode s.sat (s.val f.opA).toNat) s

/-- FCVT (R94). -/
def execFcvt (f : Fields) (s : State) : Host.Outcome State Fault Refusal := issue (.fcvt f) f (fcvtEffect f) s

/-- FCVTI (R95, R65): signed results are sign-extended. -/
def fcvtiEffect (f : Fields) (s : State) : Eff :=
  let r := toInt s.mode (s.val f.opB).toNat ((fmtOfSel f.sel).decode false (s.val f.opA).toNat)
  fpScalar (some 3) f.opD (lowBits 64 r.1, r.2) s

/-- FCVTI (R95). -/
def execFcvti (f : Fields) (s : State) : Host.Outcome State Fault Refusal := issue (.fcvti f) f (fcvtiEffect f) s

/-- ICVTF (R95). -/
def icvtfEffect (f : Fields) (s : State) : Eff :=
  let F := fmtOfSel f.sel
  fpScalar (some 3) f.opD
    (F.deliver false s.mode false (exInt (readInt (s.val f.opB).toNat (s.val f.opA).toNat))) s

/-- ICVTF (R95). -/
def execIcvtf (f : Fields) (s : State) : Host.Outcome State Fault Refusal := issue (.icvtf f) f (icvtfEffect f) s

/-- FCLASS (R96): one bit of ten. -/
def execFclass (f : Fields) (s : State) : Host.Outcome State Fault Refusal :=
  issue (.fclass f) f (fun s =>
    .ok (s.setS (some 1) f.opD (BitVec.ofNat 64 (2 ^ (fmtOfSel f.sel).classBit (s.val f.opA).toNat)))) s

/-- FABS (R96): the sign bit is cleared. -/
def execFabs (f : Fields) (s : State) : Host.Outcome State Fault Refusal :=
  issue (.fabs f) f (fun s =>
    let w := (fmtOfSel f.sel).w
    .ok (s.setS (some 1) f.opD (BitVec.ofNat 64 ((s.val f.opA).toNat % 2 ^ (w - 1))))) s

/-- FNEG (R96): the sign bit is inverted. -/
def execFneg (f : Fields) (s : State) : Host.Outcome State Fault Refusal :=
  issue (.fneg f) f (fun s =>
    let w := (fmtOfSel f.sel).w
    .ok (s.setS (some 1) f.opD (BitVec.ofNat 64 ((s.val f.opA).toNat % 2 ^ w ^^^ 2 ^ (w - 1))))) s

end Sys2Proof.Machine
end

