-- ==== Sys2Proof/Machine/Station.lean ====
section
/-! DEFINITION. What a station does with an access of its core: integer-typed and float-typed lanes translated and checked in the
order of R99 and R126, elements and scales placed (R75 to R77), the home's readiness (R14), acceptance (R81), and a
converting load that must be precise (R82). -/

namespace Sys2Proof.Machine

/-- A store of the core into local store or the scratchpad; one into the scratchpad feeds a redundant member's signature (R313). -/
def State.dataWrite (pl : LPlace) (a n data : Nat) (s : State) : State :=
  if pl == .spad then s.writing a n data (·.lwrite pl a n data) else s.lwrite pl a n data

/-- The accesses outstanding that count for R81. -/
def State.outstanding (s : State) : Nat := (s.core.gq.filter (·.returns)).length

/-- The offset and the F bit of a global access's B field (R99). -/
def State.globalOffset (s : State) (o : Operand) : Word × Bool :=
  match o with
  | .imm v => ((v.extractLsb' 0 18).signExtend 64, v.getLsbD 18)
  | o => (s.val o, false)

/-- The float type that a selector names for F-typed accesses (R99). -/
def selType (sel : BitVec 2) : BitVec 5 := 8 + sel.zeroExtend 5

/-- What a station has translated: the parts of the access, the entries used, and the FMT of its page. -/
structure Reached where
  parts : List Part
  kept : List Kept
  fmt : BitVec 5

/-- Several addresses translated, without the check of R285. -/
def State.translateAll (s : State) (k : AccKind) : List (Nat × Word) → Except Trap (List Nat × List Kept)
  | [] => .ok ([], [])
  | (_, va) :: rest =>
    match s.translate s.me k va with
    | .error t => .error t
    | .ok (p, ks) =>
      match s.translateAll k rest with
      | .error t => .error t
      | .ok (ps, ks') => .ok (p.pa :: ps, ks ++ ks')

/-- One lane of an integer-typed access. -/
def rawPart (n : Nat) (x : Nat × Word × Page) : Part := ⟨x.1, x.2.1, x.2.2.pa, n, 0, none, 0⟩

/-- Lanes of raw bytes, each at its own address (R99, R127). -/
def State.rawParts (s : State) (k : AccKind) (n : Nat) (lanes : List (Nat × Word)) : Except Trap Reached :=
  match s.reachAll k n lanes with
  | .error t => .error t
  | .ok (ps, ks) => .ok ⟨ps.map (rawPart n), ks, 0x1F⟩

/-- A page of packed elements (R76): INT4, or a block format. -/
def Page.packed (p : Page) : Bool := p.fmt == 0x02 || isBlock p.fmt

/-- The address lies in the scale region of a BG 1 page (R75). -/
def Page.inScales (p : Page) (va : Word) : Bool := p.bg == 1 && 31 * p.size / 32 ≤ va.toNat % p.size

/-- One element of a float-typed access, whose page must have the FMT and BG of that of `ea`, and its block's scale (R76, R77). -/
def State.elemPart (s : State) (k : AccKind) (p₀ : Page) (t : BitVec 5) (scalar : Bool) (ea : Word) (i : Nat) :
    Except Trap (Part × List Kept) :=
  let fmt := if p₀.fmt == 0x1F then t else p₀.fmt
  let (off, sub) := elemPlace fmt i
  let va := ea + BitVec.ofNat 64 off
  match s.translate s.me k va with
  | .error e => .error e
  | .ok (p, ks) =>
    if p.fmt != p₀.fmt || p.bg != p₀.bg || p.inScales va || (p.packed && (scalar || k != .read)) then .error (0x07, va)
    else match s.claimFault k (elemBytes fmt) va p.pa with
    | some e => .error e
    | none =>
      if isBlock p.fmt && p.bg != 0 then
        match scaleAddress p va with
        | none => .error (0x07, va)
        | some sva =>
          match s.reach .read (blockShape fmt).2 sva with
          | .error e => .error e
          | .ok (sp, ks') =>
            .ok (⟨i, va, p.pa, elemBytes fmt, sub, some (sp.pa, (blockShape fmt).2), 0⟩, ks ++ ks')
      else .ok (⟨i, va, p.pa, elemBytes fmt, sub, none, 0⟩, ks)

/-- The elements of a float-typed access in lane order. -/
def State.elemParts (s : State) (k : AccKind) (p₀ : Page) (t : BitVec 5) (scalar : Bool) (ea : Word) :
    List Nat → Except Trap (List Part × List Kept)
  | [] => .ok ([], [])
  | i :: rest =>
    match s.elemPart k p₀ t scalar ea i with
    | .error e => .error e
    | .ok (p, ks) =>
      match s.elemParts k p₀ t scalar ea rest with
      | .error e => .error e
      | .ok (ps, ks') => .ok (p :: ps, ks ++ ks')

/-- A float-typed access (R76, R77, R99, R126): the page of `ea` decides, its translation traps come first, and its
alignment by the element size follows. DEDUCED (log entry 23): where lane 0 is not active nothing is accessed at `ea` (R109), whose page is
looked up for its FMT and BG alone; without an active lane nothing is looked up. -/
def State.typedParts (s : State) (k : AccKind) (t : BitVec 5) (scalar : Bool) (ea : Word) (lanes : List Nat) :
    Except Trap Reached :=
  if lanes = [] then .ok ⟨[], [], 0x1F⟩
  else match s.translate s.me (if lanes.contains 0 then k else .look) ea with
  | .error e => .error e
  | .ok (p₀, ks) =>
    match s.elemParts k p₀ t scalar ea lanes with
    | .error e => .error e
    | .ok (ps, ks') =>
      if ea.toNat % (elemBytes (if p₀.fmt == 0x1F then t else p₀.fmt)) != 0 then .error (0x08, ea) else .ok ⟨ps, ks ++ ks', p₀.fmt⟩

/-- The addresses that an access touches, each with that of its lane. -/
def Reached.homes (r : Reached) : List (Word × Nat) :=
  r.parts.flatMap fun p => (p.va, p.pa) :: (match p.scale with | some x => [(p.va, x.1)] | none => [])

/-- The station's answer, with the state in which earlier pushes have been written: a trap, a hold, or acceptance (R14, R81). `span` is
0 for a read; a write may write that many bytes from each part on, which a command that has not read them yet holds (R149). -/
def station (returns : Bool) (span : Nat) (find : State → Except Trap Reached) (s : State)
    (accept : State → Reached → Eff) : Eff :=
  if returns && 16 ≤ s.outstanding then .hold s
  else
    let s := s.drainStreams
    match find s with
    | .error t => .trap t
    | .ok r =>
      match s.homes r.homes with
      | some none => .hold s
      | some (some t) => .trap t
      | none =>
        if span != 0 && r.parts.any fun p => s.globalHeld p.pa (max p.n span) then .hold s else accept (s.keep r.kept) r

/-- An access joins those that its station has accepted. -/
def State.enqueue (a : GAccess) (s : State) : State := { s with core := { s.core with gq := s.core.gq ++ [a] } }

/-- The table that a block format decodes with, as of issue (R71, R72). -/
def State.tableFor (s : State) (fmt : BitVec 5) : Memory :=
  if fmt == 0x10 then s.ctx.cb2 else if fmt == 0x11 then s.ctx.mq8 else []

/-- A load that its station accepts (R81). One that converts while an enable is set completes before anything else issues, and
raises trap 0x0E precisely (R76, R82). -/
def acceptLoad (ea : Word) (ty : Option (BitVec 5)) (lw : Nat) (dest : Dest) (s : State) (r : Reached) : Eff :=
  let converts := match ty with | some t => r.fmt != 0x1F && r.fmt != t | none => false
  if s.isShadow then
    shadowRead (fun s x fl =>
      let fl := if converts then fl else 0
      match s.fpTrap fl with
      | some t => .trap t
      | none =>
        let s := { s with ctx := s.ctx.land (.flags fl) }
        match dest with
        | .s n => .ok (s.putSLocked n (x.extractLsb' 0 64))
        | .v n => .ok (s.putLocked n (.v (n.toNat - 64) (packLanes lw (r.parts.map fun p => (p.lane, 0))).2 x))
        | .none => .ok s) s
  else
  let a : GAccess :=
    { va := ea, kind := .load, parts := r.parts, ty, fmt := r.fmt, top := s.top, lw, rm := s.rmode, dest
      table := s.tableFor r.fmt, next := 0, performed := false, got := [], value := 0, flags := 0, bad := false }
  if converts && s.enables != 0 then
    let q := s.performAll.perform a
    if q.2.bad then .trapAfter q.1 (0x11, q.2.va)
    else match s.fpTrap q.2.deliver.2 with
      | some t => .trap t
      | none => .ok (q.1.arrive q.2)
  else .ok (s.enqueue a)

/-- A store that its station accepts; the parts carry their data (R99). -/
def acceptStore (ea : Word) (parts : List Part) (s : State) : State :=
  let s := parts.foldl (fun s p => s.sign p.va.toNat p.n p.data) s
  if s.isShadow then s
  else s.enqueue
    { va := ea, kind := .store, parts, ty := none, fmt := 0x1F, top := s.top, lw := 64, rm := s.rmode, dest := .none
      table := [], next := 0, performed := false, got := [], value := 0, flags := 0, bad := false }

/-- A store's parts with the data of their lanes, encoded for the page of a float-typed one (R77). -/
def storeParts (ty : Option (BitVec 5)) (fmt : BitVec 5) (top : Bool) (rm : BitVec 3) (data : Nat → Nat) (ps : List Part) :
    List Part × Flags :=
  ps.foldr (fun p acc =>
    let x := match ty with | some t => storeElem t fmt top rm (data p.lane) | none => (data p.lane, (0 : Flags))
    ({ p with data := x.1 } :: acc.1, x.2 ||| acc.2)) ([], 0)

/-- A store of lanes: its data are encoded, its flags checked (R68), and it is accepted. -/
def storeLanes (ea : Word) (ty : Option (BitVec 5)) (data : Nat → Nat) (s : State) (r : Reached) : Eff :=
  let d := storeParts ty r.fmt s.top s.rmode data r.parts
  match s.fpTrap d.2 with
  | some t => .trap t
  | none => .ok ((acceptStore ea d.1 s).raiseFlags (some 1) d.2)

end Sys2Proof.Machine
end

