-- ==== Sys2Proof/Machine/ScalarMem.lean ====
section
/-! DEFINITION. The scalar memory instructions (R97 to R100). -/

namespace Sys2Proof.Machine

/-- The bytes that a selector's width names. -/
def selBytes (sel : BitVec 2) : Nat := selWidth sel / 8

/-- A local access's checks: the 4 MiB bound of R98, then those of R37, then the footprint check of R150. -/
def State.localAccess (s : State) (ea : Word) (n : Nat) (write : Bool) : Except Trap LPlace :=
  if 0x400000 ≤ ea.toNat then .error (0x05, ea)
  else match s.lmemCheck ea n write with
    | .error t => .error t
    | .ok pl => match s.footprint pl ea.toNat n write with
      | some t => .error t
      | none => .ok pl

/-- LDL of the event unit's window (R195). -/
def ldlEvent (f : Fields) (ea : Word) (s : State) : Eff :=
  match evPlace ea.toNat with
  | none => .trap (0x05, ea)
  | some (l, r) => s.evEffect l r fun v s => .ok (s.setS none f.opD v)

/-- The latency of a load from a place (R98); none where the core interlocks. -/
def loadLatency (pl : LPlace) : Option Nat := match pl with | .store => some 3 | .spad => some 6 | _ => none

/-- LDL of any other place (R98, R196, R407), after the buffered pushes (R133) and earlier reads (R220). -/
def ldlPlace (f : Fields) (ea : Word) (n : Nat) (pl : LPlace) (s : State) : Eff :=
  let put := fun (s : State) (x : Nat) => Eff.ok (s.setS (loadLatency pl) f.opD (BitVec.ofNat 64 x))
  if pl == .spad then reading (s.lread pl ea.toNat n) put s else put s (s.lread pl ea.toNat n)

/-- LDL (R98, R195, R196, R407). -/
def ldlEffect (f : Fields) (s : State) : Eff :=
  let ea := s.val f.opA + s.val f.opB
  let n := selBytes f.sel
  onServed s (fun v s => .ok (s.setS none f.opD v)) <| match s.localAccess ea n false with
    | .error t => .trap t
    | .ok pl => if pl = .event then ldlEvent f ea s else ldlPlace f ea n pl s.caughtUp

/-- LDL (R98). -/
def execLdl (f : Fields) (s : State) : Host.Outcome State Fault Refusal := issue (.ldl f) f (ldlEffect f) s

/-- STL to the event unit's window (R195). -/
def stlEvent (ea x : Word) (s : State) : Eff :=
  match evPlace ea.toNat with
  | none => .trap (0x05, ea)
  | some (l, r) => match s.published.evStore l r x with
    | none => .trap (0x05, ea)
    | some s => .ok s

/-- STL to any other place; a store into bytes that an earlier command has not read yet is held (R149). -/
def stlPlace (ea x : Word) (n : Nat) (pl : LPlace) (s : State) : Eff :=
  if s.storeHeld pl ea.toNat n then .hold s else .ok (s.dataWrite pl ea.toNat n (x.toNat % 2 ^ (8 * n)))

/-- STL (R98, R195). -/
def stlEffect (f : Fields) (s : State) : Eff :=
  let ea := s.val f.opA + s.val f.opB
  let n := selBytes f.sel
  let x := s.val f.opD
  match s.localAccess ea n true with
  | .error t => .trap t
  | .ok pl => if pl = .event then stlEvent ea x s else stlPlace ea x n pl s.caughtUp

/-- STL (R98). -/
def execStl (f : Fields) (s : State) : Host.Outcome State Fault Refusal := issue (.stl f) f (stlEffect f) s

/-- The station's translation of a scalar global access (R99). -/
def scalarReached (k : AccKind) (f : Fields) (ea : Word) (typed : Bool) (s : State) : Except Trap Reached :=
  if typed then s.typedParts k (selType f.sel) true ea [0]
  else if ea.toNat % selBytes f.sel != 0 then .error (0x08, ea)
  else s.rawParts k (selBytes f.sel) [(0, ea)]

/-- The destination of a scalar global access; zr discards (R99). -/
def scalarDest (o : Operand) : Dest := if o.num == 112 then .none else .s o.num

/-- LDG (R99). -/
def ldgEffect (f : Fields) (s : State) : Eff :=
  let (off, typed) := s.globalOffset f.opB
  let ea := s.val f.opA + off
  let ty := if typed then some (selType f.sel) else none
  station true 0 (scalarReached .read f ea typed) s fun s r => acceptLoad ea ty 64 (scalarDest f.opD) s r

/-- LDG (R99). -/
def execLdg (f : Fields) (s : State) : Host.Outcome State Fault Refusal := issue (.ldg f) f (ldgEffect f) s

/-- STG (R99). -/
def stgEffect (f : Fields) (s : State) : Eff :=
  let (off, typed) := s.globalOffset f.opB
  let ea := s.val f.opA + off
  let ty := if typed then some (selType f.sel) else none
  let x := (s.val f.opD).toNat % 2 ^ (if typed then 64 else 8 * selBytes f.sel)
  station false 1 (scalarReached .write f ea typed) s (storeLanes ea ty fun _ => x)

/-- STG (R99). -/
def execStg (f : Fields) (s : State) : Host.Outcome State Fault Refusal := issue (.stg f) f (stgEffect f) s

/-- PREF (R100): the station may keep the translation; nothing else changes. -/
def prefEffect (f : Fields) (s : State) : Eff :=
  match s.translate s.me .read (s.val f.opA + s.val f.opB) with
  | .ok (_, ks) => .ok (s.keep ks)
  | .error _ => .ok s

/-- PREF (R100). -/
def execPref (f : Fields) (s : State) : Host.Outcome State Fault Refusal := issue (.pref f) f (prefEffect f) s

end Sys2Proof.Machine
end

