-- ==== Sys2Proof/Machine/Vector.lean ====
section
/-! DEFINITION. The vector instructions on registers: the integer group (R111 to R113), the floating-point group (R114,
R115), conversion and data movement (R116 to R121), and the loss-scale update (R122, R123). -/

namespace Sys2Proof.Machine

/-- A stream in field D of an instruction that also reads D is popped after A and B (R29, R109) and cannot then be pushed. -/
def withDest (s₀ : State) (o : Operand) (s : State) (k : Eff) : Eff :=
  match o.stream with
  | some q => match s.pop q with
    | .trap t => .trap t
    | .wait => .hold s₀
    | .ok .. => .trap (misuse q 2)
  | none => k

/-! ### Integer lanes -/

/-- The effect of R111: Table 5-3 in each active lane, the count being the lane of B. -/
def vint (op : AluOp) (lat : Nat) (f : Fields) (s : State) : Eff :=
  let w := selWidth f.sel
  withSources w f.opA f.opB s fun s' x y =>
    s.setV (some lat) f.opD (laneMask w (s.act f))
      (ofLanes w fun i => op.result s.sat w (lane x i w) (lane y i w) (lane y i w)) s'

/-- VADD (R111, Table 6-2). -/
def execVadd (f : Fields) (s : State) : Host.Outcome State Fault Refusal := issue (.vadd f) f (vint .add 1 f) s

/-- VSUB (R111, Table 6-2). -/
def execVsub (f : Fields) (s : State) : Host.Outcome State Fault Refusal := issue (.vsub f) f (vint .sub 1 f) s

/-- VMUL (R111, Table 6-2). -/
def execVmul (f : Fields) (s : State) : Host.Outcome State Fault Refusal := issue (.vmul f) f (vint .mul 3 f) s

/-- VMULH (R111, Table 6-2). -/
def execVmulh (f : Fields) (s : State) : Host.Outcome State Fault Refusal := issue (.vmulh f) f (vint .mulh 3 f) s

/-- VMIN (R111, Table 6-2). -/
def execVmin (f : Fields) (s : State) : Host.Outcome State Fault Refusal := issue (.vmin f) f (vint .min 1 f) s

/-- VMAX (R111, Table 6-2). -/
def execVmax (f : Fields) (s : State) : Host.Outcome State Fault Refusal := issue (.vmax f) f (vint .max 1 f) s

/-- VAND (R111, Table 6-2). -/
def execVand (f : Fields) (s : State) : Host.Outcome State Fault Refusal := issue (.vand f) f (vint .and 1 f) s

/-- VOR (R111, Table 6-2). -/
def execVor (f : Fields) (s : State) : Host.Outcome State Fault Refusal := issue (.vor f) f (vint .or 1 f) s

/-- VXOR (R111, Table 6-2). -/
def execVxor (f : Fields) (s : State) : Host.Outcome State Fault Refusal := issue (.vxor f) f (vint .xor 1 f) s

/-- VSHL (R111, Table 6-2). -/
def execVshl (f : Fields) (s : State) : Host.Outcome State Fault Refusal := issue (.vshl f) f (vint .shl 1 f) s

/-- VSHR (R111, Table 6-2). -/
def execVshr (f : Fields) (s : State) : Host.Outcome State Fault Refusal := issue (.vshr f) f (vint .shr 1 f) s

/-- VSAR (R111, Table 6-2). -/
def execVsar (f : Fields) (s : State) : Host.Outcome State Fault Refusal := issue (.vsar f) f (vint .sar 1 f) s

/-- VABS (R111, Table 6-2). -/
def execVabs (f : Fields) (s : State) : Host.Outcome State Fault Refusal := issue (.vabs f) f (vint .abs 1 f) s

/-- VNEG (R111, Table 6-2). -/
def execVneg (f : Fields) (s : State) : Host.Outcome State Fault Refusal := issue (.vneg f) f (vint .neg 1 f) s

/-- VCMP (R112). -/
def vcmpEffect (f : Fields) (s : State) : Eff :=
  let w := selWidth f.sel
  let c := s.val f.opD
  withSources w f.opA f.opB s fun s' x y =>
    .ok (s'.setMask 1 c (512 / w) (s.act f) fun i => icond (c.extractLsb' 4 4).toNat w (lane x i w) (lane y i w))

/-- VCMP (R112). -/
def execVcmp (f : Fields) (s : State) : Host.Outcome State Fault Refusal := issue (.vcmp f) f (vcmpEffect f) s

/-- VSEL (R113): active lanes whose bit of the mask register A is 1 take B. -/
def vselEffect (f : Fields) (s : State) : Eff :=
  let w := selWidth f.sel
  let m := s.val f.opA
  withSources w .lit f.opB s fun s' _ y => withDest s f.opD s' <|
    s.setV (some 1) f.opD (laneMask w fun i => s.act f i && m.getLsbD i) y s'

/-- VSEL (R113). -/
def execVsel (f : Fields) (s : State) : Host.Outcome State Fault Refusal := issue (.vsel f) f (vselEffect f) s

/-- VCLAMP (R113): min(max(sd, sa), sb). -/
def vclampEffect (f : Fields) (s : State) : Eff :=
  let w := selWidth f.sel
  let d := s.vold f.opD
  withSources w f.opA f.opB s fun s' x y => withDest s f.opD s' <|
    s.setV (some 1) f.opD (laneMask w (s.act f))
      (ofLanes w fun i => lowBits w (min (max (sx w (lane d i w)) (sx w (lane x i w))) (sx w (lane y i w)))) s'

/-- VCLAMP (R113). -/
def execVclamp (f : Fields) (s : State) : Host.Outcome State Fault Refusal := issue (.vclamp f) f (vclampEffect f) s

/-! ### Float lanes -/

/-- The results and flags of the active lanes: a vector of `w`-bit lanes and the flags merged (R109). -/
def flagLanes (w : Nat) (act : Nat → Bool) (g : Nat → Nat × Flags) : Vec × Flags :=
  let rs := (List.range (512 / w)).map fun i => if act i then g i else (0, 0)
  (ofLanes w fun i => ((rs[i]?).getD (0, 0)).1, rs.foldl (fun fl r => fl ||| r.2) 0)

/-- The effect of R114: the operations of FOp in each active lane. -/
def vfop (op : FOp) (lat : Option Nat) (f : Fields) (s : State) : Eff :=
  let F := fmtOfSel f.sel
  let d := s.vold f.opD
  withSources F.w f.opA f.opB s fun s' x y =>
    let r := flagLanes F.w (s.act f) fun i =>
      op.result F s.mode s.sat (lane x i F.w) (lane y i F.w) (lane d i F.w)
    let out := fpVector s lat f.opD (laneMask F.w (s.act f)) r.1 r.2 s'
    if op = .fma then withDest s f.opD s' out else out

/-- VFADD (R114, Table 6-3). -/
def execVfadd (f : Fields) (s : State) : Host.Outcome State Fault Refusal := issue (.vfadd f) f (vfop .add (some 4) f) s

/-- VFSUB (R114, Table 6-3). -/
def execVfsub (f : Fields) (s : State) : Host.Outcome State Fault Refusal := issue (.vfsub f) f (vfop .sub (some 4) f) s

/-- VFMUL (R114, Table 6-3). -/
def execVfmul (f : Fields) (s : State) : Host.Outcome State Fault Refusal := issue (.vfmul f) f (vfop .mul (some 4) f) s

/-- VFMA (R114, Table 6-3). -/
def execVfma (f : Fields) (s : State) : Host.Outcome State Fault Refusal := issue (.vfma f) f (vfop .fma (some 4) f) s

/-- VFDIV (R114, Table 6-3). -/
def execVfdiv (f : Fields) (s : State) : Host.Outcome State Fault Refusal := issue (.vfdiv f) f (vfop .div none f) s

/-- VFSQRT (R114, Table 6-3). -/
def execVfsqrt (f : Fields) (s : State) : Host.Outcome State Fault Refusal := issue (.vfsqrt f) f (vfop .sqrt none f) s

/-- VFRSQ (R114, Table 6-3). -/
def execVfrsq (f : Fields) (s : State) : Host.Outcome State Fault Refusal := issue (.vfrsq f) f (vfop .rsqrt none f) s

/-- VFEXP2 (R114, Table 6-3). -/
def execVfexp2 (f : Fields) (s : State) : Host.Outcome State Fault Refusal := issue (.vfexp2 f) f (vfop .exp2 none f) s

/-- VFLOG2 (R114, Table 6-3). -/
def execVflog2 (f : Fields) (s : State) : Host.Outcome State Fault Refusal := issue (.vflog2 f) f (vfop .log2 none f) s

/-- VFMIN and VFMAX (R115, R92). -/
def vfminmax (isMax : Bool) (f : Fields) (s : State) : Eff :=
  let F := fmtOfSel f.sel
  withSources F.w f.opA f.opB s fun s' x y =>
    let r := flagLanes F.w (s.act f) fun i => F.minmax false isMax (lane x i F.w) (lane y i F.w)
    fpVector s (some 2) f.opD (laneMask F.w (s.act f)) r.1 r.2 s'

/-- VFMIN (R115). -/
def execVfmin (f : Fields) (s : State) : Host.Outcome State Fault Refusal := issue (.vfmin f) f (vfminmax false f) s

/-- VFMAX (R115). -/
def execVfmax (f : Fields) (s : State) : Host.Outcome State Fault Refusal := issue (.vfmax f) f (vfminmax true f) s

/-- VFCMP (R115): no mask bit is written when trap 0x0E is raised. -/
def vfcmpEffect (f : Fields) (s : State) : Eff :=
  let F := fmtOfSel f.sel
  let c := s.val f.opD
  withSources F.w f.opA f.opB s fun s' x y =>
    let r := fun i => fcond (c.extractLsb' 4 4).toNat (F.decode false (lane x i F.w)) (F.decode false (lane y i F.w))
    let fl := (flagLanes F.w (s.act f) fun i => (0, (r i).2)).2
    match s.fpTrap fl with
    | some t => .trap t
    | none => .ok ((s'.setMask 2 c (512 / F.w) (s.act f) fun i => (r i).1).raiseFlags (some 2) fl)

/-- VFCMP (R115). -/
def execVfcmp (f : Fields) (s : State) : Host.Outcome State Fault Refusal := issue (.vfcmp f) f (vfcmpEffect f) s

/-! ### Conversion and movement -/

/-- One element of VCVT between two of its formats (R116): R91 and R94, R65, or the value itself, wrapped or saturated. -/
def convertElem (src dst : BitVec 5) (top : Bool) (mode : RMode) (sat : Bool) (x : Nat) : Nat × Flags :=
  if floatCode src then
    if floatCode dst then convertFloat src.toNat dst.toNat top mode sat x
    else
      let r := toInt mode dst.toNat ((fmtOfCode src.toNat).decode top x)
      (lowBits (codeWidth dst) r.1, r.2)
  else
    let v := readInt src.toNat x
    if floatCode dst then (fmtOfCode dst.toNat).deliver top mode false (exInt v)
    else
      let v := if sat then clampInt (intRange dst.toNat).1 (intRange dst.toNat).2 v else v
      (lowBits (codeWidth dst) v, 0)

/-- VCVT (R116): the mask governs destination lanes, and lanes outside part h keep their values. -/
def vcvtEffect (f : Fields) (s : State) : Eff :=
  let c := s.val f.opB
  let src := c.extractLsb' 0 5
  let dst := c.extractLsb' 8 5
  let h := (c.extractLsb' 16 3).toNat
  let ws := codeWidth src
  let wd := codeWidth dst
  let n := 512 / max ws wd
  let inPart := fun i => if wd < ws then h * n ≤ i && i < h * n + n else i < n
  let from_ := fun i => if wd < ws then i - h * n else if ws < wd then h * n + i else i
  withSources ws f.opA f.opB s fun s' x _ => withDest s f.opD s' <|
    let act := fun i => s.act f i && inPart i
    let r := flagLanes wd act fun i => convertElem src dst s.top s.mode s.sat (lane x (from_ i) ws)
    fpVector s (some 3) f.opD (laneMask wd act) r.1 r.2 s'

/-- VCVT (R116). -/
def execVcvt (f : Fields) (s : State) : Host.Outcome State Fault Refusal := issue (.vcvt f) f (vcvtEffect f) s

/-- VPACK (R117). -/
def vpackEffect (f : Fields) (s : State) : Eff :=
  let wd := selWidth f.sel
  let half := 512 / wd / 2
  withSources (2 * wd) f.opA f.opB s fun s' x y =>
    s.setV (some 1) f.opD (laneMask wd (s.act f)) (ofLanes wd fun j =>
      let v := if j < half then lane x j (2 * wd) else lane y (j - half) (2 * wd)
      lowBits wd (if s.sat then satInt wd (sx (2 * wd) v) else (v : Int))) s'

/-- VPACK (R117). -/
def execVpack (f : Fields) (s : State) : Host.Outcome State Fault Refusal := issue (.vpack f) f (vpackEffect f) s

/-- VUNPK (R117): half h of A, zero-extended under U. -/
def vunpkEffect (f : Fields) (s : State) : Eff :=
  let wd := selWidth f.sel
  let ws := wd / 2
  let b := s.val f.opB
  let h := if b.getLsbD 0 then 512 / wd else 0
  withSources ws f.opA f.opB s fun s' x _ =>
    s.setV (some 1) f.opD (laneMask wd (s.act f)) (ofLanes wd fun j =>
      let v := lane x (h + j) ws
      if b.getLsbD 1 then v else lowBits wd (sx ws v)) s'

/-- VUNPK (R117). -/
def execVunpk (f : Fields) (s : State) : Host.Outcome State Fault Refusal := issue (.vunpk f) f (vunpkEffect f) s

/-- VSHUF (R118). -/
def vshufEffect (f : Fields) (s : State) : Eff :=
  let w := selWidth f.sel
  withSources w f.opA f.opB s fun s' x y =>
    s.setV (some 2) f.opD (laneMask w (s.act f))
      (ofLanes w fun i => if lane y i w < 512 / w then lane x (lane y i w) w else 0) s'

/-- VSHUF (R118). -/
def execVshuf (f : Fields) (s : State) : Host.Outcome State Fault Refusal := issue (.vshuf f) f (vshufEffect f) s

/-- The index k of R118: a register's value mod L. -/
def State.index (s : State) (f : Fields) : Nat := (s.val f.opB).toNat % (512 / selWidth f.sel)

/-- VBCAST (R118). -/
def vbcastEffect (f : Fields) (s : State) : Eff :=
  let w := selWidth f.sel
  withSources w f.opA .lit s fun s' x _ =>
    s.setV (some 1) f.opD (laneMask w (s.act f)) (ofLanes w fun _ => lane x (s.index f) w) s'

/-- VBCAST (R118). -/
def execVbcast (f : Fields) (s : State) : Host.Outcome State Fault Refusal := issue (.vbcast f) f (vbcastEffect f) s

/-- VEXTR (R118), whatever the mask. -/
def vextrEffect (f : Fields) (s : State) : Eff :=
  let w := selWidth f.sel
  withSources w f.opA .lit s fun s' x _ => .ok (s'.setS (some 1) f.opD (BitVec.ofNat 64 (lane x (s.index f) w)))

/-- VEXTR (R118). -/
def execVextr (f : Fields) (s : State) : Host.Outcome State Fault Refusal := issue (.vextr f) f (vextrEffect f) s

/-- VINS (R118): lane k only, when it is active. -/
def vinsEffect (f : Fields) (s : State) : Eff :=
  let w := selWidth f.sel
  s.setV (some 1) f.opD (laneMask w fun i => i == s.index f && s.act f i) (broadcast w (s.val f.opA)) s

/-- VINS (R118). -/
def execVins (f : Fields) (s : State) : Host.Outcome State Fault Refusal := issue (.vins f) f (vinsEffect f) s

/-! ### Reductions -/

/-- The combination of R119 for an operator code, in the selector's width or format. -/
def redCombine (op : Nat) (f : Fields) (mode : RMode) (x y : Nat) : Nat × Flags :=
  let F := fmtOfSel f.sel
  match op with
  | 8 => FOp.add.result F mode false x y 0
  | 9 => F.minmax false false x y
  | 10 => F.minmax false true x y
  | _ => (redInt op (selWidth f.sel) x y, 0)

/-- VRED's tree (R119): halves are combined until one value is left; `k` bounds the levels. -/
def redTree (g : Nat → Nat → Nat × Flags) : Nat → List Nat → Flags → Nat × Flags
  | 0, xs, fl => (xs.headD 0, fl)
  | k + 1, xs, fl =>
    if xs.length ≤ 1 then (xs.headD 0, fl)
    else
      let h := xs.length / 2
      let ys := (xs.take h).zipWith g (xs.drop h)
      redTree g k (ys.map (·.1)) (ys.foldl (fun a y => a ||| y.2) fl)

/-- VSCAN's prefix combinations (R119) after a running value. -/
def scanFrom (g : Nat → Nat → Nat × Flags) : Nat → List Nat → List Nat × Flags
  | _, [] => ([], 0)
  | y, x :: xs =>
    let r := g y x
    let t := scanFrom g r.1 xs
    (r.1 :: t.1, r.2 ||| t.2)

/-- The operator and lane width of a reduction. -/
def redOpWidth (f : Fields) (s : State) : Nat × Nat :=
  let op := (s.val f.opB).toNat
  (op, if op < 8 then selWidth f.sel else (fmtOfSel f.sel).w)

/-- The lanes of A with the identity in place of inactive ones (R119). -/
def redLanes (f : Fields) (s : State) (x : Vec) : List Nat :=
  let (op, w) := redOpWidth f s
  (List.range (512 / w)).map fun i => if s.act f i then lane x i w else redIdentity op w (fmtOfSel f.sel)

/-- VRED (R119); its scalar is written whatever the mask. -/
def vredEffect (f : Fields) (s : State) : Eff :=
  let (op, w) := redOpWidth f s
  withSources w f.opA .lit s fun s' x _ =>
    let r := redTree (redCombine op f s.mode) 6 (redLanes f s x) 0
    match s.fpTrap r.2 with
    | some t => .trap t
    | none =>
      let s' := s'.setS none f.opD (BitVec.ofNat 64 r.1)
      .ok (if 8 ≤ op then s'.raiseFlags none r.2 else s')

/-- VRED (R119). -/
def execVred (f : Fields) (s : State) : Host.Outcome State Fault Refusal := issue (.vred f) f (vredEffect f) s

/-- VSCAN (R119). -/
def vscanEffect (f : Fields) (s : State) : Eff :=
  let (op, w) := redOpWidth f s
  withSources w f.opA .lit s fun s' x _ =>
    let xs := redLanes f s x
    let r := scanFrom (redCombine op f s.mode) (xs.headD 0) xs.tail
    let ys := xs.headD 0 :: r.1
    let y := ofLanes w fun i => (ys[i]?).getD 0
    if 8 ≤ op then fpVector s none f.opD (laneMask w (s.act f)) y r.2 s'
    else s.setV none f.opD (laneMask w (s.act f)) y s'

/-- VSCAN (R119). -/
def execVscan (f : Fields) (s : State) : Host.Outcome State Fault Refusal := issue (.vscan f) f (vscanEffect f) s

/-! ### Quantised formats -/

/-- The entry of a code table at a byte (R72). -/
def codeEntry (table : Memory) (b : Nat) : FVal := d32 (table.load (4 * b) 4)

/-- |T − x/μ| × μ for finite values, as an integer at a common exponent; none is infinite. -/
def codeDistance (t x mu : FVal) : Option (Nat × Int) :=
  match t, x, mu with
  | .fin n₁ m₁ e₁, .fin n₂ m₂ e₂, .fin _ m₃ e₃ =>
    (match exSum .rne n₁ (m₁ * m₃) (e₁ + e₃) (!n₂) m₂ e₂ with
     | .num _ m e _ => some (m, e)
     | _ => none)
  | _, _, _ => none

/-- An order on distances; no distance is the greatest. -/
def closer : Option (Nat × Int) → Option (Nat × Int) → Bool
  | none, _ => false
  | some _, none => true
  | some (a, e), some (b, e') => let k := min e e'; a * 2 ^ (e - k).toNat < b * 2 ^ (e' - k).toNat

/-- The smallest byte whose entry is best under a strict order, among entries that are no NaN. -/
def bestCode (table : Memory) (better : FVal → FVal → Bool) : Option Nat :=
  (List.range 256).foldl (fun best b =>
    let t := codeEntry table b
    if t.isNaN then best
    else match best with
      | none => some b
      | some c => if better t (codeEntry table c) then some b else best) none

/-- One element of VQNT (R121): the byte and the flags, for the FP32 encodings of x and of the block's maximum. -/
def quantise (table : Memory) (x a : Nat) : Nat × Flags :=
  let v := d32 x
  let mu := d32 (a % 2 ^ 31)
  let badMu := mu.isNaN || mu.isInf
  let nv : Flags := if badMu then fNV else 0
  let zeroY := badMu || mu.isZero
  match bestCode table (fun _ _ => false) with
  | none => (0, fNV)
  | some _ =>
    if v.isNaN then
      (((List.range 256).find? fun b => (codeEntry table b).isNaN).getD 0, fNV)
    else
      let y := if zeroY then FVal.fin false 0 0 else v
      let mu := if zeroY then FVal.fin false 1 0 else mu
      match y with
      | .inf n =>
        let b := (bestCode table fun t u => (if n then t.cmp u == some .lt else t.cmp u == some .gt)).getD 0
        (b, if codeEntry table b == .inf n then nv else nv ||| fNX)
      | y =>
        let b := (bestCode table fun t u => closer (codeDistance t y mu) (codeDistance u y mu)).getD 0
        let exact := match codeDistance (codeEntry table b) y mu with | some (0, _) => true | _ => false
        (b, if exact then nv else nv ||| fNX)

/-- VQNT (R121): bytes 16q to 16q + 15 of D, under the mask of byte lanes. -/
def vqntEffect (f : Fields) (s : State) : Eff :=
  let q := f.sel.toNat
  let a := (s.val f.opB).toNat % 2 ^ 32
  withSources 32 f.opA .lit s fun s' x _ => withDest s f.opD s' <|
    let act := fun i => s.act f i && 16 * q ≤ i && i < 16 * q + 16
    let r := flagLanes 8 act fun i => quantise s.ctx.mq8 (lane x (i - 16 * q) 32) a
    fpVector s none f.opD (laneMask 8 act) r.1 r.2 s'

/-- VQNT (R121). -/
def execVqnt (f : Fields) (s : State) : Host.Outcome State Fault Refusal := issue (.vqnt f) f (vqntEffect f) s

/-- VDQNT (R121, R72): round(T[byte] × B, FP32, RNE) in each active FP32 lane. -/
def vdqntEffect (f : Fields) (s : State) : Eff :=
  let q := f.sel.toNat
  let b := d32 ((s.val f.opB).toNat % 2 ^ 32)
  withSources 8 f.opA .lit s fun s' x _ =>
    let r := flagLanes 32 (s.act f) fun i =>
      fp32.deliver false .rne false (exMul (codeEntry s.ctx.mq8 (lane x (16 * q + i) 8)) b)
    fpVector s (some 4) f.opD (laneMask 32 (s.act f)) r.1 r.2 s'

/-- VDQNT (R121). -/
def execVdqnt (f : Fields) (s : State) : Host.Outcome State Fault Refusal := issue (.vdqnt f) f (vdqntEffect f) s

/-- VCBD: the decode of part p of a CB2 block (R120, R70). -/
def vcbdEffect (f : Fields) (s : State) : Eff :=
  let b := s.val f.opB
  let scale := bf16.decode false (b.toNat % 65536)
  let p := (b.extractLsb' 16 3).toNat
  withSources 16 f.opA .lit s fun s' x _ =>
    let r := flagLanes 16 (s.act f) fun j =>
      let i := lane x (4 * p + j / 8) 16
      bf16.deliver false s.mode s.sat (cb2Ex (s.ctx.cb2.load (4 * (i / 256)) 4) i (j % 8) scale)
    fpVector s (some 3) f.opD (laneMask 16 (s.act f)) r.1 r.2 s'

/-- VCBD (R120). -/
def execVcbd (f : Fields) (s : State) : Host.Outcome State Fault Refusal := issue (.vcbd f) f (vcbdEffect f) s

/-- VCBD.LT: 1 KiB of local store or scratchpad becomes a table (R120). -/
def vcbdLtEffect (f : Fields) (s : State) : Eff :=
  let a := s.val f.opA
  let n := a.toNat
  let inStore := n + 1024 ≤ (if s.core.k then 0x20000 else 0x1E000)
  let inSpad := 0x100000 ≤ n && n + 1024 ≤ 0x300000
  let pl := if inStore then LPlace.store else .spad
  if n % 64 != 0 then .trap (0x08, a)
  else if !inStore && !inSpad then .trap (0x05, a)
  else match s.footprint pl n 1024 false with
    | some t => .trap t
    | none =>
      if s.localBad pl n 1024 then .trap (0x11, a)
      else
        let s := s.caughtUp
        let src := if inStore then s.own else s.cl.spad
        let t := src.slice n (n + 1024)
        .ok (if s.val f.opB == 0 then { s with ctx := { s.ctx with cb2 := t } } else { s with ctx := { s.ctx with mq8 := t } })

/-- VCBD.LT (R120). -/
def execVcbdLt (f : Fields) (s : State) : Host.Outcome State Fault Refusal := issue (.vcbdLt f) f (vcbdLtEffect f) s

/-! ### Loss scaling -/

/-- LSUPD's new LSCALE, LSSTAT, KSTEP and result (R123). -/
def lsupdate (overflowed : Bool) (lscale lsstat kstep : Word) : Word × Word × Word × Word :=
  let interval := (lscale.extractLsb' 24 16).toNat
  let emax := (lscale.extractLsb' 16 8).toInt
  let emin := (lscale.extractLsb' 8 8).toInt
  let e := (lscale.extractLsb' 0 8).toInt
  let skips := (lsstat.extractLsb' 32 16).toNat
  let clean := (lsstat.extractLsb' 0 16).toNat
  let floor := lsstat.getLsbD 17
  let pack := fun (e : Int) (skips clean : Nat) (skip floor : Bool) =>
    ((lscale &&& ~~~(0xFF : Word)) ||| (BitVec.ofInt 8 e).zeroExtend 64,
      (BitVec.ofNat 64 skips <<< 32) ||| (bit01 floor <<< 17) ||| (bit01 skip <<< 16) ||| BitVec.ofNat 64 clean)
  if overflowed then
    let e' := if emin < e then e - 1 else e
    let p := pack e' (min (skips + 1) 65535) 0 true (floor || !(emin < e : Bool))
    (p.1, p.2, kstep, BitVec.ofInt 64 (e' + 127) <<< 23)
  else
    let grow := interval ≤ clean + 1
    let e' := if grow && e < emax then e + 1 else e
    let p := pack e' skips (if grow then 0 else clean + 1) false floor
    (p.1, p.2, (kstep.extractLsb' 0 32 + 1).zeroExtend 64, (1 <<< 32) ||| (BitVec.ofInt 64 (e' + 127) <<< 23))

/-- LSUPD (R123). -/
def lsupdEffect (f : Fields) (s : State) : Eff :=
  let y := s.ctx.sys
  let r := lsupdate (s.val f.opA != 0) y.lscale y.lsstat y.kstep
  let s := { s with ctx := { s.ctx with sys := { y with lscale := r.1, lsstat := r.2.1, kstep := r.2.2.1 } } }
  .ok (s.setS none f.opD r.2.2.2)

/-- LSUPD (R123). -/
def execLsupd (f : Fields) (s : State) : Host.Outcome State Fault Refusal := issue (.lsupd f) f (lsupdEffect f) s

end Sys2Proof.Machine
end

