-- ==== Sys2Proof/Machine/Kiln.lean ====
section
/-! DEFINITION. The Kiln (chapters 7 and 8): issue of commands with their data traps (R138, R139), the scheduler's steps
(R147, R148, R151, R153, R170 to R177), and the joins and register instructions (R158 to R162, R185 to R187). -/

namespace Sys2Proof.Machine

/-! ### Operands at issue -/

/-- The intervals of a 16n-element operand of `rows` rows, in row order (R138). -/
def rowSpans (h : TileHeader) (rows n : Nat) : List (Nat × Nat) :=
  let e := tileElem h.fmt
  let st := 16 * h.stride.toNat
  let a := h.addr.toNat
  let k := 16 * n
  (List.range rows).flatMap fun r =>
    if h.t then (List.range k).map fun j => (a + j * st + r * e, e)
    else (a + r * st, k * e) :: (if isMX h.fmt then [(a + r * st + scaleOffset k, (k + 31) / 32)] else [])

/-- The first byte of intervals that lies outside a range. -/
def firstOutside (lo hi : Nat) : List (Nat × Nat) → Option Nat
  | [] => none
  | (a, n) :: rest =>
    if a < lo || hi ≤ a then some a
    else if hi < a + n then some hi
    else firstOutside lo hi rest

/-- The first byte of each 4 KiB piece that intervals touch, in order, one for each piece. -/
def pieces (spans : List (Nat × Nat)) : List (Nat × Word) :=
  spans.foldl (fun acc x => (List.range ((x.1 % 4096 + x.2 + 4095) / 4096)).foldl (fun acc i =>
    let p := x.1 / 4096 + i
    if acc.any (·.1 == p) then acc else acc ++ [(p, BitVec.ofNat 64 (max x.1 (4096 * p)))]) acc) []

/-- The translation of an operand's pieces: raw pages or pages of the header's format only (R138). -/
def State.kilnPages (s : State) (fmt : BitVec 5) : List (Nat × Word) → Except Trap (List (Nat × Nat) × List Kept)
  | [] => .ok ([], [])
  | (p, va) :: rest =>
    match s.translate s.me .read va with
    | .error t => .error t
    | .ok (pg, ks) =>
      if pg.fmt != 0x1F && pg.fmt != fmt then .error (0x07, va)
      else match s.kilnPages fmt rest with
        | .error t => .error t
        | .ok (ps, ks') => .ok ((p, pg.pa / 4096 * 4096) :: ps, ks ++ ks')

/-- The data traps of an operand (R138): alignment, the range of a local one, and the translation of a global one. -/
def State.operandPages (s : State) (h : TileHeader) (spans : List (Nat × Nat)) :
    Except Trap (List (Nat × Nat) × List Kept) :=
  if h.addr.toNat % 16 != 0 then .error (0x08, h.addr.zeroExtend 64)
  else if h.space == 2 then s.kilnPages h.fmt (pieces spans)
  else
    let lo := if h.space == 0 then 0 else 0x100000
    let hi := if h.space == 0 then (if s.core.k then 0x20000 else 0x1E000) else 0x300000
    match firstOutside lo hi spans with
    | some a => .error (0x05, BitVec.ofNat 64 a)
    | none => .ok ([], [])

/-- A command with what it captures at issue (R156, R178). -/
def State.command (s : State) (op : KilnOp) (header bspec : Word) (d : Nat) (cb : Bool) (pages : List (Nat × Nat)) : KilnCmd :=
  let y := s.ctx.sys
  { arr := s.cl.arrivals, core := s.core.idx, op, header, bspec, d, cb, top := s.top, zth := y.kzth, sat := s.ctx.tiles.cfg.getLsbD 0
    seed := y.kseed0, step := y.kstep, tc := y.ktc, vlim := y.kvlim.extractLsb' 0 32, vfloor := y.kvfloor.extractLsb' 0 32
    table := if op = .ldb then s.ctx.cb2 else [], pages, started := false, src := [], bad := [], ecode := 0, norms := []
    case := none, plan := [], granted := 0, done := 0, ends := [], before := [], nx := 0, draws := 0, var := 0, flags := 0 }

/-- A command enters its core's queue (R147). -/
def State.enterQueue (c : KilnCmd) (s : State) : State :=
  { s with core := { s.core with kq := s.core.kq ++ [c] }, cl := { s.cl with arrivals := s.cl.arrivals + 1 } }

/-- The issue of a command with an operand: it is held while the queue is full (R147) or a home is not ready (R14). -/
def kilnIssue (h : TileHeader) (spans : List (Nat × Nat)) (mk : State → List (Nat × Nat) → KilnCmd) (s : State) : Eff :=
  if 16 ≤ s.core.kq.length then .hold s
  else match s.operandPages h spans with
    | .error t => .trap t
    | .ok (ps, ks) =>
      match s.homes (ps.map fun p => (BitVec.ofNat 64 (max (4096 * p.1) h.addr.toNat), p.2)) with
      | some none => .hold s
      | some (some t) => .trap t
      | none => .ok ((s.keep ks).enterQueue (mk s ps))

/-- KLDB (R139, R155). -/
def kldbEffect (f : Fields) (s : State) : Eff :=
  let x := s.val f.opA
  let b := s.val f.opD
  let h := tileHeader x
  kilnIssue h (loadSpans h (bSpec b).n) (fun s ps => s.command .ldb x b 0 false ps) s

/-- KLDB (R155). -/
def execKldb (f : Fields) (s : State) : Host.Outcome State Fault Refusal := issue (.kldb f) f (kldbEffect f) s

/-- KMUL (R156). -/
def kmulEffect (f : Fields) (s : State) : Eff :=
  let x := s.val f.opA
  let b := s.val f.opB
  let h := tileHeader x
  kilnIssue h (rowSpans h 16 (bSpec b).n) (fun s ps => s.command .mul x b (accNum f.opD) (f.sel == 1) ps) s

/-- KMUL (R156). -/
def execKmul (f : Fields) (s : State) : Host.Outcome State Fault Refusal := issue (.kmul f) f (kmulEffect f) s

/-- KMULB (R157): the rows of its b tiles in one layout of K = 16. -/
def kmulbEffect (f : Fields) (s : State) : Eff :=
  let x := s.val f.opA
  let b := s.val f.opB
  let h := tileHeader x
  kilnIssue h (rowSpans h (16 * (bSpec b).n) 1) (fun s ps => s.command .mulb x b (accNum f.opD) (f.sel == 1) ps) s

/-- KMULB (R157). -/
def execKmulb (f : Fields) (s : State) : Host.Outcome State Fault Refusal := issue (.kmulb f) f (kmulbEffect f) s

/-- KZERO (R159): the mask is kept in `d`. -/
def kzeroEffect (f : Fields) (s : State) : Eff :=
  if 16 ≤ s.core.kq.length then .hold s
  else .ok (s.enterQueue (s.command .zero 0 0 (s.val f.opA).toNat false []))

/-- KZERO (R159). -/
def execKzero (f : Fields) (s : State) : Host.Outcome State Fault Refusal := issue (.kzero f) f (kzeroEffect f) s

/-- KNORM (R183): the slice count is kept in `d`. -/
def knormEffect (f : Fields) (s : State) : Eff :=
  let x := s.val f.opA
  let n := (s.val f.opB).toNat
  let h := tileHeader x
  kilnIssue h (rowSpans h 16 n) (fun s ps => s.command .norm x 0 n false ps) s

/-- KNORM (R183). -/
def execKnorm (f : Fields) (s : State) : Host.Outcome State Fault Refusal := issue (.knorm f) f (knormEffect f) s

/-- KNORM.REL (R183): the slot is kept in `d`. -/
def knormRelEffect (f : Fields) (s : State) : Eff :=
  if 16 ≤ s.core.kq.length then .hold s
  else .ok (s.enterQueue (s.command .normRel 0 0 (s.val f.opA).toNat false []))

/-- KNORM.REL (R183). -/
def execKnormRel (f : Fields) (s : State) : Host.Outcome State Fault Refusal := issue (.knormRel f) f (knormRelEffect f) s

/-- The norm slot that a command writes or reads. -/
def KilnCmd.slot (c : KilnCmd) : Nat :=
  match c.op with
  | .norm | .est => (tileHeader c.header).slot.toNat
  | .normRel => c.d
  | _ => 0

/-- The registration of a slot as of now: by the latest KNORM or KNORM.REL in the queue, else by the slot (R183). -/
def State.registration (s : State) (j : Nat) : Option (Word × Nat) :=
  match (s.core.kq.filter fun c => (c.op == .norm || c.op == .normRel) && c.slot == j).getLast? with
  | some c => if c.op = .norm then some (c.header, c.d) else none
  | none => (vget s.ctx.tiles.norm j none).map fun z => (z.header, z.n)

/-- A header names the region that a slot registered, for n slices (R184). -/
def sameRegion (h : TileHeader) (n : Nat) (z : Word × Nat) : Bool :=
  let g := tileHeader z.1
  h.t == g.t && h.fmt == g.fmt && h.stride == g.stride && h.addr == g.addr && n ≤ z.2

/-- KEST (R184). -/
def kestEffect (f : Fields) (s : State) : Eff :=
  let x := s.val f.opA
  let b := s.val f.opB
  let h := tileHeader x
  let ok := h.slot == 0 || (s.registration h.slot.toNat).any (sameRegion h (bSpec b).n)
  if !ok then .trap (0x02, encodingVal 4 0x211)
  else kilnIssue h (rowSpans h 16 (bSpec b).n) (fun s ps => s.command .est x b (accNum f.opD) (f.sel == 1) ps) s

/-- KEST (R184). -/
def execKest (f : Fields) (s : State) : Host.Outcome State Fault Refusal := issue (.kest f) f (kestEffect f) s

/-! ### Joins and registers -/

/-- A join does not issue until every earlier command of its core has completed (R158). -/
def joined (s : State) (k : Eff) : Eff := if s.core.kq.isEmpty then k else .hold s

/-- The address of chunk k of tile t in the accumulators (R158). -/
def chunkAt (t : Nat) (b : Word) : Nat := 1024 * t + 64 * (b.toNat % 16)

/-- The accumulators replaced. -/
def State.setAcc (m : Memory) (s : State) : State := { s with ctx := { s.ctx with tiles := { s.ctx.tiles with acc := m } } }

/-- A chunk that holds an uncorrectable error raises trap 0x11 (R207). -/
def chunkSound (a : Nat) (s : State) (k : Eff) : Eff :=
  if s.core.badAcc.contains (a / 64) then .trap (0x11, 0x4000000000000000 + BitVec.ofNat 64 (a / 64)) else k

/-- Chunks of the accumulators are written whole. -/
def State.healAcc (p : Nat → Bool) (s : State) : State :=
  { s with core := { s.core with badAcc := s.core.badAcc.filter fun x => !p x } }

/-- KMOV.R (R158). -/
def kmovREffect (f : Fields) (s : State) : Eff := joined s <|
  let a := chunkAt (accNum f.opA) (s.val f.opB)
  chunkSound a s <| s.setV none f.opD (BitVec.allOnes 512) (s.ctx.tiles.acc.vec a) s

/-- KMOV.R (R158). -/
def execKmovR (f : Fields) (s : State) : Host.Outcome State Fault Refusal := issue (.kmovR f) f (kmovREffect f) s

/-- KMOV.W (R158). -/
def kmovWEffect (f : Fields) (s : State) : Eff := joined s <|
  let a := chunkAt (accNum f.opD) (s.val f.opB)
  .ok ((s.setAcc (s.ctx.tiles.acc.store a 64 (s.vold f.opA).toNat)).healAcc (· == a / 64))

/-- KMOV.W (R158). -/
def execKmovW (f : Fields) (s : State) : Host.Outcome State Fault Refusal := issue (.kmovW f) f (kmovWEffect f) s

/-- KMOV.RZ (R158): the chunk is read and zeroed as one effect. -/
def kmovRzEffect (f : Fields) (s : State) : Eff := joined s <|
  let a := chunkAt (accNum f.opA) (s.val f.opB)
  chunkSound a s <| s.setV none f.opD (BitVec.allOnes 512) (s.ctx.tiles.acc.vec a) (s.setAcc (s.ctx.tiles.acc.store a 64 0))

/-- KMOV.RZ (R158). -/
def execKmovRz (f : Fields) (s : State) : Host.Outcome State Fault Refusal := issue (.kmovRz f) f (kmovRzEffect f) s

/-- KCFG (R160). -/
def execKcfg (f : Fields) (s : State) : Host.Outcome State Fault Refusal :=
  issue (.kcfg f) f (fun s =>
    .ok { s with ctx := { s.ctx with tiles := { s.ctx.tiles with cfg := (s.val f.opA).extractLsb' 0 2 } } }) s

/-- The Kiln status word (Table 7-5). -/
def State.kilnStatus (s : State) : Word := s.ctx.tiles.status ||| BitVec.ofNat 64 s.core.kq.length

/-- KSTAT (R161). -/
def execKstat (f : Fields) (s : State) : Host.Outcome State Fault Refusal :=
  issue (.kstat f) f (fun s => .ok (s.setS (some 1) f.opD s.kilnStatus)) s

/-- KSTAT.J (R161). -/
def execKstatJ (f : Fields) (s : State) : Host.Outcome State Fault Refusal :=
  issue (.kstatJ f) f (fun s => joined s <| .ok (s.setS none f.opD s.kilnStatus)) s

/-- KSTAT.JC (R161): bits 15:8 and ESTAT are cleared after the read. -/
def kstatJcEffect (f : Fields) (s : State) : Eff := joined s <|
  let t := s.setS none f.opD s.kilnStatus
  .ok { t with ctx := { t.ctx with tiles := { t.ctx.tiles with status := s.ctx.tiles.status &&& 0xFFFFFFFF000000FF } } }

/-- KSTAT.JC (R161). -/
def execKstatJc (f : Fields) (s : State) : Host.Outcome State Fault Refusal := issue (.kstatJc f) f (kstatJcEffect f) s

/-- KSYNC (R162). -/
def execKsync (f : Fields) (s : State) : Host.Outcome State Fault Refusal :=
  issue (.ksync f) f (fun s => joined s (.ok s)) s

/-- KEVAR (R185). -/
def execKevar (f : Fields) (s : State) : Host.Outcome State Fault Refusal :=
  issue (.kevar f) f (fun s => joined s <| .ok (s.setS none f.opD (vget s.ctx.tiles.var (accNum f.opA) 0))) s

/-- KSEED (R186). -/
def execKseed (f : Fields) (s : State) : Host.Outcome State Fault Refusal :=
  issue (.kseed f) f (fun s =>
    .ok { s with ctx := { s.ctx with sys := { s.ctx.sys with kseed0 := s.val f.opA, ktc := s.val f.opB } } }) s

/-- KSEED.TC (R186). -/
def execKseedTc (f : Fields) (s : State) : Host.Outcome State Fault Refusal :=
  issue (.kseedTc f) f (fun s => .ok { s with ctx := { s.ctx with sys := { s.ctx.sys with ktc := s.val f.opA } } }) s

/-- KLIM (R187). -/
def execKlim (f : Fields) (s : State) : Host.Outcome State Fault Refusal :=
  issue (.klim f) f (fun s =>
    .ok { s with ctx := { s.ctx with sys := { s.ctx.sys with kvlim := s.val f.opA, kvfloor := s.val f.opB } } }) s

/-! ### The scheduler -/

/-- The panels that a command names, and their size. -/
def KilnCmd.panels (c : KilnCmd) : List Nat × Nat :=
  let h := tileHeader c.header
  let b := bSpec c.bspec
  match c.op with
  | .ldb => (panelsOf b (panelSize h.fmt), panelSize h.fmt)
  | .mul | .mulb | .est => (panelsOf b (pairSize h.fmt c.cb), pairSize h.fmt c.cb)
  | _ => ([], 128)

/-- The cells of the panels that a command names. -/
def KilnCmd.cells (c : KilnCmd) : List Nat := c.panels.1.flatMap fun p => panelCells p c.panels.2

/-- The accumulator of a command. -/
def KilnCmd.kind (c : KilnCmd) : AccumKind := accKind (tileHeader c.header).fmt

/-- The tiles that one product of the command writes. -/
def KilnCmd.width (c : KilnCmd) : Nat := if c.kind = .fp32 then 1 else 2

/-- The accumulator tiles that a command writes. -/
def KilnCmd.tiles (c : KilnCmd) : List Nat :=
  match c.op with
  | .mul | .est => (List.range c.width).map fun i => c.d + i
  | .mulb => (List.range ((bSpec c.bspec).n * c.width)).map fun i => c.d + i
  | .zero => (List.range 16).filter fun t => c.d.testBit t
  | _ => []

/-- Two commands conflict, the first being earlier (R148): panels, or of one core its accumulator tiles or norm slots. -/
def KilnCmd.conflicts (a b : KilnCmd) : Bool :=
  ((a.op == .ldb || b.op == .ldb) && a.cells.any b.cells.contains) || (a.core == b.core && (a.tiles.any b.tiles.contains ||
    (a.slot != 0 && a.slot == b.slot && !(a.op == .est && b.op == .est))))

/-- A copy job writes bytes that a command reads (R148). -/
def jobMeets (j : Job) (c : KilnCmd) : Bool :=
  (jobSpans j).any fun x => x.2.2.2.2 && (x.1 == .spad || x.2.1 == c.core) && c.touches x.1 x.2.2.1 x.2.2.2.1

/-- The commands of the cluster that have not completed. -/
def State.kilnCmds (s : State) : List KilnCmd := s.core.kq ++ s.cl.others

/-- Every command and job that arrived before a command and conflicts with it has completed, and no refresh blocks its pages (R148,
R206). -/
def State.mayStart (s : State) (c : KilnCmd) : Bool :=
  !c.started && s.cl.gear.handover.isNone && s.kilnCmds.all (fun e => c.arr ≤ e.arr || !e.conflicts c) &&
    s.cl.jobs.all (fun j => j.stampDone || c.arr < j.arr || !jobMeets j c) && !s.refreshHolds (c.pages.map (·.2))

/-- The `k`-th command of the queue may start (R148). -/
def State.startable (s : State) (k : Nat) : Bool := (s.core.kq[k]?).any s.mayStart

/-- The bytes that a command reads (R149) and those of them that are uncorrectable (R153). -/
def State.kilnSource (s : State) (c : KilnCmd) : Memory × List Nat :=
  let h := tileHeader c.header
  if h.space == 2 then
    let one := fun (acc : Memory × List Nat) (va : Nat) =>
      match c.pages.find? (·.1 == va / 4096) with
      | some p =>
        let pa := p.2 + va % 4096
        (acc.1.write va (s.pkg.mem.read pa), if s.poisoned pa 1 then va :: acc.2 else acc.2)
      | none => acc
    c.reads.foldl (fun acc x => (List.range x.2).foldl (fun acc i => one acc (x.1 + i)) acc) ([], [])
  else
    let owner := if h.space == 0 then c.core else 8
    let bad := (s.cl.bad.filter (·.1 == owner)).flatMap fun g => (List.range 8).map fun i => g.2 + i
    (if h.space == 0 then vget s.cl.stores c.core [] else s.cl.spad, bad.filter fun a => c.reads.any (spanMeets a 1))

/-- One command of the queue replaced. -/
def State.setCmd (k : Nat) (c : KilnCmd) (s : State) : State := { s with core := { s.core with kq := s.core.kq.set k c } }

/-- A norm slot replaced. -/
def State.setNorm (j : Nat) (z : Option NormSlot) (s : State) : State :=
  { s with ctx := { s.ctx with tiles := { s.ctx.tiles with norm := vset s.ctx.tiles.norm j z } } }

/-- The norms of A and the stale bits that a `KEST` reads with its bytes (R170). -/
def State.estNorms (s : State) (c : KilnCmd) (src : Memory) : List (Nat × Bool) :=
  let h := tileHeader c.header
  let n := (bSpec c.bspec).n
  match (if h.slot == 0 then none else vget s.ctx.tiles.norm h.slot.toNat none) with
  | some z => (List.range n).map fun i =>
      (sliceNorm h.valid.toNat c.zth ((z.table.drop (16 * i)).take 16), z.stale.getLsbD i)
  | none => (List.range n).map fun i =>
      (sliceNorm h.valid.toNat c.zth (segments (aBlock h h.addr.toNat n src c.top i)), false)

/-- The norm slot that a `KNORM` registers over the bytes it read (R183). DESIGN CHOICE (log entry 59): so also where some of them are
uncorrectable; ECODE 3 says so. -/
def KilnCmd.registers (c : KilnCmd) (src : Memory) (stale : BitVec 128) : NormSlot :=
  let h := tileHeader c.header
  { header := c.header, n := c.d, top := c.top, stale
    table := (List.range c.d).flatMap fun i => segments (aBlock h h.addr.toNat c.d src c.top i) }

/-- A command starts (R148): it reads its bytes, checks its tags (R153), and a `KNORM` fills its slot, a `KNORM.REL` empties
it. Earlier stores and pushes of the core are visible (R149). DESIGN CHOICE (log entry 59): a product that fails its tag check reads no
operand, so that its ECODE is the tag's and no uncorrectable byte of it is reported. -/
def State.beginCmd (k : Nat) (s : State) : State :=
  match s.core.kq[k]? with
  | none => s
  | some c =>
    let s := if (tileHeader c.header).space == 2 then s.published else s.caughtUp
    let h := tileHeader c.header
    let n := (bSpec c.bspec).n
    let r := s.kilnSource c
    let product := c.op == .mul || c.op == .mulb || c.op == .est
    let tag := if product then s.cl.tagCheck h.fmt c.cb c.panels.1 else 0
    let spoiled := product && (c.cells.any s.cl.badCells.contains || s.core.badAcc.any fun x => c.tiles.contains (x / 16))
    let ecode := if tag != 0 then tag else if r.2.isEmpty && !spoiled then 0 else 3
    let s := if spoiled then
        { s with cl := { s.cl with
          tags := s.cl.tags.filter fun t => !(c.cells.contains t.1 && s.cl.badCells.contains t.1) } }
      else s
    let plan := if (c.op == .mul || c.op == .mulb) && ecode = 0 then exactPasses (List.range n) else []
    let norms := if c.op = .est then s.estNorms c r.1 else []
    let s := match c.op with
      | .norm => s.setNorm c.slot (some (c.registers r.1 0))
      | .normRel => s.setNorm c.slot none
      | _ => s
    s.setCmd k { c with started := true, src := r.1, bad := r.2, ecode, plan, norms }

/-- The 8-byte units that intervals touch. -/
def unitsOf (xs : List (Nat × Nat)) : List Nat :=
  xs.flatMap fun x => (List.range ((x.1 % 8 + x.2 + 7) / 8)).map (x.1 / 8 + ·)

/-- The undecided units of a started command that `now` holds otherwise than the command has read them (R224). -/
def KilnCmd.changed (c : KilnCmd) (now : Memory × List Nat) : List Nat :=
  ((unitsOf c.openReads).filter fun u =>
    (now.1.load (8 * u) 8 != c.src.load (8 * u) 8 || now.2.any (fun a => a / 8 == u && !c.bad.contains a)) &&
      !c.takenReads.any (spanMeets (8 * u) 8)).eraseDups

/-- A started command with some units read anew (R149, R224); an uncorrectable byte among them is its error (R153). -/
def KilnCmd.takes (c : KilnCmd) (us : List Nat) (now : Memory × List Nat) : KilnCmd :=
  let bad := now.2.filter (fun a => us.contains (a / 8)) ++ c.bad
  let src := us.foldl (fun m u => m.store (8 * u) 8 (now.1.load (8 * u) 8)) c.src
  if bad.isEmpty then { c with src }
  else { c with src, bad, ecode := if c.ecode = 0 then 3 else c.ecode, plan := c.plan.take c.granted }

/-- A slice of a command meets one of some units. -/
def KilnCmd.sliceIn (c : KilnCmd) (n i : Nat) (us : List Nat) : Bool :=
  us.any fun u => (sliceSpans (tileHeader c.header) n i).any (spanMeets (8 * u) 8)

/-- Another agent has written into the undecided bytes of a started command: each unit is taken as it is now or stays (R149, R224), and
with the unit its staleness (R169, R170). -/
def State.rereadCmd (k : Nat) (s : State) : State :=
  match s.core.kq[k]? with
  | none => s
  | some c =>
    let now := s.kilnSource c
    let us := c.changed now
    let new := us.filter fun u => Config.readNew s.tick u
    let old := us.filter fun u => !Config.readNew s.tick u
    let c' := c.takes new now
    match c.op with
    | .est =>
      let norms := (c.norms.zip (s.estNorms c' c'.src)).zipIdx.map fun x =>
        if c.sliceIn (bSpec c.bspec).n x.2 new then x.1.2 else x.1.1
      s.setCmd k { c' with norms }
    | .norm =>
      let stale := match vget s.ctx.tiles.norm c.slot none with | some z => z.stale | none => 0
      let stale := (List.range c.d).foldl (fun m i => if c.sliceIn c.d i old then m else m &&& ~~~((1 : BitVec 128) <<< i)) stale
      (s.setNorm c.slot (some (c'.registers c'.src stale))).setCmd k c'
    | _ => s.setCmd k c'

/-- A command that may start does; one that has started reads anew what it has not decided. -/
def State.startCmd (k : Nat) (s : State) : State :=
  if s.startable k then s.beginCmd k
  else if (s.core.kq[k]?).any (·.started) then s.rereadCmd k
  else s

/-- A `KEST` has started and not yet chosen (R171). -/
def KilnCmd.chooses (c : KilnCmd) : Bool := c.op == .est && c.started && c.ecode == 0 && c.case.isNone

/-- A `KEST` chooses its exact slices, its case and its draws (R171, R172). -/
def State.selectEst (s : State) : State :=
  match s.core.kq.findIdx? (·.chooses) with
  | none => s
  | some k => match s.core.kq[k]? with
    | none => s
    | some c =>
      let b := bSpec c.bspec
      let z := c.panels.2
      let nb := c.panels.1.map fun p => s.cl.snaps.load (4 * firstCell p z) 4
      let r := selectSlices b.n b.m c.norms nb (estGen c.seed c.step c.tc)
      let v := match r.case with | .recompute 2 => fp32.canonNaN false | .recompute _ => 0x7F800000 | _ => 0
      s.setCmd k { c with
        case := some r.case, plan := r.plan, nx := r.nx, draws := r.draws, var := BitVec.ofNat 32 v
        before := s.ctx.tiles.acc.slice (1024 * c.d) (1024 * c.d + 1024) }

/-- The slice sums of one pass, and the status bits. -/
def State.passSums (s : State) (c : KilnCmd) (i : Nat) : List Sum × Word :=
  let h := tileHeader c.header
  let p := (c.panels.1[i]?).getD 0
  let a := if c.op = .mulb then
      aBlock h (h.addr.toNat + (if h.t then 16 * i * tileElem h.fmt else 16 * i * (16 * h.stride.toNat))) 1 c.src c.top 0
    else aBlock h h.addr.toNat (bSpec c.bspec).n c.src c.top i
  blockSums h c.zth c.kind a (s.cl.block p c.panels.2)

/-- The sums of a draw weighted (R173), and the status bits. -/
def weighAll (draws dc : Nat) (xs : List Sum) : List Sum × Word :=
  let ys := xs.map (weigh draws dc)
  (ys.map (·.1), ys.foldl (fun f y => f ||| y.2) 0)

/-- After the last draw: V, and the test of R175; an estimate that fails is computed exactly (R174, R175). -/
def State.judge (c : KilnCmd) (s : State) : State × KilnCmd :=
  if c.case = some .draw && c.done = c.plan.length then
    let ds := c.plan.filterMap fun p => p.dc.map fun dc => ((s.passSums c p.slice).1, dc)
    let v := variance ds
    let c := { c with var := BitVec.ofNat 32 v }
    if varianceOk c.vlim.toNat c.vfloor.toNat v (accRead s.ctx.tiles.acc .fp32 c.d) then (s, c)
    else (s.setAcc (Memory.copy s.ctx.tiles.acc (1024 * c.d) c.before 0 1024),
      { c with case := some (.recompute 1), plan := exactPasses (List.range (bSpec c.bspec).n), granted := 0, done := 0, ends := [] })
  else (s, c)

/-- A queue has a pass that can start (R151): the core's own, or another that has said so. -/
def State.queueReady (s : State) (i : Nat) : Bool := if i = s.core.idx then s.passReady else s.cl.arb.wants.getLsbD i

/-- The arbiter with every credit refilled where budget remains and no queue with a startable pass has one (R351). -/
def State.arbiterNow (s : State) : Arbiter :=
  let a := s.arbiter
  let waiting := (List.range 8).filter s.queueReady
  if s.capped && !waiting.isEmpty && waiting.all (fun i => vget a.credits i 0 == 0) then
    { a with credits := refilled 1 s.powerWeights a.credits }
  else a

/-- The most passes that a turn of queue `i` starts (R151, R351). -/
def State.turnLimit (s : State) (i : Nat) : Nat :=
  let w := max 1 ((s.kwgtOf i).extractLsb' 0 4).toNat
  if s.capped then min w (vget s.arbiterNow.credits i 0) else w

/-- The queue that starts the next pass (R151): the one in its turn, else the next in the round that can start one. -/
def State.nextQueue (s : State) : Option Nat :=
  let a := s.cl.arb
  let round := (List.range 8).map fun k => (a.turn + 1 + k) % 8
  ((if a.left = 0 then round else a.turn :: round).filter s.queueReady).find? fun i => 0 < s.turnLimit i

/-- Queue `i` may start a pass in a macro: the round has come to it, the macro is free, and the budget lets it (R136, R151, R350). -/
def State.passMayStart (s : State) (i m : Nat) (f64 : Bool) : Bool :=
  s.nextQueue == some i && s.macroFree m f64 && !s.overBudget && !s.shifting

/-- The turn of the queue that has it ends where that queue's next pass cannot start in this cycle (R151). -/
def State.endTurn (s : State) : State :=
  if s.queueReady s.cl.arb.turn then s else { s with cl := { s.cl with arb := { s.cl.arb with left := 0 } } }

/-- A pass of queue `i` starts in a macro (R136, R151, R350, R351). -/
def State.startPass (i m : Nat) (f64 : Bool) (cycles : Nat) (s : State) : State :=
  let a := s.arbiterNow
  let left := (if a.turn = i && a.left != 0 then a.left else s.turnLimit i) - 1
  let credits := if s.capped then vset a.credits i (vget a.credits i 0 - 1) else a.credits
  { s with cl := { s.cl with arb := { a with
    count := a.count + 1
    starts := a.starts + 1
    turn := i
    left
    credits
    flying := (m, f64, s.core.cyc + cycles) :: a.flying.filter fun x => s.core.cyc < x.2.2 } } }

/-- The arbiter starts the next pass of the core's queue (R136, R151), within the budget and the credits of R350 and R351. -/
def State.grantPass (s : State) : State :=
  match s.nextPass with
  | none => s
  | some (k, c, m) =>
    if s.passMayStart s.core.idx m c.isF64 then
      ((s.startPass s.core.idx m c.isF64 c.passCycles).setCmd k
        { c with granted := c.granted + 1, ends := c.ends ++ [s.core.cyc + c.passCycles] }).endTurn
    else s

/-- A window of 64 arithmetic cycles ends (R350, R351). -/
def State.budgetWindow (s : State) : State := { s with cl := { s.cl with arb := s.arbiter } }

/-- The pass cycles of a command's oldest pass in flight have passed (R136). -/
def KilnCmd.passOver (c : KilnCmd) (now : Nat) : Bool := c.done < c.granted && c.ends.head?.any (· ≤ now)

/-- A granted pass finishes: its sums are added in order (R136, R141, R143, R173). -/
def State.finishPass (s : State) : State :=
  match s.core.kq.findIdx? fun c => c.passOver s.core.cyc with
  | none => s
  | some k => match s.core.kq[k]? with
    | none => s
    | some c => match c.plan[c.done]? with
      | none => s
      | some p =>
        let x := s.passSums c p.slice
        let y := match p.dc with | some dc => weighAll c.draws dc x.1 | none => (x.1, 0)
        let d := if c.op = .mulb then c.d + p.slice * c.width else c.d
        let r := addSums s.ctx.tiles.acc c.kind c.sat d y.1
        let j := (s.setAcc r.1).judge { c with done := c.done + 1, ends := c.ends.tail, flags := c.flags ||| x.2 ||| y.2 ||| r.2 }
        j.1.setCmd k j.2

/-- The intervals of panel i of a `KLDB` source (R139). -/
def panelSpans (h : TileHeader) (c i : Nat) : List (Nat × Nat) :=
  let e := tileElem h.fmt
  let st := 16 * h.stride.toNat
  let a := h.addr.toNat
  if h.fmt == 0x10 then [(a + i * st, 66)]
  else if h.t then (List.range 16).flatMap fun col =>
    (a + col * st + 16 * i * e, 16 * e) :: (if isMX h.fmt then [(a + col * st + scaleOffset (16 * c) + i / 2, 1)] else [])
  else (List.range 16).map fun k => (a + (16 * i + k) * st, 16 * e)

/-- The bytes of panel i as the B store holds them at byte `q` (R134, R139); rows at or above the valid count are zeros. -/
def loadPanel (h : TileHeader) (c i q : Nat) (src table b : Memory) : Memory :=
  let e := tileElem h.fmt
  let st := 16 * h.stride.toNat
  let a := h.addr.toNat
  let v := h.valid.toNat
  let side := 0x20000 + q
  if h.fmt == 0x10 then
    let b := Memory.copy b q src (a + i * st) 66
    let b := b.write (q + 66) (BitVec.ofNat 8 v)
    (List.range 32).foldl (fun b j =>
      Memory.copy b (side + 4 * j) table (4 * (src.read (a + i * st + 2 * j + 1)).toNat) 4) b
  else
    let b := (List.range 256).foldl (fun b x =>
      let k := x / 16
      let col := x % 16
      let at' := if h.t then a + col * st + (16 * i + k) * e else a + (16 * i + k) * st + col * e
      b.store (q + x * e) e (if k < v then src.load at' e else 0)) b
    if isMX h.fmt then
      ((List.range 16).foldl (fun b col => b.write (side + col) (src.read (a + col * st + scaleOffset (16 * c) + i / 2))) b).write
        (side + 16) (BitVec.ofNat 8 v)
    else b

/-- Panel i of a `KLDB` enters the B store with its tags and its norm snapshot, or its cells lose their tags (R153, R155,
R167). A CB2 weight that is 0 × ∞, or whose scale is signalling, sets NV (R60, R140). -/
def KilnCmd.install (c : KilnCmd) (cl : Cluster) (i p : Nat) : Cluster × Word :=
  let h := tileHeader c.header
  let n := (bSpec c.bspec).n
  let z := panelSize h.fmt
  let q := 128 * firstCell p z
  let cells := panelCells p z
  let others := cl.tags.filter fun t => !cells.contains t.1
  if (panelSpans h n i).any fun x => c.bad.any fun a => spanMeets a 1 x then ({ cl with tags := others }, 0)
  else
    let tag : CellTag := ⟨h.fmt, c.top, sizeCode z⟩
    let b := loadPanel h n i q c.src c.table cl.bstore
    let blk := bBlock b q tag
    let nv := h.fmt == 0x10 && (List.range 256).any fun x => x / 16 < h.valid.toNat &&
      cb2Invalid (b.load (0x20000 + q + 4 * (x / 8)) 4) (b.load (q + 2 * (x / 8)) 2) (x % 8)
        (bf16.decode false (b.load (q + 64) 2))
    ({ cl with
        bstore := b
        badCells := cl.badCells.filter fun x => !cells.contains x
        tags := cells.map (fun x => (x, tag)) ++ others
        snaps := cl.snaps.store (4 * firstCell p z) 4 (panelNorm blk) }, if nv then kNV else 0)

/-- The variance word of Table 8-3 for a `KEST` that completes (R176). -/
def KilnCmd.varWord (c : KilnCmd) : Word :=
  if c.ecode = 3 then (1 <<< 55) ||| 0x7FC00000
  else
    let full := match c.case with | some .covered | some .exactAll => true | _ => false
    let cause := match c.case with | some (.recompute k) => k | _ => 0
    (1 <<< 55) ||| (bit01 full <<< 54) ||| (BitVec.ofNat 64 cause <<< 52) ||| (BitVec.ofNat 64 c.nx <<< 40) |||
      (BitVec.ofNat 64 c.draws <<< 32) ||| c.var.zeroExtend 64

/-- The ESTAT bits of a `KEST` that completes (R177). -/
def KilnCmd.estat (c : KilnCmd) : Word :=
  if c.ecode != 0 then 0
  else
    (if c.norms.any (·.2) then 0x100000 else 0) ||| (match c.case with
      | some .covered => 0x200000
      | some (.recompute 1) => 0x30000
      | some (.recompute 2) => 0x50000
      | some (.recompute _) => 0x90000
      | _ => 0)

/-- The Kiln status after a command with an error code: only the first error is kept (R153). -/
def statusAfter (st flags : Word) (ecode : Nat) : Word :=
  let st := st ||| flags
  if ecode = 0 then st
  else if st.getLsbD 12 then st
  else st ||| (1 <<< 12) ||| (BitVec.ofNat 64 ecode <<< 13)

/-- The uncorrectable granules that a command met: their physical addresses, or those in the local window (R406). -/
def KilnCmd.badGranules (c : KilnCmd) : List Nat :=
  (c.bad.map fun a =>
    if (tileHeader c.header).space == 2 then
      match c.pages.find? (·.1 == a / 4096) with
      | some p => (p.2 + a % 4096) / granule p.2 * granule p.2
      | none => a
    else a / 8 * 8).eraseDups

/-- The `k`-th command may complete. -/
def State.completable (s : State) (k : Nat) : Bool :=
  match s.core.kq[k]? with
  | none => false
  | some c => c.started && c.done = c.plan.length && !c.chooses

/-- A command completes (R152): what it loads or zeroes, the variance word and the status are written. -/
def State.finishCmd (k : Nat) (s : State) : State :=
  if !s.completable k then s
  else match s.core.kq[k]? with
  | none => s
  | some c =>
    let t := s.ctx.tiles
    let r := if c.op = .ldb then
        (c.panels.1.zipIdx).foldl (fun (acc : Cluster × Word) x =>
          let y := c.install acc.1 x.2 x.1
          (y.1, acc.2 ||| y.2)) (s.cl, c.flags)
      else (s.cl, c.flags)
    let acc := match c.op with
      | .zero => c.tiles.foldl (fun m x => m.store (1024 * x) 1024 0) t.acc
      | .mul | .est => if c.ecode = 3 then spoil t.acc c.kind c.d else t.acc
      | .mulb => if c.ecode = 3 then
            (List.range (bSpec c.bspec).n).foldl (fun m i => spoil m c.kind (c.d + i * c.width)) t.acc
          else t.acc
      | _ => t.acc
    let var := match c.op with
      | .zero => c.tiles.foldl (fun v x => vset v x 0) t.var
      | .est => if c.ecode = 1 || c.ecode = 2 then t.var else vset t.var c.d c.varWord
      | _ => t.var
    let status := statusAfter t.status (r.2 ||| (if c.op = .est then c.estat else 0)) c.ecode
    let s := if c.ecode = 3 then c.badGranules.foldl (fun s a => s.uncorrectable a) s else s
    { s with
      ctx := { s.ctx with tiles := { t with acc, var, status } }
      cl := r.1
      core := { s.core with
        kq := s.core.kq.eraseIdx k
        badAcc := if c.op = .zero || c.ecode = 3 then s.core.badAcc.filter fun x => !c.tiles.contains (x / 16) else s.core.badAcc } }

/-! ### The other cores' queues -/

/-- Another core's command arrives (R147): what of it reaches this core is its place in the order, its panels and its footprint. -/
def State.otherIssues (core : Nat) (op : KilnOp) (header bspec : Word) (d : Nat) (cb top : Bool) (table : Memory)
    (pages : List (Nat × Nat)) (s : State) : State :=
  let c := { s.command op header bspec d cb pages with core := core, top := top, table := table }
  { s with cl := { s.cl with others := s.cl.others ++ [c], arrivals := s.cl.arrivals + 1 } }

/-- Another core's command starts, and reads its bytes (R148); one that has started reads anew what it has not decided, unit by unit (R149,
R224). -/
def State.otherStarts (k : Nat) (s : State) : State :=
  match s.cl.others[k]? with
  | none => s
  | some c =>
    let r := s.kilnSource c
    let c' := { c with started := true, src := r.1, bad := r.2, ecode := if r.2.isEmpty then 0 else 3 }
    let put := fun (c : KilnCmd) => { s with cl := { s.cl with others := s.cl.others.set k c } }
    if c.started then put (c.takes ((c.changed r).filter fun u => Config.readNew s.tick u) r)
    else if s.mayStart c then put c'
    else s

/-- Another core's command completes: a `KLDB` has loaded its panels (R152, R155). -/
def State.otherCompletes (k : Nat) (s : State) : State :=
  match s.cl.others[k]? with
  | none => s
  | some c =>
    if !c.started then s
    else
      let cl := if c.op = .ldb then (c.panels.1.zipIdx).foldl (fun acc x => (c.install acc x.2 x.1).1) s.cl else s.cl
      let s := if c.ecode = 3 then c.badGranules.foldl (fun s a => s.uncorrectable a) s else s
      { s with cl := { cl with others := s.cl.others.eraseIdx k } }

/-- Another core's queue starts a pass, when the round comes to it (R136, R151). -/
def State.otherPass (core m : Nat) (f64 : Bool) (cycles : Nat) (s : State) : State :=
  if core != s.core.idx && s.passMayStart core m f64 then s.startPass core m f64 cycles else s

/-- Another core's context has a weight (Table 18-6), and its queue has a pass that can start or has none. -/
def State.otherQueue (core : Nat) (kwgt : Word) (ready : Bool) (s : State) : State :=
  let a := s.arbiter
  { s with cl := { s.cl with arb := { a with
    weights := vset a.weights core kwgt
    wants := if ready then a.wants ||| bit8 core else a.wants &&& ~~~bit8 core } } }.endTurn

/-- KILN_COMMAND_START (R148). -/
def execKilnCommandStart (k : Nat) (s : State) : Host.Outcome State Fault Refusal := event (·.startCmd k) s

/-- SLICE_PASS_GRANT (R151, R349 to R351). -/
def execSlicePassGrant (s : State) : Host.Outcome State Fault Refusal := event (·.grantPass) s

/-- SLICE_PASS_COMPLETE (R136, R141 to R146, R173 to R175). -/
def execSlicePassComplete (s : State) : Host.Outcome State Fault Refusal := event (·.finishPass) s

/-- KEST_SELECTION (R171, R172). -/
def execKestSelection (s : State) : Host.Outcome State Fault Refusal := event (·.selectEst) s

/-- KILN_COMMAND_COMPLETE (R148, R152, R153, R176, R177). -/
def execKilnCommandComplete (k : Nat) (s : State) : Host.Outcome State Fault Refusal := event (·.finishCmd k) s

/-- KILN_BUDGET_WINDOW (R350, R351). -/
def execKilnBudgetWindow (s : State) : Host.Outcome State Fault Refusal := event (·.budgetWindow) s

end Sys2Proof.Machine
end

