-- ==== Sys2Proof/Machine/Mailbox.lean ====
section
/-! DEFINITION. The mailbox of a core (R325, R326, R328, R273): delivery in order, the inbound buffer, the spill ring of a saved
context (R385), MBXS (Table 17-7), and the instructions that take a message, with the check of R78. -/

namespace Sys2Proof.Machine

/-- SRC, FMT and TOP of a message's header (Table 17-6). -/
def Message.src (m : Message) : Nat := (m.data.extractLsb' 0 8).toNat
def Message.fmt (m : Message) : BitVec 5 := m.data.extractLsb' 16 5
def Message.top (m : Message) : Bool := m.data.getLsbD 21

/-- The lowest entry that holds no message. -/
def freeEntry (ms : List Message) : Option Nat := (List.range 16).find? fun i => !ms.any (·.slot == i)

/-- A message enters the mailbox, when an entry is free; one from Mboith requests the mailbox interrupt (Table 22-1). -/
def State.enterMessage (data : Vec) (s : State) : State :=
  match freeEntry s.ctx.mailbox with
  | none => s
  | some i =>
    let m : Message := ⟨i, data⟩
    let s := { s with
      ctx := { s.ctx with mailbox := s.ctx.mailbox ++ [m] }
      core := { s.core with badCtx := s.core.badCtx.filter fun a => !(wordsFrom (0x1600 + 64 * i) 8).contains a } }
    if m.src = 3 then s.request fun r => { r with mailbox := true } else s

/-- A count of the spill ring in the header of the region (w6 written, w7 read; Table 22-3, R385). -/
def State.spillCount (s : State) (region i : Nat) : Nat := s.pkg.mem.load (region + 8 * i) 8

/-- The context region of CTXBUF (R378). -/
def State.region (s : State) : Nat := (s.ctx.sys.ctxbuf.extractLsb' 16 30).toNat * 65536

/-- The oldest spilled message enters, and w7 rises (R385). -/
def State.unspill (s : State) : State :=
  match s.ctx.spill with
  | [] => s
  | d :: rest =>
    let s := { s with ctx := { s.ctx with spill := rest } }.enterMessage d
    s.homeStore (s.region + 56) 8 (s.spillCount s.region 7 + 1)

/-- While an entry is free, spilled messages enter, and then those of the inbound buffer for this core (R326, R385). -/
def State.refill : Nat → State → State
  | 0, s => s
  | k + 1, s =>
    if (freeEntry s.ctx.mailbox).isNone then s
    else if !s.ctx.spill.isEmpty then State.refill k s.unspill
    else match s.cl.inbound.find? (·.1 == s.ctx.address) with
      | none => s
      | some m => State.refill k ({ s with cl := { s.cl with inbound := s.cl.inbound.erase m } }.enterMessage m.2)

/-- A message reaches an address of this cluster (R326, R385): the spill ring of a saved context, the mailbox of the context that holds
the address, or nothing, and then it is counted as dropped. None: the sender holds it. Another core's mailbox is outside this machine. -/
def State.deliver (core : Nat) (data : Vec) (s : State) : Option State :=
  match s.cl.addrTable.find? (·.1 == core) with
  | some (_, region) =>
    let w := s.spillCount region 6
    if 64 ≤ w - s.spillCount region 7 then none
    else some ((s.homeStore (region + 0x40000 + 64 * (w % 64)) 64 data.toNat).homeStore (region + 48) 8 (w + 1))
  | none =>
    if core != s.ctx.address && s.cl.addresses.getLsbD core then some s
    else if core != s.ctx.address || s.core.run == .free then some { s with pkg := { s.pkg with dropped := s.pkg.dropped + 1 } }
    else if 32 ≤ s.cl.inbound.length then none
    else some ({ s with cl := { s.cl with inbound := s.cl.inbound ++ [(core, data)] } }.refill 16)

/-- MBXS (Table 17-7). -/
def State.mbxs (s : State) : Word :=
  let bits := s.ctx.mailbox.foldl (fun (x : Word) m => x ||| (1 <<< m.slot) ||| (bit01 (m.src == 1) <<< (16 + m.slot))) 0
  bits ||| (BitVec.ofNat 64 s.ctx.spill.length <<< 32)

/-- The earliest-delivered message of the kind that an instruction takes: from the copy engine, or from a core or Mboith. -/
def State.firstMessage (s : State) (copy : Bool) : Option Message :=
  s.ctx.mailbox.find? fun m => if copy then m.src == 1 else m.src == 2 || m.src == 3

/-- TRAPVAL of the format-mode mismatch trap (R78). -/
def mismatch (top : Bool) (fmt : BitVec 5) : Trap := (0x09, (bit01 top <<< 8) ||| fmt.zeroExtend 64)

/-- A narrow float format, codes 0x0C to 0x0F, whose TOP differs (R78). -/
def mismatched (fmt : BitVec 5) (top own : Bool) : Bool := isFloat8 fmt && top != own

/-- `MBXR` and `MRECV` (R273, R328) where earlier loads have been performed: the message moves into D and its entry is freed as one
effect; without one, D := 0 or a wait; the TOP check leaves the message. -/
def givesMessage (copy try_ : Bool) (f : Fields) (s : State) : Eff :=
  match s.firstMessage copy with
  | none => if try_ then s.setV none f.opD (BitVec.allOnes 512) 0 s.endWait else .hold (s.waitFor (.message copy))
  | some m =>
    if mismatched m.fmt m.top s.top then .trapIn s.endWait (mismatch m.top m.fmt)
    else
      let t := { s.endWait with ctx := { s.ctx with mailbox := s.ctx.mailbox.filter (·.slot != m.slot) } }
      s.setV none f.opD (BitVec.allOnes 512) m.data (t.refill 16)

/-- `MBXR` and `MRECV` (R273, R328): earlier loads are performed first (R216). -/
def takeMessage (copy try_ : Bool) (f : Fields) (s : State) : Eff := givesMessage copy try_ f s.caughtUp

/-- MBXR (R273). -/
def execMbxr (f : Fields) (s : State) : Host.Outcome State Fault Refusal := issue (.mbxr f) f (takeMessage true false f) s

/-- MBXR.T (R273). -/
def execMbxrT (f : Fields) (s : State) : Host.Outcome State Fault Refusal := issue (.mbxrT f) f (takeMessage true true f) s

/-- MRECV (R328). -/
def execMrecv (f : Fields) (s : State) : Host.Outcome State Fault Refusal := issue (.mrecv f) f (takeMessage false false f) s

/-- MRECV.T (R328). -/
def execMrecvT (f : Fields) (s : State) : Host.Outcome State Fault Refusal := issue (.mrecvT f) f (takeMessage false true f) s

end Sys2Proof.Machine
end

