-- ==== Sys2Proof/Machine/Copy.lean ====
section
/-! DEFINITION. The copy engine (chapter 13): reading and starting packets, bursts, circular buffers, clip messages, stamps, and the
copy instructions. -/

namespace Sys2Proof.Machine

/-! ### Circular buffers (R264) -/

def State.cb (s : State) (b : Nat) : CircBuf := vget s.cl.cbs b CircBuf.off
def State.setCb (b : Nat) (c : CircBuf) (s : State) : State := { s with cl := { s.cl with cbs := vset s.cl.cbs b c } }
/-- The configuration's fields (R271): BASE, slot bytes, NSLOT, DIR. -/
def CircBuf.base (c : CircBuf) : Nat := (c.config.extractLsb' 0 22).toNat
def CircBuf.size (c : CircBuf) : Nat := 64 * (c.config.extractLsb' 32 8).toNat
def CircBuf.slots (c : CircBuf) : Nat := (c.config.extractLsb' 40 8).toNat
def CircBuf.outbound (c : CircBuf) : Bool := c.config.getLsbD 48

/-- The engine takes the slot at EP: FREE falls for an inbound buffer, FILL for an outbound one; none when it must wait. -/
def CircBuf.engineTake (c : CircBuf) : Option (CircBuf × Nat) :=
  let ep := if c.slots = 0 then 0 else (c.ep + 1) % c.slots
  if c.outbound then (if c.fill = 0 then none else some ({ c with fill := c.fill - 1, ep }, c.ep))
  else if c.free = 0 then none else some ({ c with free := c.free - 1, ep }, c.ep)

/-- The engine hands a slot over: FILL rises for an inbound buffer, FREE for an outbound one. -/
def CircBuf.engineGive (c : CircBuf) : CircBuf :=
  if c.outbound then { c with free := c.free + 1 } else { c with fill := c.fill + 1 }

/-- The job at byte `o` of its dense order hands over the slots that it has passed and takes those up to byte `last`, one at a time. The
answer is false where the engine waits; the fuel bounds the slots that it hands over or takes. -/
def State.slotsTo (o last : Nat) : Nat → BufHeld → State → State × BufHeld × Bool
  | 0, h, s => (s, h, false)
  | fuel + 1, h, s =>
    let c := s.cb h.buf
    if h.slots != [] && h.pos + c.size ≤ o then
      State.slotsTo o last fuel { h with slots := h.slots.drop 1, pos := h.pos + c.size } (s.setCb h.buf c.engineGive)
    else if last < h.pos + c.size * h.slots.length then (s, h, true)
    else match c.engineTake with
      | none => (s, h, false)
      | some (c, k) => State.slotsTo o last fuel { h with slots := h.slots ++ [k] } (s.setCb h.buf c)

/-- The address of byte `o` of the dense order in the slots that the job holds. -/
def CircBuf.at' (c : CircBuf) (h : BufHeld) (o : Nat) : Nat :=
  c.base + c.size * ((h.slots[(o - h.pos) / c.size]?).getD 0) + (o - h.pos) % c.size

/-- Bytes of a space that follow each other in an element: an address and a number. -/
abbrev Piece := Int × Nat

/-- The places of `n` bytes of the dense order from `o` on: bytes past the end of a slot lie in the next one. -/
def CircBuf.pieces (c : CircBuf) (h : BufHeld) (o n : Nat) : List Piece :=
  let k := min n (c.size - (o - h.pos) % c.size)
  if k = n then [(Int.ofNat (c.at' h o), n)] else [(Int.ofNat (c.at' h o), k), (Int.ofNat (c.at' h (o + k)), n - k)]

/-! ### The engine's accesses -/

/-- The requester of a queue's engine: its PID, its root, and kernel mode for a kernel queue (R254, R360). -/
def State.engineWho (s : State) (q : QueueBind) : Requester :=
  let pid := (s.desc q.pa 0x28).extractLsb' 48 16
  ⟨pid, q.root, pid != 0⟩

/-- What an access of the engine meets. -/
inductive Engine (α : Type) where
  | ok (s : State) (x : α)
  | wait
  | fault (va : Word)

/-- A global access of the engine (R254): its physical address; it waits for its home and those of the tables (R14) and for a refresh there
(R206). DESIGN CHOICE
(log entry 58): where the home is declared failed, R14 names a trap that an engine does not take; here a read is uncorrectable, and a
write is performed and not reported. -/
def State.engineReach (who : Requester) (k : AccKind) (va : Word) (s : State) : Engine Nat :=
  match s.translateAs false who k va with
  | .error e => if e.1 = heldCause then .wait else .fault va
  | .ok (p, ks) => match s.homes [(va, p.pa)] with
    | some none => .wait
    | _ => if s.refreshHolds [p.pa] then .wait else .ok ((s.keep ks).touch s.cl.index p.pa) p.pa

/-- The owner of a local space in the list of uncorrectable granules. -/
def localOwner (sp core : Nat) : Nat := if sp = 2 then core else 8

/-- An uncorrectable granule that `n` bytes meet at a home, or that the failed home makes of them. -/
def State.badGranule (s : State) (pa n : Nat) : Option Nat :=
  if s.homeState pa == some false then some (pa / granule pa * granule pa)
  else s.pkg.poison.find? fun g => g < pa + n && pa < g + granule g

/-- `n` bytes of a home are read for the engine: an 8-byte read of CLAIM claims (R251), with the permissions of a claim (R360). -/
def State.engineLoad (who : Requester) (va : Word) (pa n : Nat) (s : State) : Engine (Nat × Option Nat) :=
  if s.isClaim pa n then
    match s.translateAs false who .readWrite va with
    | .error _ => .fault va
    | .ok _ => .ok (s.claimAt (pa - 8)).1 ((s.claimAt (pa - 8)).2.toNat, s.badGranule pa n)
  else .ok s (s.pkg.mem.load pa n, s.badGranule pa n)

/-- `n` bytes of a space are read: the value, and the granule that was uncorrectable (R262). A host byte is free (R209). -/
def State.engineRead (who : Requester) (sp core : Nat) (a : Int) (n : Nat) (s : State) : Engine (Nat × Option Nat) :=
  match sp with
  | 0 =>
    (match s.engineReach who .read (BitVec.ofInt 64 a) with
     | .ok s pa => s.engineLoad who (BitVec.ofInt 64 a) pa n
     | .wait => .wait
     | .fault va => .fault va)
  | 4 => .ok s (digits 8 (fun i => (Config.hostByte s.tick (BitVec.ofInt 64 (a + i)).toNat).toNat) n, none)
  | _ =>
    let x := a.toNat
    let m := if sp = 2 then vget s.cl.stores core [] else s.cl.spad
    .ok s (m.load x n, (s.cl.bad.find? fun g => g.1 == localOwner sp core && g.2 < x + n && x < g.2 + 8).map (·.2))

/-- The bytes of some pieces are read, the first lowest, with the uncorrectable granules. -/
def State.readPieces (who : Requester) (sp core : Nat) : List Piece → State → Engine (Nat × List Nat)
  | [], s => .ok s (0, [])
  | x :: xs, s =>
    match s.engineRead who sp core x.1 x.2 with
    | .wait => .wait
    | .fault va => .fault va
    | .ok s y =>
      match State.readPieces who sp core xs s with
      | .wait => .wait
      | .fault va => .fault va
      | .ok s z => .ok s (y.1 + z.1 * 2 ^ (8 * x.2), y.2.toList ++ z.2)

/-- Granules of `n` bytes become uncorrectable (R208, R262). -/
def State.spoilGlobal (pa n : Nat) (s : State) : State :=
  { s with pkg := { s.pkg with
    poison := (List.range n).foldl (fun p i => insertNat ((pa + i) / granule (pa + i) * granule (pa + i)) p) s.pkg.poison } }

def State.spoilLocal (owner a n : Nat) (s : State) : State :=
  { s with cl := { s.cl with
    bad := (List.range n).foldl (fun b i =>
      let g := (owner, (a + i) / 8 * 8)
      if b.contains g then b else g :: b) s.cl.bad } }

/-- `n` bytes of a space are written; bytes taken from an uncorrectable granule are written poisoned (R262). -/
def State.engineWrite (who : Requester) (sp core : Nat) (a : Int) (n data : Nat) (bad : Bool) (s : State) : Engine Unit :=
  match sp with
  | 0 =>
    (match s.engineReach who .write (BitVec.ofInt 64 a) with
     | .ok s pa =>
       let s := (s.homeStore pa n data).restartQueues
       .ok (if bad then s.spoilGlobal pa n else s) ()
     | .wait => .wait
     | .fault va => .fault va)
  | 4 => .ok s ()
  | 2 =>
    let s := s.storeWrite core a.toNat n data
    .ok (if bad then s.spoilLocal core a.toNat n else s) ()
  | _ =>
    let s := s.spadWrite a.toNat n data
    .ok (if bad then s.spoilLocal 8 a.toNat n else s) ()

/-- The bytes of some pieces are written, the first lowest. -/
def State.writePieces (who : Requester) (sp core : Nat) (bad : Bool) : List Piece → Nat → State → Engine Unit
  | [], _, s => .ok s ()
  | x :: xs, data, s =>
    match s.engineWrite who sp core x.1 x.2 data bad with
    | .ok s _ => State.writePieces who sp core bad xs (data / 2 ^ (8 * x.2)) s
    | .wait => .wait
    | .fault va => .fault va

/-- An element converted under the packet's TOP, RND and SAT (R259). -/
def Job.convert (j : Job) (raw : Nat) (scale : Option Nat) : Nat × Flags :=
  if !j.cvt then (raw, 0)
  else
    let sf := j.sfmt
    let df := j.dfmt
    let v : FVal :=
      if isMX sf then mxValue (if sf == 0x0E then e4m3 else e5m2) j.top raw (scale.getD 127)
      else if sf.toNat < 8 then (let x := readInt sf.toNat raw; .fin (x < 0) x.natAbs 0)
      else (fmtOfCode sf.toNat).decode j.top raw
    let mode := RMode.ofCode j.rnd
    if 8 ≤ df.toNat then (fmtOfCode df.toNat).deliver j.top mode j.sat ((pickNaN [v]).getD (v.ex, 0))
    else
      let r := toInt mode df.toNat v
      (lowBits (8 * j.e') r.1, r.2)

/-! ### Bursts -/

/-- The queue of a job. -/
def State.queueOf (s : State) (j : Job) : QueueBind := (s.cl.queues[j.q]?).getD ⟨0, 0, 0, 0⟩

/-- What becomes of a job at one element: it goes on, waits where it is, or has met a fault at an address. -/
inductive Moved where
  | next (s : State) (j : Job)
  | wait (s : State) (j : Job)
  | fault (s : State) (j : Job) (va : Word)

/-- A row of a packet is clipped, once. -/
def Job.clipRow (j : Job) (y : Nat) : Job := if j.clipped.contains y then j else { j with clipped := j.clipped ++ [y] }

/-- What the job holds of a buffer, and that replaced. -/
def Job.buf (j : Job) (b : Nat) : BufHeld := (j.bufs.find? (·.buf == b)).getD ⟨b, [], 0, 0⟩
def Job.setBuf (j : Job) (h : BufHeld) : Job := { j with bufs := h :: j.bufs.filter (·.buf != h.buf) }

/-- The places of an element in its space, and the address of its scale: in a circular buffer those of the next bytes of the job's dense
order (R264), of which byte `o` is the element's first and `o'` the scale's. None while the engine waits for a slot. -/
def Job.inPlace (j : Job) (a : Int) (scale : Option Int) (o : Nat) (s : State) : State × Job × Option (List Piece × Option Int) :=
  if j.ssp = 3 then
    let h := j.buf (j.word 1).toNat
    let o := h.base + o
    let o' := scale.map fun x => (o + (x - a)).toNat
    let last := max (o + j.e - 1) (o'.getD o)
    let r := s.slotsTo o last (2 * last + 2) h
    let c := r.1.cb h.buf
    (r.1, j.setBuf r.2.1, if r.2.2 then some (c.pieces r.2.1 o j.e, o'.map fun x => Int.ofNat (c.at' r.2.1 x)) else none)
  else (s, j, some ([(a, j.e)], scale))

def Job.outPlace (j : Job) (a : Int) (o : Nat) (s : State) : State × Job × Option (List Piece) :=
  if j.dsp = 3 then
    let h := j.buf (j.word 2).toNat
    let o := h.base + o
    let r := s.slotsTo o (o + j.e' - 1) (2 * (o + j.e') + 2) h
    (r.1, j.setBuf r.2.1, if r.2.2 then some ((r.1.cb h.buf).pieces r.2.1 o j.e') else none)
  else (s, j, some [(a, j.e')])

/-- The scale of an MX element. -/
def State.engineScale (who : Requester) (sp core : Nat) (scale : Option Int) (s : State) : Engine (Option Nat × Option Nat) :=
  match scale with
  | none => .ok s (none, none)
  | some a => match s.engineRead who sp core a 1 with
    | .ok s x => .ok s (some x.1, x.2)
    | .wait => .wait
    | .fault va => .fault va

/-- The bytes of the burst from the job's position on, up to 64 and within the row, that follow each other in the destination. -/
def Job.runBytes (j : Job) : Nat :=
  match j.item j.pos with
  | .move _ _ dst _ _ =>
    let row := if j.kind = 2 then j.winRow else j.tw
    let most := min (64 / j.e') (row - j.pos % row)
    j.e' * ((List.range most).takeWhile fun i => match j.item (j.pos + i) with
      | .move _ _ d _ _ => d == dst + (i * j.e' : Nat)
      | _ => false).length
  | _ => 0

/-- The granules of global memory that the burst covers whole lose their poison (R208). -/
def State.coverBurst (who : Requester) (j : Job) (d : Int) (s : State) : State :=
  if j.dsp != 0 then s
  else match s.translateAs false who .write (BitVec.ofInt 64 d) with
    | .ok (p, _) => s.cover p.pa (min j.runBytes (65536 - p.pa % 65536))
    | .error _ => s

/-- The uncorrectable granules that the job meets are reported to the kernel, each once (R262). -/
def State.reportAll (gs : List Nat) (j : Job) (s : State) : State × Job :=
  gs.foldl (fun acc g => if acc.2.bads.contains g then acc else (acc.1.uncorrectable g, { acc.2 with bads := g :: acc.2.bads })) (s, j)

/-- One element is read, converted and written (R256 to R259, R262). -/
def moveElem (j : Job) (src : Int) (scale : Option Int) (dst : Int) (inAt outAt : Nat) (s : State) : Moved :=
  let q := s.queueOf j
  let who := s.engineWho q
  match j.inPlace src scale inAt s with
  | (s, j, none) => .wait s j
  | (s, j, some (a, scale)) =>
    match j.outPlace dst outAt s with
    | (s, j, none) => .wait s j
    | (s, j, some d) =>
      match s.readPieces who j.ssp j.score a with
      | .wait => .wait s j
      | .fault va => .fault s j va
      | .ok s x =>
        match s.engineScale who j.ssp j.score scale with
        | .wait => .wait s j
        | .fault va => .fault s j va
        | .ok s sc =>
          let gs := x.2 ++ sc.2.toList
          let r := j.convert x.1 sc.1
          match (s.coverBurst who j dst).writePieces who j.dsp j.dcore (gs != []) d r.1 with
          | .wait => .wait s j
          | .fault va => .fault s j va
          | .ok s _ =>
            let stat := (r.2.zeroExtend 64) ||| (bit01 (gs != []) <<< 9)
            let u := s.reportAll gs j
            .next (if stat == 0 then u.1 else u.1.setStat q.pa stat 0) { u.2 with pos := j.pos + 1, ue := j.ue || gs != [] }

/-- A GATHER job reads index y before row y (R257). DESIGN CHOICE (log entry 58): an uncorrectable error in the index list is not reported, and
its bytes name the row as they stand. -/
def Job.readIndex (j : Job) (s : State) : Job :=
  if j.kind = 1 && j.pos % j.tw = 0 then
    { j with index := BitVec.ofNat 32 (s.cl.spad.load (j.field 6 32 32 + 4 * (j.pos / j.tw)) 4) }
  else j

/-- The element at the job's position. -/
def State.stepJob (j : Job) (s : State) : Moved :=
  let j := j.readIndex s
  match j.item j.pos with
  | .move src scale dst i o => moveElem j src scale dst i o s
  | .clip => .next s { (if j.kind = 0 then j else j.clipRow (j.pos / (if j.kind = 1 then j.tw else j.winRow))) with pos := j.pos + 1 }
  | .past =>
    let p := j.pos / j.winRow
    let j := if j.pos % j.winRow = 0 then
        { j with past := j.past + 1, firstPast := if j.past = 0 then p else j.firstPast }
      else j
    .next s { j with pos := j.pos + 1 }

/-- The job hands over the slots that it holds (R264). -/
def Job.handOver (j : Job) (s : State) : State × Job :=
  let give := fun (s : State) (h : BufHeld) => h.slots.foldl (fun s _ => s.setCb h.buf (s.cb h.buf).engineGive) s
  (j.bufs.foldl give s, { j with bufs := j.bufs.map fun h => { h with slots := [] } })

/-- The job goes on with a linked packet (R263). -/
def Job.goesOn (j : Job) : Bool := j.linked && !j.refused && !j.fault

/-- The packet's payload is over; with the job's last one its last slots, partly filled or not, are handed over (R264). -/
def Job.close (j : Job) (s : State) : State × Job :=
  let r := if j.goesOn then (s, j) else j.handOver s
  (r.1, { r.2 with finished := true })

/-- The elements that the next event of the job moves: those in one aligned 8 bytes of the source and of the destination (R203, R211). -/
def Job.unitLength (j : Job) : Nat :=
  match j.item j.pos with
  | .move src _ dst _ _ => max 1 (min ((8 - (src % 8).toNat) / j.e) ((8 - (dst % 8).toNat) / j.e'))
  | _ => 1

/-- Up to `k` elements; a fault ends the job at that access, and is recorded in STAT and FADDR (R262). An access that waits ends the burst. -/
def State.burst : Nat → Job → State → State × Job
  | 0, j, s => (s, j)
  | k + 1, j, s =>
    if j.count ≤ j.pos then j.close s
    else match s.stepJob j with
      | .next s j => State.burst k j s
      | .wait s j => (s, { j with burstEnd := j.pos })
      | .fault s j va => { j with fault := true }.close (s.setStat (s.queueOf j).pa (1 <<< 8) va)

/-! ### Jobs -/

def State.job (s : State) (i : Nat) : Option Job := s.cl.jobs[i]?
def State.setJob (i : Nat) (j : Job) (s : State) : State := { s with cl := { s.cl with jobs := s.cl.jobs.set i j } }

/-- The packet's words at a physical address. -/
def State.packetAt (s : State) (pa : Nat) : Vector Word 8 := Vector.ofFn fun i => s.pkg.mem.word (pa + 8 * i.val)

/-- The bytes of the packet in a job's dense order, in the source and in the destination (R264). -/
def Job.denseIn (j : Job) : Nat := if j.kind = 2 then j.count / max 1 j.chans * j.rowBytes j.chans else j.th * j.rowBytes j.tw
def Job.denseOut (j : Job) : Nat := j.count * j.e'

/-- The bytes that the packet had in a buffer's dense order. -/
def Job.denseAt (j : Job) (b : Nat) : Nat :=
  (if j.ssp = 3 && (j.word 1).toNat = b then j.denseIn else 0) + (if j.dsp = 3 && (j.word 2).toNat = b then j.denseOut else 0)

/-- The job's next packet `w` goes on where its packets so far have come in each buffer: the bytes of a job are dense there, and it holds a
slot that they have filled in part until the job ends (R264). -/
def Job.carry (j : Job) (w : Vector Word 8) : Job :=
  let named := (if j.ssp = 3 then [(j.word 1).toNat] else []) ++ (if j.dsp = 3 then [(j.word 2).toNat] else [])
  let j' := named.foldl (fun j b => j.setBuf (j.buf b)) j
  { j' with w, bufs := j'.bufs.map fun h => { h with base := h.base + j.denseAt h.buf } }

/-- A packet that has been read becomes the current one of its job, checked by R255; a refusal sets REF and ends the job. -/
def Job.take (j : Job) (w : Vector Word 8) (s : State) : State × Job :=
  let q := s.queueOf j
  let c := s.desc q.pa 0x28
  let j := { j.carry w with
    started := false, finished := false, pos := 0, clipped := [], past := 0, firstPast := 0, msgDone := false
    stampDone := false, index := 0, old := [], burstEnd := 0 }
  if j.refuses (c.getLsbD 46) (c.extractLsb' 48 16 == 0) s.cl.cbs then
    { j with refused := true, finished := true }.handOver (s.setStat q.pa (1 <<< 10) 0)
  else (s, j)

/-- A new job of queue `q`. -/
def newJob (arr q seq : Nat) : Job :=
  { arr, q, seq, w := Vector.replicate 8 0, link := 0, started := false, refused := false, finished := false, pos := 0
    clipped := [], past := 0, firstPast := 0, msgDone := false, stampDone := false, fault := false, ue := false, typed := false
    anyClip := false, bufs := [], own := false, mailTo := 0, index := 0, bads := [], old := [], burstEnd := 0 }

/-- A queue is stopped by a fault or an error at its next slot (R252). -/
def State.haltQueue (i bit : Nat) (va : Word) (s : State) : State :=
  match s.cl.queues[i]? with
  | none => s
  | some q =>
    let s := { s with cl := { s.cl with queues := s.cl.queues.set i { q with halt := bit } } }
    let s := if bit = 9 then s else { s with pkg := { s.pkg with reports := va :: s.pkg.reports } }
    s.setStat q.pa (1 <<< bit) va

/-- The address of the slot that claim `i` of the queue at `pa` has (R251). -/
def State.slotOf (s : State) (pa i : Nat) : Word := s.desc pa 0x20 + BitVec.ofNat 64 (64 * (i % s.slots pa))

/-- What the engine finds at the next slot of a queue that it serves (R252): nothing yet, a fault, an error, or a packet. DESIGN CHOICE (log
entry 58): an uncorrectable error in the descriptor's words stops the queue as one in the slot does. -/
inductive Slot where
  | none
  | fault (va : Word)
  | ue (va : Word) (pa : Nat)
  | packet (seq pa : Nat)

def State.nextSlot (s : State) (i : Nat) : Slot :=
  match s.cl.queues[i]? with
  | none => .none
  | some q =>
    if !s.bound q || q.halt != 0 || 4 ≤ s.cl.jobs.length || s.pkg.frozen then .none
    else
      let r := low56 (s.desc q.pa 0x10)
      let va := s.slotOf q.pa r
      if s.poisoned q.pa 0x30 then .ue q.va q.pa
      else match s.engineReach (s.engineWho q) .read va with
      | .wait => .none
      | .fault va => .fault va
      | .ok s pa =>
        if s.poisoned pa 64 || s.homeState pa == some false then .ue va pa
        else if low56 (s.pkg.mem.word pa) = (r + 1) % 2 ^ 56 then .packet ((r + 1) % 2 ^ 56) pa
        else .none

/-- Queue `i` has something for the engine. -/
def State.slotReady (s : State) (i : Nat) : Bool := match s.nextSlot i with | .none => false | _ => true

/-- Queue `i` is the first in round robin that has something (R266). -/
def State.slotTurn (s : State) (i : Nat) : Bool :=
  let n := s.cl.queues.length
  s.slotReady i && (List.range n).all fun k =>
    let o := (s.cl.turn + k) % n
    o == i || !s.slotReady o || (i + n - s.cl.turn) % n < k

/-- The message address that the clip messages of a packet read from a queue go to: of the resident context's submission its own, wherever it
was placed, and else that of the core that the packet names. DEDUCED (log entry 34): a submission is the resident context's where its claim
table has it (R310). -/
def State.clipAddress (s : State) (q : QueueBind) (seq core : Nat) : Nat :=
  if core = s.core.idx && s.core.run != .free && s.ctx.claims.any (fun c => c.q == q.va && seq ≤ c.seq) then s.ctx.address else core

/-- PACKET_READ (R252, R255, R266). -/
def State.readPacket (i : Nat) (s : State) : State :=
  if !s.slotTurn i then s
  else
    let n := s.cl.queues.length
    let s := { s with cl := { s.cl with turn := (i + 1) % n } }
    match s.nextSlot i, s.cl.queues[i]? with
    | .fault va, _ => s.haltQueue i 8 va
    | .ue va pa, _ => (s.uncorrectable pa).haltQueue i 9 va
    | .packet seq pa, some q =>
      let s := s.homeStore (q.pa + 0x10) 8 seq
      let w := s.packetAt pa
      let core := ((vget w 4 0).extractLsb' 14 3).toNat
      let j := { newJob s.cl.arrivals i seq with own := core = s.core.idx, mailTo := s.clipAddress q seq core }
      let r := j.take w s
      { r.1 with cl := { r.1.cl with jobs := r.1.cl.jobs ++ [r.2], arrivals := r.1.cl.arrivals + 1 } }
    | _, _ => s

/-- The spans of two jobs meet where one of them writes (R148). -/
def jobsConflict (a b : Job) : Bool :=
  (jobSpans a).any fun x => (jobSpans b).any fun y =>
    (x.2.2.2.2 || y.2.2.2.2) && x.1 == y.1 && x.2.1 == y.2.1 && spanMeets y.2.2.1 y.2.2.2.1 (x.2.2.1, x.2.2.2.1)

/-- Engine work of the context is paused (R389). -/
def State.quiesced (s : State) (j : Job) : Bool := j.own && s.core.halted && s.core.dbgQuiesce

/-- Job `i` may start (R148, R253, R265, R387, R389). -/
def State.jobStartable (s : State) (i : Nat) : Bool :=
  match s.job i with
  | none => false
  | some j =>
    !j.started && !j.refused && !s.pkg.frozen && s.cl.gear.handover.isNone && !s.quiesced j &&
      (s.cl.jobs.all fun e => j.arr ≤ e.arr || (!jobsConflict e j && !(j.ser && e.q == j.q))) &&
      s.kilnCmds.all fun c => j.arr ≤ c.arr || !jobMeets j c

/-- What this core's local store holds where a packet writes it (R17). -/
def State.oldBytes (s : State) (j : Job) : List (Nat × Byte) :=
  if j.dsp = 2 && j.dcore = s.core.idx then
    j.dstSpans.flatMap fun x => (List.range x.2).map fun i => (x.1.toNat + i, s.own.read (x.1.toNat + i))
  else []

/-- COPY_JOB_START (R265). -/
def State.startJob (i : Nat) (s : State) : State :=
  match s.job i with
  | some j => if s.jobStartable i then s.setJob i { j with started := true, old := s.oldBytes j } else s
  | none => s

/-- Job `i` may move bytes: those of a burst in progress, or a new burst (R266, R342, R389). -/
def State.jobMoving (s : State) (i : Nat) : Bool :=
  match s.job i with
  | none => false
  | some j => j.started && !j.finished && s.cl.gear.handover.isNone && (j.pos < j.burstEnd || (!s.shifting && !s.quiesced j))

/-- A burst begins where the last one has ended: up to 64 bytes (R266). -/
def Job.begin (j : Job) : Job := if j.pos < j.burstEnd then j else { j with burstEnd := j.pos + max 1 (j.runBytes / j.e') }

/-- COPY_BURST (R266): the next event of a burst, which moves up to 64 bytes. -/
def State.burstJob (i : Nat) (s : State) : State :=
  match s.job i with
  | some j =>
    if s.jobMoving i then
      let r := s.burst (j.readIndex s).unitLength (j.readIndex s).begin
      r.1.setJob i r.2
    else s
  | none => s

/-- The current packet has clipped something (R260). -/
def Job.clips (j : Job) : Bool :=
  match j.kind with
  | 0 => j.box != (0, j.th, 0, j.tw)
  | 1 => !j.clipped.isEmpty
  | _ => !j.clipped.isEmpty || j.past != 0

/-- A clip message waits to be delivered. -/
def Job.owesMessage (j : Job) : Bool := j.finished && !j.refused && j.clips && !j.noMsg && !j.msgDone

/-- The clip message of the current packet (Table 13-4). -/
def Job.message (j : Job) (va : Word) : Vec :=
  let n16 := fun (x : Nat) (at' : Nat) => BitVec.ofNat 64 (x % 65536) <<< at'
  let b := j.box
  let w3 : Word := match j.kind with
    | 0 => n16 b.2.2.2 48 ||| n16 b.2.2.1 32 ||| n16 b.2.1 16 ||| n16 b.1 0
    | 1 => n16 j.clipped.length 16 ||| n16 (j.clipped.headD 0) 0
    | _ => n16 j.clipped.length 32 ||| n16 j.firstPast 16 ||| n16 j.past 0
  let rows := fun (k : Nat) => if j.kind = 1 then
      (List.range 4).foldl (fun (w : Word) i => w ||| n16 ((j.clipped[4 * k + i]?).getD 0xFFFF) (16 * i)) 0
    else 0
  let ws : List Word := [
    (bit01 j.top <<< 21) ||| (0x1F <<< 16) ||| (BitVec.ofNat 64 j.link <<< 8) ||| 1,
    (BitVec.ofNat 64 j.kind <<< 56) ||| BitVec.ofNat 64 j.seq, va, w3, rows 0, rows 1, rows 2, rows 3]
  BitVec.ofNat 512 (digits 64 (fun i => ((ws[i]?).getD 0).toNat) 8)

/-- A clip message reaches the mailbox of the context that holds an address (R260): none while that is full, or while messages wait before
it; a saved context's has it in the spill ring (R385). -/
def State.deliverClip (address : Nat) (data : Vec) (s : State) : Option State :=
  if address == s.ctx.address && s.core.run != .free && !s.cl.addrTable.any (·.1 == address) then
    if (freeEntry s.ctx.mailbox).isNone || !s.ctx.spill.isEmpty || s.cl.inbound.any (·.1 == s.ctx.address) then none else some (s.enterMessage data)
  else s.deliver address data

/-- CLIP_MESSAGE (R260): a full mailbox holds it, and with it the stamp. -/
def State.clipMsg (i : Nat) (s : State) : State :=
  match s.job i with
  | some j =>
    if j.owesMessage then
      match s.deliverClip j.mailTo (j.message (s.queueOf j).va) with
      | some s => s.setJob i { j with msgDone := true }
      | none => s
    else s
  | none => s

/-- Job `i`'s stamp may be written: after its payload and its message, and with its last packet in sequence order (R261, R263). -/
def State.stampable (s : State) (i : Nat) : Bool :=
  match s.job i with
  | none => false
  | some j =>
    j.finished && !j.owesMessage && !j.stampDone && !s.quiesced j &&
      (j.goesOn || s.cl.jobs.all fun e => e.q != j.q || j.arr ≤ e.arr)

/-- The stamp's value (Table 13-5). -/
def Job.stamp (j : Job) : Word :=
  let typed := isFloat8 j.sfmt || (j.cvt && isFloat8 j.dfmt)
  (bit01 (j.refused || j.ue || j.fault) <<< 63) ||| (bit01 j.refused <<< 61) ||| (bit01 j.top <<< 60) ||| (bit01 typed <<< 59) |||
    (bit01 j.ue <<< 58) ||| (bit01 j.fault <<< 57) ||| (bit01 j.anyClip <<< 56) ||| BitVec.ofNat 64 (j.seq % 2 ^ 56)

/-- The write of a usable stamp; none while its home is not ready (R14, R261). -/
def State.writeStamp (j : Job) (s : State) : Option State :=
  let q := s.queueOf j
  if !j.stampUsable ((s.desc q.pa 0x28).getLsbD 46) then some s
  else
    let sp := match j.stsp with | 0 => 0 | 1 => 1 | _ => 4
    match s.engineWrite (s.engineWho q) sp 8 (j.word 3).toInt 8 j.stamp.toNat false with
    | .ok s _ => some s
    | .wait => none
    | .fault va =>
      some { s.setStat q.pa (1 <<< 8) va with pkg := { (s.setStat q.pa (1 <<< 8) va).pkg with reports := va :: s.pkg.reports } }

/-- STAMP_WRITE (R261, R263): the stamp, and with the last packet DONE. -/
def State.stampJob (i : Nat) (s : State) : State :=
  match s.job i with
  | some j =>
    if s.stampable i then
      let j := { j with anyClip := j.anyClip || (!j.refused && j.clips) }
      match s.writeStamp j with
      | none => s
      | some s =>
        if j.goesOn then s.setJob i { j with stampDone := true }
        else
          let s := s.homeStore ((s.queueOf j).pa + 0x18) 8 j.seq
          { s with cl := { s.cl with jobs := s.cl.jobs.eraseIdx i } }
    else s
  | none => s

/-- LINK_PACKET_READ (R263): a fault in reading it ends the job with FADDR = NEXT. -/
def State.linkJob (i : Nat) (s : State) : State :=
  match s.job i with
  | some j =>
    if j.stampDone && j.goesOn then
      let q := s.queueOf j
      let last := { j with w := vset j.w 0 (j.word 0 &&& ~~~(1#64 <<< 60)), stampDone := false, msgDone := true }
      match s.engineReach (s.engineWho q) .read (j.word 7) with
      | .wait => s
      | .fault _ =>
        let r := { last with fault := true }.handOver (s.setStat q.pa (1 <<< 8) (j.word 7))
        r.1.setJob i r.2
      | .ok s pa =>
        if s.poisoned pa 64 || s.homeState pa == some false then
          let r := { last with ue := true }.handOver ((s.uncorrectable pa).setStat q.pa (1 <<< 9) 0)
          r.1.setJob i r.2
        else
          let r := { j with link := j.link + 1 }.take (s.packetAt pa) s
          r.1.setJob i r.2
    else s
  | none => s

/-! ### Instructions -/

/-- The bytes of an image in the local window, for the instructions that read one (R37), after what the core issued before. DESIGN CHOICE (log
entry 64): an image in the event unit's window, which only `LDL.D` and `STL.D` may access (R195), raises trap 0x05. -/
def State.imageAt (s : State) (a : Word) (n : Nat) : Except Trap Nat :=
  match s.lmemCheck a n false with
  | .error t => .error t
  | .ok .event => .error (0x05, a)
  | .ok pl => .ok (s.caughtUp.lread pl a.toNat n)

/-- The first addresses of the 64 KiB pages of a ring. -/
def ringPages (ring : Word) (bytes : Nat) : List (Nat × Word) :=
  let lo := ring.toNat
  (List.range ((lo % 65536 + bytes + 65535) / 65536)).map fun i => (i, BitVec.ofNat 64 (max lo (lo / 65536 * 65536 + 65536 * i)))

/-- The claim table with room for a claim on the queue at `a` (R310); none while every entry is in use. -/
def State.claimRoom (s : State) (a : Word) : Option (List Claim) :=
  let t := s.ctx.claims
  if t.any (·.q == a) || t.length < 16 then some t
  else
    let done := fun (c : Claim) => match s.translate s.me .read c.q with
      | .ok (p, _) => c.seq ≤ low56 (s.desc p.pa 0x18)
      | .error _ => false
    (t.find? done).map fun c => t.erase c

/-- The packet that a submission writes into its slot (R269). -/
def packetImage (img : Nat) (core kind : Nat) (top : Bool) (seq : Nat) : Nat :=
  let w0 : Word := (BitVec.ofNat 64 img &&& 0xB800000000000000) ||| (BitVec.ofNat 64 kind <<< 56) ||| (bit01 top <<< 62) |||
    BitVec.ofNat 64 (seq % 2 ^ 56)
  let w4 : Word := (BitVec.ofNat 64 (img / 2 ^ 256) &&& ~~~(7#64 <<< 14)) ||| (BitVec.ofNat 64 core <<< 14)
  w0.toNat + img / 2 ^ 64 % 2 ^ 192 * 2 ^ 64 + w4.toNat * 2 ^ 256 + img / 2 ^ 320 * 2 ^ 320

/-- A packet is written into its slot with word 0 last (R251), after a refresh there (R206); a line that another cluster holds returns
(R233). -/
def State.writePacket (s : State) (pa x : Nat) : State :=
  (((s.waitRefresh [pa]).touch s.cl.index pa).homeStore (pa + 8) 56 (x / 2 ^ 64)).homeStore pa 8 (x % 2 ^ 64)

/-- The claim of number `i` is entered in the table, and D holds the sequence number (R269); the packet `x` in its slot feeds the signature
(R313). -/
def State.submitted (s : State) (f : Fields) (a slot : Word) (x i : Nat) (table : List Claim) : State :=
  let z := s.sign slot.toNat 64 x
  ({ z with ctx := { z.ctx with claims := ⟨a, i + 1⟩ :: table.filter (·.q != a) } } : State).setS none f.opD (BitVec.ofNat 64 (i + 1))

/-- The claim `i` of the queue at `pa` has been answered: the packet goes into its slot (R251). -/
def submitInto (kind : Nat) (f : Fields) (a : Word) (img pa i : Nat) (table : List Claim) (s : State) : Eff :=
  let x := packetImage img s.core.idx kind s.top (i + 1)
  match s.translate s.me .write (s.slotOf pa i) with
  | .error t => .trap t
  | .ok (p, _) => .ok ((s.writePacket p.pa x).submitted f a (s.slotOf pa i) x i table)

/-- The home answers a claim: a number, or all ones when the queue is full (R251). -/
def submitAnswer (kind : Nat) (f : Fields) (a : Word) (img pa : Nat) (table : List Claim) (r : State × Word) : Eff :=
  if r.2 == BitVec.allOnes 64 then .hold (r.1.waitFor (.queue pa))
  else submitInto kind f a img pa r.2.toNat table r.1.endWait

/-- A shadow's submission takes the claim that its primary's returned, and is not performed (R312, R313). DEDUCED (log entry 39): a claim that
found the queue full is such a read too. -/
def submitShadow (kind : Nat) (f : Fields) (a : Word) (img pa : Nat) (x : Word) (table : List Claim) (s : State) : Eff :=
  if x == BitVec.allOnes 64 then .hold s
  else .ok (s.submitted f a (s.slotOf pa x.toNat) (packetImage img s.core.idx kind s.top (x.toNat + 1)) x.toNat table)

/-- A submission whose translations stand: the claim and the slot's words, word 0 last (R251, R252, R269). -/
def submitClaim (kind : Nat) (f : Fields) (a : Word) (img pa : Nat) (s₀ s : State) : Eff :=
  match s.claimRoom a with
  | none => .hold (s₀.waitFor (.queue pa))
  | some table =>
    if s.isShadow then shadowRead (fun s x _ => submitShadow kind f a img pa (x.extractLsb' 0 64) table s) s
    else submitAnswer kind f a img pa table (s.published.claimAt pa)

/-- `CPOST`, `CGATH` and `CWIN` (R269), with their traps in the order of the rule. -/
def submitEffect (kind : Nat) (f : Fields) (s : State) : Eff :=
  let a := s.val f.opA
  match s.imageAt (s.val f.opB) 64 with
  | .error t => .trap t
  | .ok img =>
    if a.toNat % 64 != 0 then .trap (0x08, a)
    else match s.translate s.me .readWrite a with
      | .error t => .trap t
      | .ok (d, ks) =>
        match s.homes [(a, d.pa)] with
        | some none => .hold s
        | some (some t) => .trap t
        | none =>
          let c := s.desc d.pa 0x28
          if s.poisoned d.pa 64 then .trap (poisonTrap d.pa, a)
          else if tierOf d.pa != .slice || !c.getLsbD 47 || c.extractLsb' 48 16 != s.ctx.sys.pid then .trap (0x07, a)
          else match s.translateAll .write (ringPages (s.desc d.pa 0x20) (64 * s.slots d.pa)) with
            | .error t => .trap t
            | .ok (pas, ks') =>
              match s.homes (pas.map fun pa => (a, pa)) with
              | some none => .hold s
              | some (some t) => .trap t
              | none => submitClaim kind f a img d.pa s (s.keep (ks ++ ks'))

/-- CPOST (R269). -/
def execCpost (f : Fields) (s : State) : Host.Outcome State Fault Refusal := issue (.cpost f) f (submitEffect 0 f) s

/-- CGATH (R269). -/
def execCgath (f : Fields) (s : State) : Host.Outcome State Fault Refusal := issue (.cgath f) f (submitEffect 1 f) s

/-- CWIN (R269). -/
def execCwin (f : Fields) (s : State) : Host.Outcome State Fault Refusal := issue (.cwin f) f (submitEffect 2 f) s

/-- CLINK (R270): NEXT and LINK as one effect. -/
def clinkEffect (f : Fields) (s : State) : Eff :=
  let a := s.val f.opA
  let b := s.val f.opB
  match s.lmemCheck a 64 true with
  | .error t => .trap t
  | .ok pl =>
    if pl != .store && pl != .spad then .trap (0x05, a)
    else if b.toNat % 64 != 0 then .trap (0x08, b)
    else match s.footprint pl a.toNat 64 true with
      | some t => .trap t
      | none =>
        if s.storeHeld pl a.toNat 64 then .hold s
        else
          let s := s.caughtUp
          let w0 : Word := (BitVec.ofNat 64 (s.lread pl a.toNat 8) &&& ~~~(1#64 <<< 60)) ||| (bit01 (b != 0) <<< 60)
          .ok ((s.dataWrite pl (a.toNat + 56) 8 b.toNat).dataWrite pl a.toNat 8 w0.toNat)

/-- CLINK (R270). -/
def execClink (f : Fields) (s : State) : Host.Outcome State Fault Refusal := issue (.clink f) f (clinkEffect f) s

/-- The job has named the buffer in a packet that it has read. -/
def Job.uses (j : Job) (b : Nat) : Bool :=
  (j.ssp == 3 && (j.word 1).toNat == b) || (j.dsp == 3 && (j.word 2).toNat == b) || j.bufs.any (·.buf == b)

/-- A started job, which has not passed its stamp stage, names a circular buffer, or a core waits in `CBGET` on it (R271). -/
def State.bufferBusy (s : State) (b : Nat) : Bool :=
  (s.cb b).waiting != 0 || s.cl.jobs.any fun j => (j.started || j.link != 0) && j.uses b

/-- CBINIT (R271). -/
def cbinitEffect (f : Fields) (s : State) : Eff :=
  let b := (s.val f.opD).toNat
  let a := s.val f.opA
  if s.bufferBusy b then .hold s
  else .ok (s.setCb b { init := true, config := a, free := (a.extractLsb' 40 8).toNat, fill := 0, cp := 0, ep := 0, relp := 0, done := 0, taken := [], waiting := 0 })

/-- CBINIT (R271). -/
def execCbinit (f : Fields) (s : State) : Host.Outcome State Fault Refusal := issue (.cbinit f) f (cbinitEffect f) s

/-- The core takes the slot at CP (R264, R272); none when it must wait. -/
def CircBuf.coreTake (c : CircBuf) : Option (CircBuf × Nat) :=
  let cp := if c.slots = 0 then 0 else (c.cp + 1) % c.slots
  let taken := c.cp :: c.taken
  if c.outbound then (if c.free = 0 then none else some ({ c with free := c.free - 1, cp, taken }, c.cp))
  else if c.fill = 0 then none else some ({ c with fill := c.fill - 1, cp, taken }, c.cp)

/-- CBGET (R272). -/
def cbgetEffect (f : Fields) (s : State) : Eff :=
  let b := (s.val f.opA).toNat
  let c := s.cb b
  if !c.init then .trap (0x02, encodingVal 4 0x226)
  else match c.coreTake with
    | none => .hold (s.waitFor (.slot b))
    | some (c, k) => .ok ((s.published.endWait.setCb b c).setS (some 1) f.opD (BitVec.ofNat 64 (c.base + c.size * k)))

/-- CBGET (R272). -/
def execCbget (f : Fields) (s : State) : Host.Outcome State Fault Refusal := issue (.cbget f) f (cbgetEffect f) s

/-- RELP advances over the slots whose DONE bits are set (R272). -/
def CircBuf.release : Nat → CircBuf → CircBuf
  | 0, c => c
  | n + 1, c =>
    if c.done.getLsbD c.relp then
      let c := { c with done := c.done &&& ~~~(1#256 <<< c.relp), relp := if c.slots = 0 then 0 else (c.relp + 1) % c.slots }
      CircBuf.release n (if c.outbound then { c with fill := c.fill + 1 } else { c with free := c.free + 1 })
    else c

/-- A slot that `CBGET` handed out is returned (R272). -/
def CircBuf.put (c : CircBuf) (k : Nat) : CircBuf :=
  CircBuf.release c.slots { c with done := c.done ||| (1#256 <<< k), taken := c.taken.erase k }

/-- CBPUT (R272). -/
def cbputEffect (f : Fields) (s : State) : Eff :=
  let b := (s.val f.opA).toNat
  let c := s.cb b
  if !c.init then .trap (0x02, encodingVal 4 0x225)
  else match c.taken.find? fun k => s.val f.opB == BitVec.ofNat 64 (c.base + c.size * k) with
    | none => .trap (0x02, encodingVal 5 0x225)
    | some k => .ok (s.published.setCb b (c.put k))

/-- CBPUT (R272). -/
def execCbput (f : Fields) (s : State) : Host.Outcome State Fault Refusal := issue (.cbput f) f (cbputEffect f) s

/-! ### Events -/

/-- QUEUE_CLAIM (R251): another agent reads CLAIM. -/
def execQueueClaim (pa : Nat) (s : State) : Host.Outcome State Fault Refusal := event (fun s => (s.claimAt pa).1) s

/-- QUEUE_STAT_WRITE (R252). -/
def execQueueStatWrite (pa : Nat) (v : Word) (s : State) : Host.Outcome State Fault Refusal :=
  event (fun s => (s.homeStore (pa + 0x30) 8 v.toNat).restartQueues) s

/-- PACKET_READ (R252). -/
def execPacketRead (q : Nat) (s : State) : Host.Outcome State Fault Refusal := event (·.readPacket q) s

/-- COPY_JOB_START (R265). -/
def execCopyJobStart (j : Nat) (s : State) : Host.Outcome State Fault Refusal := event (·.startJob j) s

/-- COPY_BURST (R266). -/
def execCopyBurst (j : Nat) (s : State) : Host.Outcome State Fault Refusal := event (·.burstJob j) s

/-- LINK_PACKET_READ (R263). -/
def execLinkPacketRead (j : Nat) (s : State) : Host.Outcome State Fault Refusal := event (·.linkJob j) s

/-- CLIP_MESSAGE (R260). -/
def execClipMessage (j : Nat) (s : State) : Host.Outcome State Fault Refusal := event (·.clipMsg j) s

/-- STAMP_WRITE (R261). -/
def execStampWrite (j : Nat) (s : State) : Host.Outcome State Fault Refusal := event (·.stampJob j) s

end Sys2Proof.Machine
end

