-- ==== Sys2Proof/Machine/Gears.lean ====
section
/-! DEFINITION. Gears, handovers and the power controller (chapter 18), with the sensors and refreshes that the controller steps
(R205, R206) and the thermal stages (R404). -/

namespace Sys2Proof.Machine

/-! ### The gear (R341) -/

def State.setGear (g : Gear) (s : State) : State := { s with cl := { s.cl with gear := g } }

/-- The end of a handover (R342): the clock resumes at the plain period of the new gear, and a sag hold is over (R354). KGOV and
GEAR.SUB change at interval boundaries only (R364). -/
def State.newGear (n : Bool) (s : State) : State :=
  let s := s.setGear { s.cl.gear with n, handover := none, sag := false, sagLeft := 0 }
  { s with core := { s.core with frac := 0 } }.trace 5 s.gearWord

/-- Every slice pass in progress completes at the old clock (R342); the macros hold at most 16. -/
def State.endPasses (s : State) : State :=
  let last := (s.cl.arb.flying.map (·.2.2)).foldl max s.core.cyc
  (List.range 16).foldl (fun s _ => s.finishPass) (s.advance (last - s.core.cyc))

/-- Every burst in progress completes at the old clock (R342): each has at most 64 elements. -/
def State.endBursts (s : State) : State :=
  (List.range s.cl.jobs.length).foldl (fun s i => (List.range 64).foldl (fun s _ =>
    if (s.job i).any fun j => j.pos < j.burstEnd then s.burstJob i else s) s) s

/-- A whole handover, within an instruction (R342, R343): 400 ns are 800 fabric cycles. -/
def State.handOver (n : Bool) (s : State) : State := if n == s.cl.gear.n then s else (s.endBursts.endPasses.fabric 800).newGear n

/-- A handover's clock stops, unless one is in progress, the gear stays, or a slice pass or a burst has not completed (R342). -/
def State.startHandover (n : Bool) (s : State) : State :=
  if s.cl.gear.handover.isSome || n == s.cl.gear.n || s.passing then s
  else s.setGear { s.cl.gear with handover := some (n, s.pkg.cycle + 800) }

/-- GEAR (R343). -/
def gearEffect (n : Bool) (f : Fields) (s : State) : Eff :=
  let s := { s with ctx := { s.ctx with sys := { s.ctx.sys with gearReq := n } } }
  let s := if s.exchanging then s else s.handOver s.requiredGear
  .ok (s.setS (some 1) f.opD s.gearWord)

/-- GEAR.F (R343). -/
def execGearF (f : Fields) (s : State) : Host.Outcome State Fault Refusal := issue (.gearF f) f (gearEffect false f) s

/-- GEAR.N (R343). -/
def execGearN (f : Fields) (s : State) : Host.Outcome State Fault Refusal := issue (.gearN f) f (gearEffect true f) s

/-- GEAR_LIFT (R344). -/
def State.liftGear (on : Bool) (s : State) : State :=
  if !s.liftable on || s.passing then s
  else
    let s := s.setGear { s.cl.gear with lift := on }
    s.startHandover (if on && s.pkg.stage < 2 then false else s.restGear)

/-- RAIL_HANDOVER (R342). -/
def State.changeRail (n : Bool) (s : State) : State := if s.gearDue && n == s.requiredGear then s.startHandover n else s

/-- HANDOVER_COMPLETE (R342): the 400 ns have passed. -/
def State.endHandover (s : State) : State :=
  match s.cl.gear.handover with
  | none => s
  | some (n, due) => (s.fabric (due - s.pkg.cycle)).newGear n

/-! ### Sensors (R205, R347, R409) and stages (R404) -/

/-- What SENSINJ makes a sensor read; none where it reads its own measurement. -/
def State.injectedAt (s : State) (die kind sensor : Nat) : Option (BitVec 8) :=
  ((s.pkg.injected.find? fun x => x.1 == die && x.2.1 == kind && (x.2.2.1 == sensor || x.2.2.1 == 0xFFF)).map (·.2.2.2)).join

/-- The entries of SENSINJ for some sensors of a kind, down to the latest that names them all; whether there is one that injects
and none that has been released since. -/
def injections (die kind : Nat) (sel : Nat → Bool) : List (Nat × Nat × Nat × Option (BitVec 8)) → List (BitVec 8) × Bool
  | [] => ([], false)
  | (d, k, n, t) :: rest =>
    if d != die || k != kind || !(n == 0xFFF || sel n) then injections die kind sel rest
    else if n = 0xFFF then (t.toList, t.isSome)
    else
      let r := injections die kind sel rest
      (t.toList ++ r.1, t.isSome && r.2)

/-- The highest reading of some sensors of a kind on a die: an injected one where every sensor is injected, and else with the latest
real readings what is measured and free (R347). -/
def State.hottest (s : State) (die kind : Nat) (sel : Nat → Bool) : Nat :=
  let r := injections die kind sel s.pkg.injected
  let real := (s.pkg.readings.filter fun x => x.1 == die && x.2.1 == kind && sel x.2.2.1 && (s.injectedAt die kind x.2.2.1).isNone).map
    fun x => x.2.2.2
  let known := (r.1 ++ real).foldl (fun m x => max m x.toNat) 0
  if r.2 then known else max known (Config.measured (16 * s.tick + 4 * kind + die)).toNat

/-- The junction sensors of this cluster among those of its die: which they are is a property of the part. -/
def State.mySensors (s : State) (n : Nat) : Bool := Config.sensorOf s.cl.index n

/-- The threshold that a refresh multiplier code has passed (R205). -/
def refreshLevel (code : Nat) : Nat := if code ≤ 1 then 85 else 95

/-- The refreshes in progress in a layer. -/
def State.refreshingNow (s : State) (i : Nat) : List (Nat × Nat × Nat) :=
  (((List.range 4096).filter fun c => clusterDie (c / 8) == i / 2).map fun c => (c, i % 2, s.refreshEnds (c, i % 2))).filter
    fun x => s.pkg.cycle < x.2.2

/-- A layer's multiplier is set; when it changes, the phases of its refreshes are new, and a refresh in progress ends when it was to end
(R206). -/
def State.setMult (i m : Nat) (s : State) : State :=
  if (vget s.pkg.mult i 0).toNat = m then s
  else { s with pkg := { s.pkg with
    mult := vset s.pkg.mult i (BitVec.ofNat 2 m)
    multAt := vset s.pkg.multAt i s.pkg.cycle
    blocked := s.pkg.blocked ++ s.refreshingNow i
    refreshes := s.pkg.refreshes.filter fun x => !(2 * clusterDie (x.1 / 8) + x.2.1 == i) } }

/-- A reading of a DRAM layer (R205): the multiplier rises at once, and the interval is no longer one below the threshold. -/
def State.noteDram (die layer r : Nat) (s : State) : State :=
  let i := die * 2 + layer
  let m := max (vget s.pkg.mult i 0).toNat (if 95 < r then 2 else if 85 < r then 1 else 0)
  let s := s.setMult i m
  { s with pkg := { s.pkg with
    below := vset s.pkg.below i (vget s.pkg.below i false && r + 2 ≤ refreshLevel m) } }

/-- A junction reading enters the stages at their levels (R404). -/
def State.noteJunction (r : Nat) (s : State) : State :=
  let s := { s with pkg := { s.pkg with hot := s.pkg.hot || 105 ≤ r } }
  let raise := fun (k : Nat) (s : State) => if s.core.control || s.core.run == .free then s else
    s.request fun q => { q with emergency := some k }
  let s := if 110 ≤ r && s.pkg.stage = 0 then
      let s := { s with pkg := { s.pkg with stage := 1 } }.sherd 4 1
      let s := { s.setGear { s.cl.gear with cap := true } with core := { s.core with frac := 0 } }
      if Config.stage1Traps then raise 1 s else s
    else s
  let s := if 118 ≤ r && s.pkg.stage < 2 then raise 2 ({ s with pkg := { s.pkg with stage := 2 } }.sherd 4 2) else s
  if 125 ≤ r then { s with pkg := { s.pkg with power := false } } else s

/-- A reading of a sensor (R205, R404). -/
def State.note (die kind r : Nat) (s : State) : State := if kind < 2 then s.noteDram die kind r else s.noteJunction r

/-- SENSOR_READING (R205): a real reading; one that an injection replaces is not seen. -/
def State.sensor (die kind n : Nat) (t : BitVec 8) (s : State) : State :=
  if (s.injectedAt die kind n).isSome || 3 < die || 2 < kind then s
  else { s with pkg := { s.pkg with
    readings := (die, kind, n, t) :: s.pkg.readings.filter fun x => !(x.1 == die && x.2.1 == kind && x.2.2.1 == n) } }.note die kind t.toNat

/-- A write of SENSINJ (R409): an injected reading acts as a real one. -/
def State.inject (x : Word) (s : State) : State :=
  let die := (x.extractLsb' 22 2).toNat
  let kind := (x.extractLsb' 20 2).toNat
  let n := (x.extractLsb' 8 12).toNat
  let t : Option (BitVec 8) := if x.getLsbD 63 then some (x.extractLsb' 0 8) else none
  let keep := s.pkg.injected.filter fun e => !(e.1 == die && e.2.1 == kind && (e.2.2.1 == n || n == 0xFFF))
  let s := { s with pkg := { s.pkg with sensinj := x, injected := (die, kind, n, t) :: keep } }
  match t with
  | some t => s.note die kind t.toNat
  | none => s

/-- The stage-1 reading still stands: some known junction reading is at 105 °C or above (R404). -/
def State.stillHot (s : State) : Bool :=
  (List.range 4).any (fun d => (injections d 2 (fun _ => true) s.pkg.injected).1.any fun t => 105 ≤ t.toNat) ||
    s.pkg.readings.any fun x => x.2.1 == 2 && (s.injectedAt x.1 2 x.2.2.1).isNone && 105 ≤ x.2.2.2.toNat

/-! ### The control interval -/

/-- The sub-level and its cause (R346); stage 1 holds F3 and revokes the boost grant (R404). -/
def subLevel (stage c t : Nat) (boost : Bool) : Nat × Nat :=
  let b := boost && stage = 0
  let lv := if max c t = 0 && !b then 1 else min (max c t) 3
  (if stage = 0 then lv else 3, if t ≤ c && 1 ≤ c then 1 else if 1 ≤ t then 2 else if !b then 3 else 0)

/-- CONE (Table 18-4). -/
def State.newCone (s : State) (t : Nat) : Word :=
  let d := s.core.die % 4
  let byte := fun (x at' : Nat) => BitVec.ofNat 64 (min x 255) <<< at'
  let all := fun (_ : Nat) => true
  byte (max (s.hottest d 0 all) (s.hottest d 1 all)) 56 ||| (BitVec.ofNat 64 (vget s.pkg.mult (2 * d + 1) 0).toNat <<< 50) |||
    (BitVec.ofNat 64 (vget s.pkg.mult (2 * d) 0).toNat <<< 48) ||| byte (s.hottest d 2 s.mySensors) 40 ||| (BitVec.ofNat 64 t <<< 32) |||
    ((Config.allowance s.tick).zeroExtend 64 <<< 16) ||| (Config.power s.tick).zeroExtend 64

/-- KGOV bits 31:0 (Table 18-5): the budget under current ceiling 4 is free, from 1 to 512 and below the starts of the last interval
(R350); after fewer than two starts it is 1. -/
def State.newKgov (s : State) (c : Nat) (dly : BitVec 8) (stag : BitVec 2) : BitVec 32 :=
  let budget := if c = 4 && !s.cl.gear.n then 1 + Config.budgetCut s.tick % max 1 (min 512 (s.cl.arb.starts - 1)) else 0
  (stag.zeroExtend 32 <<< 28) ||| (dly.zeroExtend 32 <<< 20) ||| ((if s.cl.gear.n then 0 else 128#32) <<< 10) ||| BitVec.ofNat 32 budget

/-- The refresh multipliers at the boundary (R205): one falls a step after a whole interval 2 °C below its threshold. -/
def State.stepRefresh (s : State) : State :=
  (List.range 8).foldl (fun s i =>
    let r := s.hottest (i / 2) (i % 2) fun _ => true
    let s := s.noteDram (i / 2) (i % 2) r
    let m := (vget s.pkg.mult i 0).toNat - (if vget s.pkg.below i false then 1 else 0)
    let s := s.setMult i m
    { s with pkg := { s.pkg with
      below := vset s.pkg.below i (decide (r + 2 ≤ refreshLevel m)) } }) s

/-- The number of a cycle's 10 µs interval. DESIGN CHOICE (log entry 42): the boundaries lie at the multiples of 20,000 fabric cycles. -/
def State.intervalDue (s : State) : Bool := s.pkg.cycle / 20000 != s.pkg.intervals

/-- CONTROL_INTERVAL (R346, R348 to R350, R205, R234, R404), at the boundary of an interval. -/
def State.interval (c t : Nat) (boost : Bool) (dly : BitVec 8) (stag : BitVec 2) (s : State) : State :=
  if !s.intervalDue then s
  else
  let c := min c 4
  let t := min t 3
  let stage := if s.pkg.stage = 1 && !s.pkg.hot then 0 else s.pkg.stage
  let s := { s with pkg := { s.pkg with
    stage, hot := s.stillHot, intervals := s.pkg.cycle / 20000
    predictor := (s.pkg.predictor.map fun (x : Nat × Nat) => (x.1, x.2 - 1)).filter (·.2 != 0) } }.stepRefresh
  let lv := subLevel stage c t boost
  let g := { s.cl.gear with cap := stage != 0 }
  let cone := s.newCone t
  let kgov := s.newKgov c dly stag
  let s := { s with cl := { s.cl with arb := { s.arbiter with starts := 0 } } }
  if g.n then s.setGear { g with cone, kgov }
  else
    let sub := BitVec.ofNat 2 lv.1
    { s.setGear { g with cone, kgov, sub, cause := BitVec.ofNat 3 lv.2 } with
      core := { s.core with frac := if sub == g.sub && g.cap == s.cl.gear.cap then s.core.frac else 0 } }

/-! ### Events -/

/-- GEAR_LIFT (R344). -/
def execGearLift (on : Bool) (s : State) : Host.Outcome State Fault Refusal := event (·.liftGear on) s

/-- RAIL_HANDOVER (R342). -/
def execRailHandover (n : Bool) (s : State) : Host.Outcome State Fault Refusal := event (·.changeRail n) s

/-- HANDOVER_COMPLETE (R342). -/
def execHandoverComplete (s : State) : Host.Outcome State Fault Refusal := event (·.endHandover) s

/-- CONTROL_INTERVAL (R346). -/
def execControlInterval (c t : Nat) (boost : Bool) (dly : BitVec 8) (stag : BitVec 2) (s : State) : Host.Outcome State Fault Refusal :=
  event (·.interval c t boost dly stag) s

/-- SAG_STRETCH (R354). -/
def State.stretch (s : State) : State :=
  if s.cl.gear.sag || s.cl.gear.handover.isSome then s else s.setGear { s.cl.gear with sag := true, sagLeft := 16 }

/-- SAG_STRETCH (R354). -/
def execSagStretch (s : State) : Host.Outcome State Fault Refusal := event (·.stretch) s

/-- SAG_HOLD_END is possible. -/
def State.sagOver (s : State) : Bool := s.cl.gear.sag && s.cl.gear.sagLeft == 0

/-- SAG_HOLD_END (R354). -/
def State.endSag (s : State) : State := if s.sagOver then s.setGear { s.cl.gear with sag := false } else s

/-- SAG_HOLD_END (R354). -/
def execSagHoldEnd (s : State) : Host.Outcome State Fault Refusal := event (·.endSag) s

/-- SENSOR_READING (R205). -/
def execSensorReading (die kind sensor : Nat) (temp : BitVec 8) (s : State) : Host.Outcome State Fault Refusal :=
  event (·.sensor die kind sensor temp) s

/-- DRAM_REFRESH (R206): at its start the half-channel is blocked for 240 fabric cycles. -/
def State.refresh (channel layer : Nat) (s : State) : State :=
  let start := s.nextRefresh channel layer
  if s.pkg.cycle < start || 4096 ≤ channel || 1 < layer then s
  else { s with pkg := { s.pkg with
    refreshes := (channel, layer, start) :: s.pkg.refreshes.filter fun x => !(x.1 == channel && x.2.1 == layer)
    blocked := (channel, layer, start + 240) :: s.pkg.blocked.filter fun b => !(b.1 == channel && b.2.1 == layer) } }

/-- DRAM_REFRESH (R206). -/
def execDramRefresh (channel layer : Nat) (s : State) : Host.Outcome State Fault Refusal := event (·.refresh channel layer) s

/-- REFRESH_END (R206). -/
def State.endRefresh (channel layer : Nat) (s : State) : State :=
  { s with pkg := { s.pkg with
    blocked := s.pkg.blocked.filter fun b => !(b.1 == channel && b.2.1 == layer && b.2.2 ≤ s.pkg.cycle) } }

/-- REFRESH_END (R206). -/
def execRefreshEnd (channel layer : Nat) (s : State) : Host.Outcome State Fault Refusal := event (·.endRefresh channel layer) s

end Sys2Proof.Machine
end

