-- ==== Sys2Proof/Machine/Sync.lean ====
section
/-! DEFINITION. Atomics, ranked reductions, full/empty words, waiting and fences (chapter 12), with the events of other agents at
homes and in the event unit. -/

namespace Sys2Proof.Machine

/-! ### Atomics -/

/-- A float atomic. -/
def isFloatAtom : AtomOp → Bool | .fadd | .fmin | .fmax => true | _ => false

/-- The page's format takes the atomic (R228). -/
def atomFits (op : AtomOp) (fmt : BitVec 5) : Bool := !isFloatAtom op || fmt == 0x08 || fmt == 0x09

/-- The station's translation of an atomic (R228): the page's FMT gives the width. DESIGN CHOICE (log entry 64): an undeclared access is found
before a misaligned one, as R99 orders a float-typed access. -/
def atomicReached (op : AtomOp) (ea : Word) (s : State) : Except Trap Reached :=
  match s.translate s.me .readWrite ea with
  | .error t => .error t
  | .ok (p, ks) =>
    match atomicWidth p.fmt with
    | none => .error (0x07, ea)
    | some n =>
      if !atomFits op p.fmt then .error (0x07, ea)
      else if !s.declared .readWrite p.pa then .error (0x0A, ea)
      else if ea.toNat % n != 0 then .error (0x08, ea)
      else .ok ⟨[⟨0, ea, p.pa, n, 0, none, 0⟩], ks, p.fmt⟩

/-- The translation of an access to a slice word or block of `n`-byte alignment (R235, R238). DESIGN CHOICE (log entry 64): an undeclared
access is found before a misaligned one. -/
def sliceReached (n : Nat) (ea : Word) (s : State) : Except Trap Reached :=
  match s.translate s.me .readWrite ea with
  | .error t => .error t
  | .ok (p, ks) =>
    if tierOf p.pa != .slice then .error (0x07, ea)
    else if !s.declared .readWrite p.pa then .error (0x0A, ea)
    else if ea.toNat % n != 0 then .error (0x08, ea)
    else .ok ⟨[⟨0, ea, p.pa, 8, 0, none, 0⟩], ks, 0x1F⟩

/-- An accepted access that works at its home with the value `b` (R231, R235, R238): posted when D is zr; a shadow's is not
performed, and returns what its primary's returned (R312). -/
def acceptHome (kind : GKind) (ea b : Word) (dest : Dest) (s : State) (r : Reached) : Eff :=
  let sign := fun (s : State) => r.parts.foldl (fun s p => s.sign p.va.toNat p.n (b.toNat % 2 ^ (8 * p.n))) s
  if s.isShadow then
    shadowRead (fun s x fl =>
      let s := sign s
      match dest with
      | .s n => .ok ({ s with ctx := s.ctx.land (.flags fl) }.putSLocked n (x.extractLsb' 0 64))
      | _ => .ok s) s
  else
    .ok ((sign s).enqueue
      { va := ea, kind, parts := r.parts, ty := none, fmt := r.fmt, top := s.top, lw := 64, rm := s.rmode, dest
        table := [], next := 0, performed := false, got := [], value := 0, flags := 0, bad := false })

/-- An atomic (R228 to R231). -/
def atomicEffect (op : AtomOp) (f : Fields) (s : State) : Eff :=
  let ea := s.val f.opA
  let b := s.val f.opB
  let d := s.val f.opD
  let dest := scalarDest f.opD
  station (dest != .none) 1 (atomicReached op ea) s fun s r =>
    acceptHome (.atomic op r.fmt s.rmode b d f.sel) ea b dest s r

/-- AADD (R229). -/
def execAadd (f : Fields) (s : State) : Host.Outcome State Fault Refusal := issue (.aadd f) f (atomicEffect .add f) s
/-- AAND (R229). -/
def execAand (f : Fields) (s : State) : Host.Outcome State Fault Refusal := issue (.aand f) f (atomicEffect .and f) s
/-- AOR (R229). -/
def execAor (f : Fields) (s : State) : Host.Outcome State Fault Refusal := issue (.aor f) f (atomicEffect .or f) s
/-- AXOR (R229). -/
def execAxor (f : Fields) (s : State) : Host.Outcome State Fault Refusal := issue (.axor f) f (atomicEffect .xor f) s
/-- AMIN (R229). -/
def execAmin (f : Fields) (s : State) : Host.Outcome State Fault Refusal := issue (.amin f) f (atomicEffect .min f) s
/-- AMAX (R229). -/
def execAmax (f : Fields) (s : State) : Host.Outcome State Fault Refusal := issue (.amax f) f (atomicEffect .max f) s
/-- AMINU (R229). -/
def execAminu (f : Fields) (s : State) : Host.Outcome State Fault Refusal := issue (.aminu f) f (atomicEffect .minu f) s
/-- AMAXU (R229). -/
def execAmaxu (f : Fields) (s : State) : Host.Outcome State Fault Refusal := issue (.amaxu f) f (atomicEffect .maxu f) s
/-- AFADD (R229). -/
def execAfadd (f : Fields) (s : State) : Host.Outcome State Fault Refusal := issue (.afadd f) f (atomicEffect .fadd f) s
/-- AFMIN (R230). -/
def execAfmin (f : Fields) (s : State) : Host.Outcome State Fault Refusal := issue (.afmin f) f (atomicEffect .fmin f) s
/-- AFMAX (R230). -/
def execAfmax (f : Fields) (s : State) : Host.Outcome State Fault Refusal := issue (.afmax f) f (atomicEffect .fmax f) s
/-- ASWP (R229). -/
def execAswp (f : Fields) (s : State) : Host.Outcome State Fault Refusal := issue (.aswp f) f (atomicEffect .swp f) s
/-- ACAS (R229): D holds the expected value on entry. -/
def execAcas (f : Fields) (s : State) : Host.Outcome State Fault Refusal := issue (.acas f) f (atomicEffect .cas f) s

/-- REDA (R238): the rank is bits 15:0 of D. -/
def redaEffect (f : Fields) (s : State) : Eff :=
  let ea := s.val f.opA
  let b := s.val f.opB
  let rank := (s.val f.opD).extractLsb' 0 16
  let dest := scalarDest f.opD
  station (dest != .none) 4096 (sliceReached 64 ea) s fun s r => acceptHome (.reda rank b) ea b dest s r

/-- REDA (R238). -/
def execReda (f : Fields) (s : State) : Host.Outcome State Fault Refusal := issue (.reda f) f (redaEffect f) s

/-- PUT (R235). -/
def putEffect (f : Fields) (s : State) : Eff :=
  let ea := s.val f.opA
  let b := s.val f.opB
  let dest := scalarDest f.opD
  station (dest != .none) 1 (sliceReached 8 ea) s fun s r => acceptHome (.put b) ea b dest s r

/-- PUT (R235). -/
def execPut (f : Fields) (s : State) : Host.Outcome State Fault Refusal := issue (.put f) f (putEffect f) s

/-! ### Waits on memory -/

/-- What TAKE and TAKE.K do at the slice (R235, R236), after every access that the core issued before. -/
def takeAtHome (keep : Bool) (f : Fields) (ea : Word) (s : State) (r : Reached) : Eff :=
  match r.parts with
  | [] => .hold s
  | p :: _ =>
    if s.isShadow then reading 0 (fun s x => .ok (s.setS (some 1) f.opD (BitVec.ofNat 64 x))) s
    else
      let s := s.performAll
      if s.poisoned p.pa 8 then .trap (poisonTrap p.pa, ea)
      else match s.takeAt s.cl.index p.pa keep none with
        | .value s v => .ok (s.setS (some 1) f.opD v)
        | .queued s => .hold (s.waitFor (.take p.pa ea keep))
        | .overflow => .trap (0x12, ea)

/-- TAKE and TAKE.K (R235): a served wait completes; one in the deferred list goes on. -/
def takeEffect (keep : Bool) (f : Fields) (s : State) : Eff :=
  let ea := s.val f.opA
  onServed s (fun v s => .ok (s.setS (some 1) f.opD v)) <|
    if s.core.wait.isSome then .hold s
    else station true 0 (sliceReached 8 ea) s (takeAtHome keep f ea)

/-- TAKE (R235). -/
def execTake (f : Fields) (s : State) : Host.Outcome State Fault Refusal := issue (.take f) f (takeEffect false f) s

/-- TAKE.K (R235). -/
def execTakeK (f : Fields) (s : State) : Host.Outcome State Fault Refusal := issue (.takeK f) f (takeEffect true f) s

/-- MWAIT with a word that satisfies it (R241): the TYPED bit of a stamp is checked against TOP (R78, R261). -/
def mwaitDone (f : Fields) (w : Word) (s : State) : Eff :=
  if w.getLsbD 59 && w.getLsbD 60 != s.top then .trap (mismatch (w.getLsbD 60) 0) else .ok (s.setS (some 1) f.opD w)

/-- MWAIT reads its word, and completes or waits (R241). -/
def mwaitRead (f : Fields) (k : WaitKind) (ne : Bool) (w b : Word) (s₀ s : State) : Eff :=
  if satisfies ne w b then mwaitDone f w s.endWait else .hold (s₀.waitFor k)

/-- MWAIT of a global word: the word's reads need R, a queue's CLAIM R and W (R251, R360), and none is checked against a transaction (R285).
DESIGN CHOICE (log entry 64): misalignment comes before the translation traps, as R99 orders an integer-typed access. -/
def mwaitReached (ea : Word) (s : State) : Except Trap Reached :=
  if ea.toNat % 8 != 0 then .error (0x08, ea)
  else match s.translate s.me .read ea with
    | .error t => .error t
    | .ok (p, ks) =>
      match s.translate s.me (s.claimKind .read p.pa 8) ea with
      | .error t => .error t
      | .ok _ => .ok ⟨[⟨0, ea, p.pa, 8, 0, none, 0⟩], ks, 0x1F⟩

/-- MWAIT of a global word at its home. DEDUCED (log entry 36): of a queue's CLAIM, which nothing writes, it makes one read, which claims
(R251). -/
def mwaitGlobal (f : Fields) (ea b : Word) (ne : Bool) (s : State) (r : Reached) : Eff :=
  match r.parts with
  | [] => .hold s
  | p :: _ =>
    if s.isShadow then shadowRead (fun s x _ => mwaitDone f (x.extractLsb' 0 64) s) s
    else if s.refreshHolds [p.pa] then .hold s
    else
      let s := s.performAll.touch s.cl.index p.pa
      if s.poisoned p.pa 8 then .trap (poisonTrap p.pa, ea)
      else
        let t := s.streamWord p.pa
        mwaitRead f (.mwait p.pa b ne) ne (BitVec.ofNat 64 t.2) b t.1 t.1

/-- MWAIT (R241): selector bit 0 is .NE and bit 1 is .L. -/
def mwaitEffect (f : Fields) (s : State) : Eff :=
  let ea := s.val f.opA
  let b := s.val f.opB
  let ne := f.sel.getLsbD 0
  onServed s (mwaitDone f) <|
    if f.sel.getLsbD 1 then
      match s.lmemCheck ea 8 false with
      | .error t => .trap t
      | .ok pl =>
        if pl != .store && pl != .spad then .trap (0x05, ea)
        else match s.footprint pl ea.toNat 8 false with
          | some t => .trap t
          | none =>
            let s' := s.caughtUp
            if pl == .spad && s'.isShadow then shadowRead (fun s x _ => mwaitDone f (x.extractLsb' 0 64) s) s'
            else mwaitRead f (.mwaitLocal ea.toNat b ne) ne (BitVec.ofNat 64 (s'.lread pl ea.toNat 8)) b s' s'
    else station true 0 (mwaitReached ea) s (mwaitGlobal f ea b ne)

/-- MWAIT (R241). -/
def execMwait (f : Fields) (s : State) : Host.Outcome State Fault Refusal := issue (.mwait f) f (mwaitEffect f) s

/-! ### The event unit -/

/-- EVWAIT (R245). -/
def evwaitEffect (f : Fields) (s : State) : Eff :=
  s.evEffect (.event (s.val f.opA).toNat) 2 fun v s => .ok (s.setS (some 1) f.opD v)

/-- EVWAIT (R245). -/
def execEvwait (f : Fields) (s : State) : Host.Outcome State Fault Refusal := issue (.evwait f) f (evwaitEffect f) s

/-- EVSIG (R245). -/
def execEvsig (f : Fields) (s : State) : Host.Outcome State Fault Refusal :=
  issue (.evsig f) f (fun s => .ok (s.published.eventSig (s.val f.opA).toNat 1)) s

/-- A context of no partition may not execute the instruction (R412). -/
def partitioned (op : BitVec 10) (s : State) (k : Eff) : Eff :=
  if s.cl.part.member then k else .trap (0x02, encodingVal 2 op)

/-- The clusters of the partition (Table 17-7). -/
def Partition.size (p : Partition) : Nat := (p.part.extractLsb' 32 10).toNat

/-- EVSIG.R (R245): a message to this cluster lands here; one to another cluster leaves this machine. -/
def evsigREffect (f : Fields) (s : State) : Eff :=
  partitioned 0x272 s <|
    let c := s.val f.opB
    if s.cl.part.size ≤ c.toNat then .trap (0x07, c)
    else if c.toNat = s.cl.part.pidx.toNat then .ok (s.published.eventSig (s.val f.opA).toNat 1)
    else .ok s.published

/-- EVSIG.R (R245). -/
def execEvsigR (f : Fields) (s : State) : Host.Outcome State Fault Refusal := issue (.evsigR f) f (evsigREffect f) s

/-- BAR (R245): the load of SYNC with its value discarded. -/
def barEffect (f : Fields) (s : State) : Eff := s.evEffect (.bar (s.val f.opA).toNat) 3 fun _ s => .ok s

/-- BAR (R245). -/
def execBar (f : Fields) (s : State) : Host.Outcome State Fault Refusal := issue (.bar f) f (barEffect f) s

/-- The members of this context's gang, by their message addresses: a member keeps its address wherever it resumes (R326). -/
def State.gangAll (s : State) : BitVec 8 := s.cl.gangMembers ||| bit8 s.ctx.address

/-- A member arrives at the gang barrier, which releases when every member has (R246); one of a saved context's gang is noted there. -/
def State.gangArrive (core : Nat) (s : State) : State :=
  let arrived := (s.cl.gangArrived ||| bit8 core) &&& s.gangAll
  if !s.gangAll.getLsbD core then
    let note := fun (g : Nat × BitVec 8 × BitVec 8 × Option GangTx) =>
      if g.2.1.getLsbD core then (g.1, g.2.1, g.2.2.1 ||| bit8 core, g.2.2.2) else g
    { s with cl := { s.cl with gangs := s.cl.gangs.map note } }
  else if s.gangAll &&& ~~~arrived == 0 then
    { s with cl := { s.cl with gangArrived := 0 } }.serve (· == WaitKind.gang) 0
  else { s with cl := { s.cl with gangArrived := arrived } }

/-- BAR.G (R246). -/
def barGEffect (s : State) : Eff :=
  onServed s (fun _ s => .ok s) <|
    if s.core.wait.isSome then .hold s
    else
      let s := (s.published.waitFor .gang).gangArrive s.ctx.address
      match s.core.wait with
      | some ⟨_, some _, _⟩ => .ok s.endWait
      | _ => .hold s

/-- BAR.G (R246). -/
def execBarG (f : Fields) (s : State) : Host.Outcome State Fault Refusal := issue (.barG f) f barGEffect s

/-! ### Fences -/

/-- Every access that the core issued has been performed at its home (R218). -/
def State.performedAll (s : State) : Bool := s.core.gq.all (·.performed)

/-- FENCE (R218, R248): every scope waits for every access of the core, as R218 permits. -/
def fenceEffect (s : State) : Eff :=
  let s := s.drainStreams
  if s.core.fence == some true || s.performedAll then .ok { s with core := { s.core with fence := none } }
  else .hold { s with core := { s.core with fence := some false } }

/-- FENCE (R248). -/
def execFence (f : Fields) (s : State) : Host.Outcome State Fault Refusal := issue (.fence f) f fenceEffect s

/-- FENCE_COMPLETE is possible. -/
def State.fenceDone (s : State) : Bool := s.core.fence == some false && s.performedAll

/-- FENCE_COMPLETE (R218). -/
def State.completeFence (s : State) : State :=
  if s.fenceDone then { s with core := { s.core with fence := some true } } else s

/-- FENCE_COMPLETE (R218). -/
def execFenceComplete (s : State) : Host.Outcome State Fault Refusal := event (·.completeFence) s

/-! ### Other cores at the event unit -/

/-- An event of another core of the cluster; this core's own accesses are instructions. -/
def State.byOther (core : Nat) (g : State → State) (s : State) : State := if core = s.core.idx then s else g s

/-- BARRIER_MASK_WRITE (R242). -/
def execBarrierMaskWrite (b : Nat) (mask : BitVec 8) (s : State) : Host.Outcome State Fault Refusal := event (·.barMask b mask) s

/-- BARRIER_SYNC (R242). -/
def execBarrierSync (b core : Nat) (s : State) : Host.Outcome State Fault Refusal :=
  event (fun s => s.byOther core (·.barArrive b core)) s

/-- MUTEX_LOCK (R243). -/
def execMutexLock (x core : Nat) (s : State) : Host.Outcome State Fault Refusal :=
  event (fun s => s.byOther core fun s => (s.mutexLock x core).1) s

/-- MUTEX_TRY (R243). -/
def execMutexTry (x core : Nat) (s : State) : Host.Outcome State Fault Refusal :=
  event (fun s => s.byOther core fun s => (s.mutexTry x core).1) s

/-- MUTEX_UNLOCK (R243). -/
def execMutexUnlock (x core : Nat) (s : State) : Host.Outcome State Fault Refusal :=
  event (fun s => s.byOther core (·.mutexUnlock x core)) s

/-- MUTEX_ERR_CLEAR (R243). -/
def execMutexErrClear (x : Nat) (s : State) : Host.Outcome State Fault Refusal :=
  event (fun s => s.setMtx x { s.mtx x with err := false }) s

/-- EVENT_PEND_WRITE (R244). -/
def execEventPendWrite (e : Nat) (v : BitVec 16) (s : State) : Host.Outcome State Fault Refusal := event (·.eventPend e v) s

/-- EVENT_SIG (R244). -/
def execEventSig (e : Nat) (n : BitVec 16) (s : State) : Host.Outcome State Fault Refusal := event (·.eventSig e n) s

/-- EVENT_WAIT (R244). -/
def execEventWait (e core : Nat) (s : State) : Host.Outcome State Fault Refusal :=
  event (fun s => s.byOther core fun s => (s.eventWait e core).1) s

/-- EVENT_MESSAGE_LAND (R245). -/
def execEventMessageLand (e : Nat) (s : State) : Host.Outcome State Fault Refusal := event (·.eventSig e 1) s

/-! ### Accesses at stations and homes -/

/-- STATION_ACCEPT (R81): a station that accepts another agent's access keeps the entries it used (R361). -/
def execStationAccept (who : Requester) (k : AccKind) (va : Word) (s : State) : Host.Outcome State Fault Refusal :=
  event (fun s => match s.translateAs false who k va with | .ok (_, ks) => s.keep ks | .error _ => s) s

/-- PAGE_WALK (R358). -/
def execPageWalk (who : Requester) (va : Word) (s : State) : Host.Outcome State Fault Refusal :=
  event (fun s => match s.translateAs false who .read va with | .ok (_, ks) => s.keep ks | .error _ => s) s

/-- The data of the `k`-th accepted access may return. A trap 0x11 that they bring waits for a context that runs (R375), and for a wait that has
been served to complete (R247). -/
def State.returnable (s : State) (k : Nat) : Bool :=
  match s.core.gq[k]? with
  | some a => a.performed && a.returns && (!a.bad || (s.core.run == .running && !s.waitServed))
  | none => false

/-- Data return to the core (R81): the destination is written, or trap 0x11 is taken at this boundary and it is not. -/
def State.returnNth (k : Nat) (s : State) : State :=
  match s.core.gq[k]? with
  | none => s
  | some a =>
    if !s.returnable k then s
    else
      let s := { s with core := { s.core with gq := s.core.gq.eraseIdx k } }
      if a.bad then s.enterTrap 0x11 a.va s.ctx.pc else s.arrive a

/-- GLOBAL_LOAD_RETURN (R81). -/
def execGlobalLoadReturn (k : Nat) (s : State) : Host.Outcome State Fault Refusal := event (·.returnNth k) s

/-- Another agent's access reaches its home: a home of this package is ready (R14). -/
def State.atHome (s : State) (pa : Nat) : Bool := s.reachable pa && (packageOf pa != s.pkg.rank || s.homeState pa == some true)

/-- An atomic of another agent (R229 to R234): its line moves or goes home, and a poisoned word stays as it is and is reported. -/
def State.otherAtomic (x : AtomForm) (fmt : BitVec 5) (pa : Nat) (b d : Word) (s : State) : State :=
  match atomicWidth fmt with
  | none => s
  | some n =>
    if !s.atHome pa || !atomFits x.op fmt || pa % n != 0 then s
    else
      let s := (s.waitRefresh [pa]).place x.cluster x.hint pa
      if s.poisoned pa n then s.uncorrectable pa else (s.atomicAt x.op fmt x.rm pa b d).1.restartQueues

/-- BANK_ALU_ATOMIC (R229): one of another agent. -/
def execBankAluAtomic (op : AtomForm) (fmt : BitVec 5) (pa : Nat) (b d : Word) (s : State) : Host.Outcome State Fault Refusal :=
  event (·.otherAtomic op fmt pa b d) s

/-- ATOMIC_LINE_MOVE (R232). -/
def execAtomicLineMove (line cluster : Nat) (s : State) : Host.Outcome State Fault Refusal :=
  event (fun s => s.lineMove (line / 64 * 64) cluster) s

/-- A line goes home: evicted, or because an agent of a cluster needs it there (R233, R234). -/
def State.lineHome (x : LineReturn) (s : State) : State :=
  match x.by' with
  | some c => s.sendHome c (x.line / 64 * 64)
  | none => s.lineReturn (x.line / 64 * 64) false

/-- ATOMIC_LINE_RETURN (R233). -/
def execAtomicLineReturn (line : LineReturn) (s : State) : Host.Outcome State Fault Refusal := event (·.lineHome line) s

/-- The arrival of a rank from another agent (R238); one that meets a poisoned word changes nothing and reports it, as the core's own
(log entry 49). -/
def State.otherArrives (cluster pa : Nat) (rank : BitVec 16) (v : Word) (s : State) : State :=
  if tierOf pa != .slice || pa % 64 != 0 || !s.atHome pa then s
  else if s.redaBad pa rank.toNat then s.uncorrectable pa
  else (s.redaAt cluster pa rank.toNat v).1

/-- REDA_ARRIVAL (R238): another rank's. -/
def execRedaArrival (pa : HomeWord) (rank : BitVec 16) (v : Word) (s : State) : Host.Outcome State Fault Refusal :=
  event (·.otherArrives pa.cluster pa.pa rank v) s

/-- A TAKE or TAKE.K of another core at its home (R235, R236). -/
def State.otherTakes (cluster pa : Nat) (keep : Bool) (core : Nat) (s : State) : State :=
  if tierOf pa != .slice || pa % 8 != 0 || !s.atHome pa then s
  else if s.poisoned pa 8 then s.uncorrectable pa
  else match s.takeAt cluster pa keep (some core) with
    | .value s _ => s
    | .queued s => s
    | .overflow => s

/-- FE_TAKE_AT_HOME (R235): another core's. -/
def execFeTakeAtHome (pa : HomeWord) (keep : Bool) (core : Nat) (s : State) : Host.Outcome State Fault Refusal :=
  event (·.otherTakes pa.cluster pa.pa keep core) s

/-- A PUT of another core at its home (R235); that of a poisoned word reports it and clears the poison, as the core's own (log entry 49). -/
def State.otherPuts (cluster pa : Nat) (v : Word) (s : State) : State :=
  if tierOf pa != .slice || pa % 8 != 0 || !s.atHome pa then s
  else ((if s.poisoned pa 8 then s.uncorrectable pa else s).putAt cluster pa v).1

/-- FE_PUT_AT_HOME (R235): another core's. -/
def execFePutAtHome (pa : HomeWord) (v : Word) (s : State) : Host.Outcome State Fault Refusal :=
  event (·.otherPuts pa.cluster pa.pa v) s

end Sys2Proof.Machine
end

