-- ==== Sys2Proof/Machine/OrderFirst.lean ====
section
/-! DEFINITION. Order-first transactions (chapter 15): the declaration set, submission, the sequencer's order, grants at the home
slices, and release. -/

namespace Sys2Proof

/-- Lexicographic order of keys (R279). -/
def TxKey.before (a b : TxKey) : Bool :=
  let rec lex : List (Nat × Nat) → Bool
    | [] => false
    | (x, y) :: rest => x < y || (x == y && lex rest)
  lex [(a.beat, b.beat), (a.cls, b.cls), (a.die, b.die), (a.clus, b.clus), (a.core, b.core), (a.seq, b.seq)]

/-- Two keys name one transaction: the beat of a key is set when the order takes it (R278, R281). -/
def TxKey.same (a b : TxKey) : Bool :=
  a.cls == b.cls && a.die == b.die && a.clus == b.clus && a.core == b.core && a.seq == b.seq && a.uid == b.uid

end Sys2Proof

namespace Sys2Proof.Machine

/-- A transaction in the order: its key and its tiles with their senses. -/
abbrev Entry := TxKey × List (Nat × Bool)

/-! ### The declaration set -/

/-- The 4 KiB granules of a region: the first, and the end. -/
def Region.span (r : Region) : Nat × Nat := (r.base.toNat / 4096, (r.base.toNat + r.len.toNat - 1) / 4096 + 1)

/-- Spans put in order of their starts. -/
def insertSpan (x : Nat × Nat) : List (Nat × Nat) → List (Nat × Nat)
  | [] => [x]
  | y :: ys => if x.1 ≤ y.1 then x :: y :: ys else y :: insertSpan x ys

/-- The distinct granules that a declaration set covers (R277, R294). -/
def coverCount (rs : List Region) : Nat :=
  ((rs.foldl (fun l r => insertSpan r.span l) []).foldl (fun (acc : Nat × Nat) x =>
    (max acc.1 x.2, acc.2 + (x.2 - max acc.1 x.1))) (0, 0)).2

/-- The transaction replaced. -/
def State.setTx (t : Tx) (s : State) : State := { s with ctx := { s.ctx with tx := t } }

/-- TDECL.R and TDECL.W (R294). -/
def tdeclEffect (write : Bool) (f : Fields) (s : State) : Eff :=
  let t := s.ctx.tx
  let decl := t.decl ++ [⟨s.val f.opA, s.val f.opB, write⟩]
  if 16 ≤ t.decl.length then .trap (0x02, encodingVal 4 0x240)
  else if 1024 < coverCount decl then .trap (0x02, encodingVal 5 0x240)
  else .ok (s.setTx { t with decl })

/-- TDECL.R (R294). -/
def execTdeclR (f : Fields) (s : State) : Host.Outcome State Fault Refusal := issue (.tdeclR f) f (tdeclEffect false f) s

/-- TDECL.W (R294). -/
def execTdeclW (f : Fields) (s : State) : Host.Outcome State Fault Refusal := issue (.tdeclW f) f (tdeclEffect true f) s

/-- TDECL.CLR (R294). -/
def execTdeclClr (f : Fields) (s : State) : Host.Outcome State Fault Refusal :=
  issue (.tdeclClr f) f (fun s => .ok (s.setTx { s.ctx.tx with decl := [] })) s

/-! ### The order -/

/-- Entries in key order (R279). -/
def insertEntry (x : Entry) : List Entry → List Entry
  | [] => [x]
  | y :: ys => if x.1.before y.1 then x :: y :: ys else y :: insertEntry x ys

def State.setSeq (q : Sequencer) (s : State) : State := { s with pkg := { s.pkg with seq := q } }

/-- The sequencer knows the transaction. -/
def Sequencer.knows (q : Sequencer) (k : TxKey) : Bool :=
  q.batch.any (·.1.same k) || q.held.any (·.1.same k) || q.closed.any (fun c => c.2.any (·.1.same k)) || q.reqs.any (·.key.same k)

/-- The submission of this context has not reached the sequencer. -/
def State.submitting (s : State) : Bool :=
  s.ctx.tx.state == 1 && !s.ctx.tx.granted && !s.pkg.seq.knows s.ctx.tx.key

/-- The address of the gang's member 0 (R279, R295). -/
def State.leader (s : State) : Nat := ((List.range 8).find? fun i => s.gangAll.getLsbD i).getD s.ctx.address

/-- The member 0 of a gang, by its address. -/
def firstMember (members : BitVec 8) : Option Nat := (List.range 8).find? (members.getLsbD ·)

/-- A key is that of a cluster: of its partition (class 0), or of its die (class 1; R279). -/
def State.ofCluster (s : State) (k : TxKey) : Bool :=
  if k.cls = 0 then s.cl.part.member && k.die == (s.cl.part.part.extractLsb' 0 16).toNat && k.clus == s.cl.part.pidx.toNat
  else k.die == 4 * s.pkg.rank + s.core.die && k.clus == s.cl.index

/-- Member 0 of a gang of this cluster, the core `x.key.core`, has submitted its gang's transaction (R295): that of this context's gang where
it is that one's, and else that of the gang of a saved context. -/
def State.gangSubmits (mine : Bool) (x : GangTx) (s : State) : State :=
  if mine || (s.ofCluster x.key && x.key.core == s.leader && s.cl.gangTx.isNone) then { s with cl := { s.cl with gangTx := some x } }
  else if s.ofCluster x.key then
    { s with cl := { s.cl with gangs := s.cl.gangs.map fun g =>
      if g.2.2.2.isNone && firstMember g.2.1 == some x.key.core then (g.1, g.2.1, g.2.2.1, some x) else g } }
  else s

/-- SEQUENCER_SUBMISSION (R278): the submission joins the batch of the current beat, or under .D waits for its boundary (R281).
Under .G it is that of member 0 of a gang, which then knows it. -/
def State.submitKey (key : TxKey) (tiles : List (Nat × Bool)) (s : State) : State :=
  let q := s.pkg.seq
  let b := s.pkg.cycle / 256
  let k := { key with beat := b }
  if q.knows k then s
  else
    let s := s.setSeq (if key.cls = 0 then { q with held := q.held ++ [(k, tiles)] } else { q with batch := q.batch ++ [(k, tiles)] })
    let mine := s.ctx.tx.state == 1 && s.ctx.tx.key.same k
    let s := if mine then s.setTx { s.ctx.tx with key := k, sub := b } else s
    if key.gang then
      s.gangSubmits mine ⟨false, key.cls == 0, k, b, if mine then s.ctx.tx.sstep else s.cl.part.sstep, tiles, 0⟩
    else s

/-- A beat whose batch may close now, the beats in order (R280); a frozen partition's sequencers close none (R387). -/
def State.beatOver (s : State) (b : Nat) : Bool :=
  256 * (b + 1) ≤ s.pkg.cycle && !s.pkg.frozen && s.pkg.seq.batch.any (·.1.beat == b) && s.pkg.seq.batch.all (b ≤ ·.1.beat)

/-- BEAT_END (R280). -/
def State.endBeat (b : Nat) (s : State) : State :=
  if !s.beatOver b then s
  else
    let q := s.pkg.seq
    s.setSeq { q with
      batch := q.batch.filter (·.1.beat != b)
      closed := q.closed ++ [(b, q.batch.filter (·.1.beat == b))] }

/-- Requests for which their home slice's queue of 512 has room enter it, in order (R282). -/
def enterQueues : List TileReq → List TileReq → List TileReq
  | done, [] => done
  | done, r :: rest =>
    let home := tileHome (r.tile * 4096)
    let n := (done.filter fun x => x.queued && tileHome (x.tile * 4096) == home).length
    let held := done.any fun x => !x.queued && tileHome (x.tile * 4096) == home
    enterQueues (done ++ [{ r with queued := r.queued || (n < 512 && !held) }]) rest

/-- The merged order of a beat is known at the home slices H beats later (R280), once and after those of the beats before it (R282). -/
def State.mergeable (s : State) (b : Nat) : Bool :=
  256 * (b + s.pkg.domain + 1) ≤ s.pkg.cycle && s.pkg.seq.merged ≤ b && s.pkg.seq.closed.all (b ≤ ·.1) &&
    s.pkg.seq.batch.all (b < ·.1.beat)

/-- ORDER_MERGED (R280, R282): this die's batch and those of the other dies, in key order. -/
def State.mergeOrder (b : Nat) (others : List Entry) (s : State) : State :=
  if !s.mergeable b then s
  else
    let q := s.pkg.seq
    let mine : List Entry := (q.closed.filter (·.1 == b)).flatMap (·.2)
    let order := (mine ++ others.map fun (x : Entry) => ({ x.1 with beat := b }, x.2)).foldl (fun l x => insertEntry x l) []
    let reqs := order.flatMap fun x => x.2.map fun t => (⟨x.1, t.1, t.2, false, false, 0⟩ : TileReq)
    s.setSeq { q with closed := q.closed.filter (·.1 != b), merged := b + 1, reqs := enterQueues [] (q.reqs ++ reqs) }

/-- Request `k` may be granted (R283). -/
def State.grantable (s : State) (k : Nat) : Bool :=
  match s.pkg.seq.reqs[k]? with
  | none => false
  | some r => r.queued && !r.granted && (s.pkg.seq.reqs.take k).all fun e => e.tile != r.tile || !(e.write || r.write)

/-- SLICE_GRANT (R283). -/
def State.grantTile (k : Nat) (s : State) : State :=
  match s.pkg.seq.reqs[k]? with
  | none => s
  | some r =>
    if s.grantable k then s.setSeq { s.pkg.seq with reqs := s.pkg.seq.reqs.set k { r with granted := true, when := s.pkg.cycle } } else s

/-- Every request of the transaction has been granted (R283). -/
def Sequencer.grantedAll (q : Sequencer) (k : TxKey) : Bool :=
  q.reqs.any (·.key.same k) && q.reqs.all fun r => !r.key.same k || r.granted

/-- The full grant may reach this context. -/
def State.grantComing (s : State) : Bool :=
  s.ctx.tx.state == 1 && !s.ctx.tx.granted && s.pkg.seq.grantedAll s.ctx.tx.key

/-- The beat of the last grant of a transaction, and its key as the order has it. -/
def Sequencer.grantOf (q : Sequencer) (k : TxKey) : Nat × TxKey :=
  let mine := q.reqs.filter (·.key.same k)
  ((mine.map (·.when)).foldl max 0 / 256, (mine.head?.map (·.key)).getD k)

/-- GRANT_DELIVERY (R283): WAITB counts the beats from the submission to the grant (R297). -/
def State.deliverGrant (s : State) : State :=
  if s.grantComing then
    let t := s.ctx.tx
    let g := s.pkg.seq.grantOf t.key
    s.setTx { t with granted := true, key := g.2, waitb := BitVec.ofNat 8 (min 255 (g.1 - t.sub)) }
  else s

/-- RELEASE_PERFORM (R287): the transaction's requests leave, and later ones enter the queues. -/
def State.release (k : TxKey) (s : State) : State :=
  let q := s.pkg.seq
  s.setSeq { q with reqs := enterQueues [] (q.reqs.filter fun r => !r.key.same k), orphans := q.orphans.filter fun x => !x.same k }

/-- A transaction whose context ended is released: at once when it is granted, else when its grants arrive (R292). -/
def State.abandon (k : TxKey) (s : State) : State :=
  if s.pkg.seq.grantedAll k then s.release k else s.setSeq { s.pkg.seq with orphans := k :: s.pkg.seq.orphans }

/-- A transaction that an ended context left submitted, fully granted now: it passes its place in the order (R292). -/
def State.orphan (s : State) : Option TxKey := s.pkg.seq.orphans.find? s.pkg.seq.grantedAll

/-! ### Submission -/

/-- The granules of a region, with the first byte of the region in each. -/
def Region.granules (r : Region) : List (Nat × Word) :=
  let x := r.span
  (List.range (x.2 - x.1)).map fun i => (x.1 + i, BitVec.ofNat 64 (max r.base.toNat (4096 * (x.1 + i))))

/-- A tile joins a set; a tile under both senses counts as written (R277). -/
def addTile (t : Nat) (write : Bool) (l : List (Nat × Bool)) : List (Nat × Bool) :=
  if l.any (·.1 == t) then l.map fun x => if x.1 == t then (t, x.2 || write) else x else l ++ [(t, write)]

/-- The tiles of a declaration set, each region translated in set order and address order (R275, R295). -/
def State.tilesOf (s : State) : List Region → List (Nat × Bool) → List Kept → Except Trap (List (Nat × Bool) × List Kept)
  | [], ts, ks => .ok (ts, ks)
  | r :: rest, ts, ks =>
    match s.translateAll (if r.write then .write else .read) r.granules with
    | .error t => .error t
    | .ok (ps, ks') => s.tilesOf rest (ps.foldl (fun l p => addTile (p / 4096) r.write l) ts) (ks ++ ks')

/-- The key of a submission, whose beat the sequencer sets (R279). -/
def State.newKey (s : State) (d g : Bool) (seq : BitVec 32) : TxKey :=
  if d then ⟨0, 0, (s.cl.part.part.extractLsb' 0 16).toNat, s.cl.part.pidx.toNat, s.core.idx, seq.toNat, s.core.cyc, g⟩
  else ⟨0, 1, 4 * s.pkg.rank + s.core.die, s.cl.index, s.core.idx, seq.toNat, s.core.cyc, g⟩

/-- Join (R295): wait for the grant, and open. -/
def joinTx (f : Fields) (s : State) : Eff :=
  let t := s.ctx.tx
  if t.granted then .ok ((s.endWait.setTx { t with state := 2 }).setS (some 1) f.opD (BitVec.ofNat 64 t.key.beat))
  else .hold (s.waitFor .grant)

/-- After a submission: .D returns SSTEPN at once, and the others join. -/
def submitted (d : Bool) (f : Fields) (s : State) : Eff :=
  if d then .ok (s.endWait.setS (some 1) f.opD s.cl.part.sstep) else joinTx f s

/-- A shadow's submission is not performed, and returns what its primary's returned (R312); its gang knows of member 0's. -/
def shadowSubmits (x : GangTx) (t : Tx) (f : Fields) (s : State) : Eff :=
  reading 0 (fun s y => .ok (((if x.key.gang then s.gangSubmits true x else s).setTx { t with
    state := if x.d then 1 else 2, d := x.d, g := x.key.gang, flt := false, key := x.key, sub := x.sub, sstep := x.sstep, tiles := x.tiles
    granted := true }).setS (some 1) f.opD (BitVec.ofNat 64 y))) s

/-- The submission of this context's own set (R295). -/
def submitOwn (d g : Bool) (f : Fields) (s : State) : Eff :=
  let t := s.ctx.tx
  match s.tilesOf t.decl [] [] with
  | .error e => .trap e
  | .ok (tiles, ks) =>
    let s := t.decl.foldl (fun s r => s.sign r.base.toNat 0 0) (s.keep ks)
    let seq := t.seq + 1
    if s.isShadow then
      shadowSubmits ⟨true, d, s.newKey d g seq, s.pkg.cycle / 256, s.cl.part.sstep, tiles, 0⟩ { t with seq } f s
    else
      submitted d f (s.setTx { t with
        seq, state := 1, d, g, flt := false, key := s.newKey d g seq, sstep := s.cl.part.sstep, tiles, granted := false })

/-- TSUB (R295): selector bit 0 is .D and bit 1 is .G. -/
def tsubEffect (d : Bool) (f : Fields) (s : State) : Eff :=
  let t := s.ctx.tx
  let g := f.sel.getLsbD 1 && s.cl.gangMembers &&& ~~~(bit8 s.ctx.address) != 0
  let member := g && s.leader != s.ctx.address
  if t.state == 1 && t.d == d && (member || !d) then joinTx f s
  else if t.state != 0 || t.decl.isEmpty then .trap (0x02, encodingVal 3 0x241)
  else if member then
    match s.cl.gangTx with
    | none => .hold s
    | some x =>
      if x.d != d then .trap (0x02, encodingVal 2 0x241)
      else if s.isShadow then shadowSubmits x t f s
      else joinTx f (s.setTx { t with
        state := 1, d, g := true, flt := false, key := x.key, sub := x.sub, sstep := x.sstep, tiles := x.tiles, granted := false })
  else
    match submitOwn d g f s with
    | .ok s' => .ok s'
    | e => e

/-- TSUB (R295). -/
def execTsub (f : Fields) (s : State) : Host.Outcome State Fault Refusal := issue (.tsub f) f (tsubEffect false f) s

/-- TSUB.D (R281, R295, R412). -/
def execTsubD (f : Fields) (s : State) : Host.Outcome State Fault Refusal :=
  issue (.tsubD f) f (fun s => partitioned 0x241 s (tsubEffect true f s)) s

/-! ### The end -/

/-- Every access of the context to a declared tile has been performed (R287). -/
def State.tilesQuiet (s : State) : Bool :=
  s.core.gq.all fun a => a.performed || !(a.parts.any fun p => s.ctx.tx.tiles.any fun t => t.1 == p.pa / 4096)

/-- The transaction is over (R296). -/
def State.clearTx (s : State) : State :=
  s.setTx { s.ctx.tx with state := 0, d := false, g := false, tiles := [], granted := false }

/-- The releases of a gang's transaction are sent; a shadow's are not performed (R296, R312). -/
def State.gangRelease (x : GangTx) (s : State) : State := if x.shadow then s else s.abandon x.key

/-- The transaction of this context's gang replaced. -/
def State.setGangTx (x : Option GangTx) (s : State) : State := { s with cl := { s.cl with gangTx := x } }

/-- The gang's transaction ends for a member, by its address; the last one sends the releases (R296). -/
def State.gangEnd (core : Nat) (s : State) : State :=
  match s.cl.gangTx with
  | none => s
  | some x =>
    let ended := (x.ended ||| bit8 core) &&& s.gangAll
    if s.gangAll &&& ~~~ended == 0 then (s.gangRelease x).setGangTx none else s.setGangTx (some { x with ended })

/-- Every member of the gang has ended: its transaction ends too (R292). -/
def State.gangEndAll (s : State) : State :=
  match s.cl.gangTx with
  | some x => (s.gangRelease x).setGangTx none
  | none => s

/-- This context is in the transaction that its gang now has. -/
def State.inGangTx (s : State) : Bool := s.cl.gangTx.any fun x => x.key.same s.ctx.tx.key

/-- The releases of the saved contexts' gangs of which every member's wait has ended are sent (R296). -/
def State.savedReleases (s : State) : State :=
  let all := fun (g : Nat × BitVec 8 × BitVec 8 × Option GangTx) => g.2.2.2.any fun x => g.2.1 &&& ~~~x.ended == 0
  let s := (s.cl.gangs.filter all).foldl (fun s g => match g.2.2.2 with | some x => s.gangRelease x | none => s) s
  { s with cl := { s.cl with gangs := s.cl.gangs.map fun g => if all g then (g.1, g.2.1, g.2.2.1, none) else g } }

/-- Another member's `TEND.G`, in this context's gang or in that of a saved one (R296). -/
def State.otherTend (core : Nat) (s : State) : State :=
  if s.gangAll.getLsbD core then s.gangEnd core
  else
    let note := fun (g : Nat × BitVec 8 × BitVec 8 × Option GangTx) =>
      if g.2.1.getLsbD core then (g.1, g.2.1, g.2.2.1, g.2.2.2.map fun x => { x with ended := x.ended ||| bit8 core }) else g
    { s with cl := { s.cl with gangs := s.cl.gangs.map note } }.savedReleases

/-- The end of a context: its transaction is released, now or when its grants arrive (R292). -/
def State.endTx (s : State) : State :=
  let t := s.ctx.tx
  let s := if s.submitting then s.submitKey t.key t.tiles else s
  let s := if t.g then (if s.inGangTx then s.gangEnd s.ctx.address else s) else if t.state != 0 && !s.isShadow then s.abandon t.key else s
  s.setTx Tx.none

/-- TEND and TEND.G (R287, R296). -/
def tendEffect (g : Bool) (s : State) : Eff :=
  let t := s.ctx.tx
  if t.state == 0 then .ok s
  else if t.g != g then .trap (0x02, encodingVal 2 0x242)
  else if s.isShadow && !g then .ok s.clearTx
  else if !t.granted then .hold (s.waitFor .grant)
  else
    let s := s.endWait.drainStreams
    if !s.tilesQuiet then .hold s
    else if g then
      let s := if s.inGangTx then s.gangEnd s.ctx.address else s
      if s.inGangTx then .hold s else .ok s.clearTx
    else .ok (s.release t.key).clearTx

/-- TEND (R296). -/
def execTend (f : Fields) (s : State) : Host.Outcome State Fault Refusal := issue (.tend f) f (tendEffect false) s

/-- TEND.G (R296). -/
def execTendG (f : Fields) (s : State) : Host.Outcome State Fault Refusal :=
  issue (.tendG f) f (tendEffect true) s

/-- The transaction status word (Table 15-2). -/
def Tx.status (t : Tx) : Word :=
  (t.seq.zeroExtend 64 <<< 32) ||| (BitVec.ofNat 64 (coverCount t.decl) <<< 21) ||| (BitVec.ofNat 64 t.decl.length <<< 16) |||
    (t.waitb.zeroExtend 64 <<< 8) ||| (bit01 t.flt <<< 6) ||| (bit01 t.g <<< 5) ||| (bit01 t.d <<< 4) ||| t.state.zeroExtend 64

/-- TSTAT (R297). -/
def execTstat (f : Fields) (s : State) : Host.Outcome State Fault Refusal :=
  issue (.tstat f) f (fun s => .ok (s.setS (some 1) f.opD s.ctx.tx.status)) s

/-- TSTAT.W (R297): it opens a .D transaction, and no other. -/
def tstatWEffect (f : Fields) (s : State) : Eff :=
  let t := s.ctx.tx
  let done := fun (s : State) => Eff.ok (s.setS (some 1) f.opD s.ctx.tx.status)
  if t.state != 1 then done s.endWait
  else if t.d && t.sstep == s.cl.part.sstep && !s.isShadow then .trap (0x02, encodingVal 2 0x243)
  else if t.granted then done (if t.d then s.endWait.setTx { t with state := 2 } else s.endWait)
  else .hold (s.waitFor .grant)

/-- TSTAT.W (R297). -/
def execTstatW (f : Fields) (s : State) : Host.Outcome State Fault Refusal := issue (.tstatW f) f (tstatWEffect f) s

/-! ### Events -/

/-- SEQUENCER_SUBMISSION (R278). -/
def execSequencerSubmission (key : TxKey) (tiles : List (Nat × Bool)) (s : State) : Host.Outcome State Fault Refusal :=
  event (·.submitKey key tiles) s

/-- BEAT_END (R280). -/
def execBeatEnd (beat : Nat) (s : State) : Host.Outcome State Fault Refusal := event (·.endBeat beat) s

/-- ORDER_MERGED (R280). -/
def execOrderMerged (beat : Nat) (others : List (TxKey × List (Nat × Bool))) (s : State) : Host.Outcome State Fault Refusal :=
  event (·.mergeOrder beat others) s

/-- SLICE_GRANT (R283). -/
def execSliceGrant (k : Nat) (s : State) : Host.Outcome State Fault Refusal := event (·.grantTile k) s

/-- GRANT_DELIVERY (R283). -/
def execGrantDelivery (s : State) : Host.Outcome State Fault Refusal := event (·.deliverGrant) s

/-- RELEASE_PERFORM (R287). -/
def execReleasePerform (key : TxKey) (s : State) : Host.Outcome State Fault Refusal := event (·.release key) s

end Sys2Proof.Machine
end

