-- ==== Sys2Proof/Machine/Context.lean ====
section
/-! DEFINITION. The images of a context and of a cluster (R377 to R385), as `CTXSV` and `CTXLD` write and read them. -/

namespace Sys2Proof.Machine

/-! ### Laying out -/

/-- A memory moved up by `d`. -/
def Memory.shift (d : Nat) (m : Memory) : Memory := m.map fun c => (c.1 + d, c.2)

/-- The bytes of a 64-bit word at an address, in canonical form. -/
def wordCells (a : Nat) (w : Word) : Memory :=
  (List.range 8).filterMap fun k =>
    let b := w.extractLsb' (8 * k) 8
    if b = unlisted then none else some (a + k, b)

/-- Words from address 0 upward. -/
def Memory.ofWords (ws : List Word) : Memory := ws.zipIdx.flatMap fun x => wordCells (8 * x.2) x.1

/-- The eight words of 64 bytes. -/
def vecWords (v : Vec) : List Word := (List.range 8).map fun i => v.extractLsb' (64 * i) 64

/-- Sections at their offsets, in rising order. -/
def layOut (xs : List (Nat × Memory)) : Memory := xs.flatMap fun x => x.2.shift x.1

/-- `n` bytes of physical memory replaced by an image of offsets below `n`; they are poisoned no longer. -/
def State.putImage (base n : Nat) (img : Memory) (s : State) : State :=
  { s with pkg := { s.pkg with
    mem := Memory.canon (s.pkg.mem.filter (·.1 < base) ++ img.shift base ++ s.pkg.mem.filter (base + n ≤ ·.1))
    poison := s.pkg.poison.filter fun g => !(base ≤ g && g + granule g ≤ base + n) } }

/-- The image at a physical address. -/
def State.imageFrom (s : State) (base n : Nat) : Memory := s.pkg.mem.slice base (base + n)

/-- Words of an image. -/
def Memory.words (m : Memory) (a n : Nat) : List Word := (List.range n).map fun i => m.word (a + 8 * i)

/-- What the kernel's physical accesses to a region meet (R380): none when they all stand, a wait while a home is not ready, and a
trap with the physical address. -/
def State.regionCheck (s : State) (base n : Nat) : Option (Option Trap) :=
  let steps := (List.range ((n + 4095) / 4096)).map fun i => base + 4096 * i
  match steps.find? fun a => !s.reachable a || s.homeState a == some false with
  | some a => some (some (if s.reachable a then farError else 0x07, BitVec.ofNat 64 a))
  | none => if steps.any fun a => s.homeState a == none then some none else none

/-! ### The context image (Table 22-3) -/

/-- The REP word. -/
def repWord (r : Option Rep) : Word :=
  match r with
  | none => 0
  | some r => (1 <<< 63) ||| (r.body.zeroExtend 64 <<< 36) ||| (BitVec.ofNat 64 (r.pos % 16) <<< 32) ||| r.left.zeroExtend 64

/-- WDOG (R397). -/
def Wdog.word (w : Wdog) : Word := (bit01 w.en <<< 63) ||| (w.sub.zeroExtend 64 <<< 32) ||| w.remain.zeroExtend 64

def Wdog.ofWord (x : Word) : Wdog := ⟨x.getLsbD 63, x.extractLsb' 32 16, x.extractLsb' 0 32⟩

/-- The mutexes that this core's context holds, bit x for mutex x. -/
def State.heldMutexes (s : State) : Word :=
  (List.range 16).foldl (fun (w : Word) x => if (s.mtx x).held && (s.mtx x).owner == s.core.idx then w ||| (1 <<< x) else w) 0

/-- The transaction key word: beat or superstep, and global die rank or PART. -/
def Tx.keyWord (t : Tx) : Word :=
  if t.state == 0 then 0
  else ((if t.d then t.sstep else BitVec.ofNat 64 t.key.beat) <<< 32) ||| BitVec.ofNat 64 t.key.die

def predWord (r : Regs) : Word := (List.range 8).foldl (fun (w : Word) i => w ||| (bit01 (r.pred i) <<< i)) 0

/-- The control section at 0x0A80. -/
def State.controlWords (s : State) : List Word :=
  let c := s.ctx
  [c.trap.pc.zeroExtend 64, predWord c.regs, bit01 c.trap.pk, c.sys.pid.zeroExtend 64, c.sys.xlroot, c.trap.c, c.trap.val, c.fmode,
    bit01 c.sys.gearReq, c.retired, repWord c.trap.rep, c.sys.wdog.word, s.heldMutexes, c.sys.ctxbuf, 0, 0]

/-- The section at 0x0B00. -/
def State.systemWords (s : State) : List Word :=
  let y := s.ctx.sys
  [y.kstep, y.kseed0, y.ktc, y.kvlim, y.kvfloor, y.kzth, y.lscale, y.lsstat, y.kwgt, y.stalls.zeroExtend 64, y.bbctab,
    s.ctx.tiles.cfg.zeroExtend 64, s.ctx.tiles.status, s.ctx.tx.status, s.ctx.tx.keyWord, 0]

/-- A stream's four words; an unconfigured one is zeros. -/
def Stream.words (q : Stream) : List Word := if q.on then [q.desc, q.base, q.next, q.remain] else [0, 0, 0, 0]

/-- A mailbox entry with its delivery rank in bits 41:37 of word 0 (R385). -/
def State.entryWords (s : State) (i : Nat) : List Word :=
  match s.ctx.mailbox.findIdx? (·.slot == i) with
  | none => List.replicate 8 0
  | some k => match s.ctx.mailbox[k]? with
    | none => List.replicate 8 0
    | some m => vecWords (m.data ||| (BitVec.ofNat 512 (k + 1) <<< 37))

/-- A norm slot's 32 bytes. DESIGN CHOICE (log entry 59): Table 22-3 names no place for the TOP that its `KNORM` captured; it stands in
bit 8 of the n_slot word, above the count. -/
def normWords (z : Option NormSlot) : List Word :=
  match z with
  | none => [0, 0, 0, 0]
  | some z => [z.header, BitVec.ofNat 64 z.n ||| (bit01 z.top <<< 8), z.stale.extractLsb' 0 64, z.stale.extractLsb' 64 64]

/-- A row of a segment table; an exponent outside INT32 is its bound. -/
def segmentWord (x : BitVec 32 × Int) : Word :=
  x.1.zeroExtend 64 ||| ((BitVec.ofInt 32 (clampInt (-2 ^ 31) (2 ^ 31 - 1) x.2)).zeroExtend 64 <<< 32)

def State.normSlot (s : State) (j : Nat) : Option NormSlot := vget s.ctx.tiles.norm j none

/-- The offset of the claim table, from the slots' sizes. -/
def claimOffset (ns : List Nat) : Nat := 0x5B00 + 128 * ns.foldl (· + ·) 0

/-- SIZE of the image. -/
def imageSize (ns : List Nat) (ls : Bool) : Nat := claimOffset ns + 256 + (if ls then 122880 else 0)

/-- The image of the context on this core, but for header word 0 (Table 22-3). -/
def State.contextImage (s : State) (ls : Bool) : Memory × Nat :=
  let c := s.ctx
  let slots := (List.range 7).map fun j => s.normSlot (j + 1)
  let ns := slots.filterMap fun z => z.map (·.n)
  let present := slots.zipIdx.foldl (fun (w : Word) z => if z.1.isSome then w ||| (1 <<< (8 + z.2)) else w) 0
  let w7 := if c.spill.isEmpty then 0 else s.spillCount s.region 7
  let id := (c.sys.pid.zeroExtend 64 <<< 32) ||| (s.cl.part.pidx.zeroExtend 64 <<< 8) ||| BitVec.ofNat 64 s.core.idx
  let img := layOut [
    (0, Memory.ofWords [0, present ||| bit01 ls, c.sys.taskid, id, BitVec.ofNat 64 s.pkg.cycle, c.trap.c,
      BitVec.ofNat 64 (w7 + c.spill.length), BitVec.ofNat 64 w7]),
    (0x40, Memory.ofWords c.regs.s.toList),
    (0x240, Memory.ofWords (c.regs.v.toList.flatMap vecWords)),
    (0xA40, Memory.ofWords c.regs.m.toList),
    (0xA80, Memory.ofWords s.controlWords),
    (0xB00, Memory.ofWords s.systemWords),
    (0xB80, Memory.ofWords c.tiles.var.toList),
    (0xC00, Memory.ofWords (c.tx.decl.flatMap fun r => [r.base, r.len ||| (bit01 r.write <<< 63)])),
    (0xD00, Memory.ofWords (c.streams.toList.flatMap (·.words))),
    (0xE00, c.cb2.slice 0 1024),
    (0x1200, c.mq8.slice 0 1024),
    (0x1600, Memory.ofWords ((List.range 16).flatMap s.entryWords)),
    (0x1A00, c.tiles.acc.slice 0 16384),
    (0x5A00, Memory.ofWords (slots.flatMap normWords)),
    (0x5B00, Memory.ofWords (slots.flatMap fun z => match z with | some z => z.table.map segmentWord | none => [])),
    (claimOffset ns, Memory.ofWords (c.claims.flatMap fun x => [x.q, BitVec.ofNat 64 x.seq])),
    (claimOffset ns + 256, if ls then s.own.slice 0 122880 else [])]
  (img, imageSize ns ls)

/-- Where the image holds a register, with its length: the predicates p0 to p6 share a word. -/
def registerPlace (n : Nat) : Option (Nat × Nat) :=
  if n < 64 then some (0x40 + 8 * n, 8)
  else if n < 96 then some (0x240 + 64 * (n - 64), 64)
  else if 104 ≤ n && n < 112 then some (0xA40 + 8 * (n - 104), 8)
  else if 120 ≤ n && n < 127 then some (0xA88, 8)
  else none

/-- The offsets of an image's granules that are written poisoned, with their lengths (R380). -/
def State.badOffsets (s : State) (size : Nat) (ls : Bool) : List (Nat × Nat) :=
  s.core.badRegs.filterMap (fun r => registerPlace r.toNat) ++ s.core.badCtx.map (fun a => (a, 8)) ++
  s.core.badAcc.map (fun x => (0x1A00 + 64 * x, 64)) ++
  (if ls then s.cl.bad.filterMap fun g =>
    if g.1 == s.core.idx && g.2 < 122880 then some (size - 122880 + g.2, 8) else none
   else [])

/-- The saggar entry's STATE is set, with CYCLE (R380, R402). -/
def State.setSaggar (state : Word) (s : State) : State :=
  let w := s.pkg.mem.word s.saggar
  let s := s.homeStore s.saggar 8 ((w &&& ~~~(3#64 <<< 62)) ||| (state <<< 62)).toNat
  s.homeStore (s.saggar + 24) 8 (s.pkg.cycle % 2 ^ 64)

/-- Messages that wait in the cluster for this core go to the spill ring of its saved context (R385). -/
def State.spillInbound (s : State) : State :=
  (s.cl.inbound.filter (·.1 == s.ctx.address)).foldl (fun s m => match s.deliver m.1 m.2 with
    | some t => { t with cl := { t.cl with inbound := t.cl.inbound.erase m } }
    | none => s) s

/-- What the device keeps of a saved context beside its image, by its region: the message address (R326, R385), the transaction (R291),
and the gang (R246, R295). DEDUCED (log entry 44): of two saved contexts with one address the latest has its messages, and the
earlier again once that one has left the table. -/
def State.keepAside (region : Nat) (s : State) : State :=
  { s with
    core := { s.core with saved := true }
    cl := { s.cl with
      addrTable := (s.ctx.address, region) :: s.cl.addrTable.filter (·.2 != region)
      gangs := (region, s.cl.gangMembers, s.cl.gangArrived, s.cl.gangTx) :: s.cl.gangs.filter (·.1 != region) }
    pkg := { s.pkg with txs := (region, s.ctx.tx) :: s.pkg.txs.filter (·.1 != region) } }

/-- The save itself (R380), once the commands have completed and the region stands. -/
def State.saveContext (ls : Bool) (s : State) : State :=
  let s := if s.submitting then s.submitKey s.ctx.tx.key s.ctx.tx.tiles else s
  let s := s.published.setSaggar 2
  let r := s.contextImage ls
  let region := s.region
  let s := s.putImage region r.2 r.1
  let s := (s.badOffsets r.2 ls).foldl (fun s x => s.spoilGlobal (region + x.1) x.2) s
  let s := (s.homeStore region 8 r.2).setSaggar 3
  (s.keepAside region).spillInbound

/-! ### Loading a context (R381) -/

/-- A mutex's owner follows its context to the core that resumes it (R243): those of the context that leaves that core belong to no
core. -/
def State.mutexesTo (core : Nat) (held : Word) (s : State) : State :=
  (List.range 16).foldl (fun s x =>
    let l := s.mtx x
    if held.getLsbD x then s.setMtx x { l with held := true, owner := core }
    else if l.held && l.owner == core then s.setMtx x { l with owner := 8 } else s) s

/-- Mutex ownership passes to this core (R381). -/
def State.passMutexes (held : Word) (s : State) : State := s.mutexesTo s.core.idx held

/-- The number of instructions in a repeat body, from the `REP` before it (R103). -/
def State.bodyLength (s : State) (body : Nat) : Nat :=
  match decodeWord (BitVec.ofNat 96 (s.own.load (body - 12) 12)) with
  | .ok (.rep f) => (s.val f.opB).toNat % 17
  | _ => 1 + Config.repLength s.tick % 16

/-- The repeat state that a REP word names. -/
def State.repOf (s : State) (w : Word) : Option Rep :=
  if w.getLsbD 63 then
    let body := w.extractLsb' 36 22
    let n := s.bodyLength body.toNat
    some ⟨body, (w.extractLsb' 32 4).toNat, w.extractLsb' 0 32, n, s.own.bodyWords n body.toNat⟩
  else none

/-- The transaction that the status word and the key word name, re-attached by its key (R291, R381): the one kept with the region, or for
an image that this device did not save one of the order with that key. -/
def State.txOf (s : State) (region : Nat) (status key id : Word) (decl : List Region) : Tx :=
  let st := status.extractLsb' 0 2
  let d := status.getLsbD 4
  let seq := status.extractLsb' 32 32
  let die := (key.extractLsb' 0 32).toNat
  let mine := fun (k : TxKey) => (k.cls == 0) == d && k.die == die && k.seq == seq.toNat && k.core == (id.extractLsb' 0 3).toNat
  let q := s.pkg.seq
  let found := (q.reqs.map (·.key) ++ (q.batch ++ q.held ++ q.closed.flatMap (·.2)).map (·.1)).find? mine
  let old : Tx := match s.pkg.txs.find? (·.1 == region) with
    | some x => x.2
    | none =>
      let k := found.getD ⟨(key.extractLsb' 32 32).toNat, if d then 0 else 1, die, 0, (id.extractLsb' 0 3).toNat, seq.toNat, 0, status.getLsbD 5⟩
      let waiting := (q.batch ++ q.held ++ q.closed.flatMap (·.2)).find? fun x => x.1.same k
      let tiles := match waiting with
        | some x => x.2
        | none => (q.reqs.filter fun r => r.key.same k).map fun r => (r.tile, r.write)
      { Tx.none with
        key := k, sub := (key.extractLsb' 32 32).toNat, sstep := if d then key.extractLsb' 32 32 |>.zeroExtend 64 else 0, tiles }
  { old with
    decl, state := st, d, g := status.getLsbD 5, flt := status.getLsbD 6, waitb := status.extractLsb' 8 8, seq
    granted := st == 2 }

/-- The gang of a context that comes to this core (R246): as it was kept with its region, else as its task has it. -/
def State.gangOf (s : State) (region address : Nat) (taskid : Word) : BitVec 8 × BitVec 8 × Option GangTx :=
  match s.cl.gangs.find? (·.1 == region) with
  | some x => x.2
  | none => match s.cl.tasks.find? fun t => t.id == (taskid &&& ~~~((1 : Word) <<< 48)) with
    | some t => (if t.shadow.getLsbD address then t.shadow else t.cores, 0, none)
    | none => (bit8 address, 0, none)

/-- The declaration set of an image. -/
def declOf (img : Memory) : List Region :=
  ((List.range 16).map fun i =>
    let w := img.word (0xC08 + 16 * i)
    (⟨img.word (0xC00 + 16 * i), (w.extractLsb' 0 31).zeroExtend 64, w.getLsbD 63⟩ : Region)).filter (·.len != 0)

/-- A stream of an image. -/
def streamOf (img : Memory) (q : Nat) : Stream :=
  let a := 0xD00 + 32 * q
  if img.word a == 0 then Stream.off else ⟨true, img.word a, img.word (a + 8), img.word (a + 16), img.word (a + 24), [], []⟩

/-- The held messages of an image, in the order of their ranks, which are cleared (R385). -/
def mailboxOf (img : Memory) : List Message :=
  let held := (List.range 16).filterMap fun i =>
    let v := img.vec (0x1600 + 64 * i)
    if v.extractLsb' 0 8 == 0 then none
    else some ((v.extractLsb' 37 5).toNat, (⟨i, v &&& ~~~((31 : Vec) <<< 37)⟩ : Message))
  (List.range 32).flatMap fun k => (held.filter (·.1 == k)).map (·.2)

/-- The segment table of a region as it stands now (R168, R180). -/
def State.segmentsNow (s : State) (header : Word) (n : Nat) (top : Bool) : List (BitVec 32 × Int) :=
  let h := tileHeader header
  (List.range n).flatMap fun i => segments (aBlock h h.addr.toNat n s.cl.spad top i)

/-- The count in an n_slot word. -/
def slotCount (w : Word) : Nat := w.toNat % 256 % 129

/-- The norm slots of an image, recomputed under the TOP that their `KNORM`s captured: a slice whose entries differ is stale (R180). -/
def State.normsOf (s : State) (img : Memory) : Vector (Option NormSlot) 8 :=
  let present := img.word 8
  let rec go : List Nat → Nat → List (Option NormSlot)
    | [], _ => []
    | j :: js, off =>
      let a := 0x5A00 + 32 * j
      if present.getLsbD (8 + j) then
        let n := slotCount (img.word (a + 8))
        let top := (img.word (a + 8)).getLsbD 8
        let saved := img.words (0x5B00 + off) (16 * n)
        let now := s.segmentsNow (img.word a) n top
        let differ := fun (i : Nat) => ((saved.drop (16 * i)).take 16) != ((now.drop (16 * i)).take 16).map segmentWord
        let stale : BitVec 128 := BitVec.ofNat 128 (img.load (a + 16) 16)
        let z : NormSlot := ⟨img.word a, n, top, now, (List.range n).foldl (fun m i => if differ i then m ||| (1 <<< i) else m) stale⟩
        some z :: go js (off + 128 * n)
      else none :: go js off
  Vector.ofFn fun i => ((none :: go (List.range 7) 0)[i.val]?).getD none

/-- The sizes of the slots of an image. -/
def slotSizes (img : Memory) : List Nat :=
  (List.range 7).filterMap fun j => if (img.word 8).getLsbD (8 + j) then some (slotCount (img.word (0x5A08 + 32 * j))) else none

/-- The words of the image that are neither registers nor accumulators. -/
def otherWords : List Nat :=
  0x10 :: (wordsFrom 0xA80 368 ++ wordsFrom 0x1600 128 ++ wordsFrom 0x5A00 28).filter (· != 0xA88)

/-- What the poisoned granules of the image leave bad (R399): registers, accumulator chunks, and other words. -/
def State.badIn (s : State) (region : Nat) : List (BitVec 7) × List Nat × List Nat :=
  (((List.range 127).filter fun n => match registerPlace n with
      | some p => s.poisoned (region + p.1) p.2
      | none => false).map (BitVec.ofNat 7),
   (List.range 256).filter fun x => s.poisoned (region + 0x1A00 + 64 * x) 64,
   otherWords.filter fun a => s.poisoned (region + a) 8)

/-- The register file of an image. -/
def regsOf (img : Memory) : Regs :=
  { s := Vector.ofFn fun i => img.word (0x40 + 8 * i.val)
    v := Vector.ofFn fun i => img.vec (0x240 + 64 * i.val)
    m := Vector.ofFn fun i => img.word (0xA40 + 8 * i.val)
    p := Vector.ofFn fun i => (img.word 0xA88).getLsbD i.val && i.val != 7 }

/-- The system registers of an image; CTXBUF is the one in force. -/
def sysOf (img : Memory) (ctxbuf : Word) : Sys :=
  let w := fun i => img.word (0xA80 + 8 * i)
  let k := fun i => img.word (0xB00 + 8 * i)
  let y : Sys :=
    { pid := (w 3).extractLsb' 0 16, xlroot := w 4, ctxbuf := ctxbuf, wdog := Wdog.ofWord (w 11), kstep := k 0, kseed0 := k 1
      ktc := k 2, kvlim := k 3, kvfloor := k 4, kzth := k 5, lscale := k 6, lsstat := k 7, kwgt := k 8
      stalls := (k 9).extractLsb' 0 32, bbctab := k 10, gearReq := (w 8).getLsbD 0, taskid := img.word 16 }
  y.clean

/-- Local store of an image with LS, poisoned granules with it. -/
def State.loadStore (img : Memory) (region off : Nat) (s : State) : State :=
  let me := s.core.idx
  let bad := ((List.range 15360).filter fun i => s.poisoned (region + off + 8 * i) 8).map fun i => (me, 8 * i)
  { s with cl := { s.cl with
    stores := vset s.cl.stores me (Memory.canon (img.slice off (off + 122880) ++ s.own.filter (122880 ≤ ·.1)))
    bad := bad ++ s.cl.bad.filter fun g => !(g.1 == me && g.2 < 122880) } }

/-- The bits of a variance word that are not reserved (Table 8-3). -/
def varianceBits : Word := 0xF0FF7FFFFFFFFF

/-- The restore itself (R381, R385); reserved bits of the image read zero (R3). -/
def State.loadContext (s : State) : State :=
  let region := s.region
  let img := s.imageFrom region 0x41000
  let claims := claimOffset (slotSizes img)
  let s := if (img.word 8).getLsbD 0 then s.loadStore img region (claims + 256) else s
  let s := s.passMutexes (img.word 0xAE0)
  let bad := s.badIn region
  let fmode := fmodeBits (img.word 0xAB8)
  let address := match s.cl.addrTable.find? (·.2 == region) with | some x => x.1 | none => s.core.idx
  let gang := s.gangOf region address (img.word 16)
  let w6 := (img.word 48).toNat
  let w7 := (img.word 56).toNat
  let s := { s with
    ctx := { s.ctx with
      regs := regsOf img
      fmode
      retired := img.word 0xAC8
      sys := sysOf img s.ctx.sys.ctxbuf
      tiles := ⟨img.slice 0x1A00 0x5A00, Vector.ofFn fun i => img.word (0xB80 + 8 * i.val) &&& varianceBits, s.normsOf img,
        (img.word 0xB58).extractLsb' 0 2, img.word 0xB60 &&& 0xFFFFF700⟩
      cb2 := img.slice 0xE00 0x1200
      mq8 := img.slice 0x1200 0x1600
      streams := Vector.ofFn fun i => streamOf img i.val
      tx := s.txOf region (img.word 0xB68) (img.word 0xB70) (img.word 24) (declOf img)
      mailbox := mailboxOf img
      address
      spill := (List.range (w6 - w7)).map fun i => s.pkg.mem.vec (region + 0x40000 + 64 * ((w7 + i) % 64))
      claims := ((List.range 16).map fun i =>
        (⟨img.word (claims + 16 * i), (img.word (claims + 16 * i + 8)).toNat⟩ : Claim)).filter (·.q != 0) }
    core := { s.core with badRegs := bad.1, badAcc := bad.2.1, badCtx := bad.2.2 }
    cl := { s.cl with
      addrTable := s.cl.addrTable.filter (·.2 != region)
      addresses := s.cl.addresses ||| bit8 address
      gangs := s.cl.gangs.filter (·.1 != region)
      gangMembers := gang.1, gangArrived := gang.2.1, gangTx := gang.2.2 }
    pkg := { s.pkg with txs := s.pkg.txs.filter (·.1 != region) } }
  let w := fun i => img.word (0xA80 + 8 * i)
  let s := { s with ctx := { s.ctx with trap := ⟨(w 2).getLsbD 0, w 5 &&& 0x1FF, (w 0).extractLsb' 0 22, w 6, none⟩ } }
  let s := { s with ctx := { s.ctx with trap := { s.ctx.trap with rep := s.repOf (w 10) } } }
  s.refill 96

/-! ### The cluster image (R382, R383) -/

/-- A circular buffer's record. -/
def CircBuf.words (c : CircBuf) : List Word :=
  let b := fun (x at' : Nat) => BitVec.ofNat 64 (x % 256) <<< at'
  [if c.init then c.config else 0,
    (bit01 c.init <<< 63) ||| b c.relp 32 ||| b c.ep 24 ||| b c.cp 16 ||| b c.fill 8 ||| b c.free 0, 0, 0] ++
    (List.range 4).map fun i => c.done.extractLsb' (64 * i) 64

/-- A circular buffer from its record; the slots handed out are those from RELP on that the counts leave and DONE does not
mark. -/
def cbOf (img : Memory) (a : Nat) : CircBuf :=
  let w := img.word (a + 8)
  let config := img.word a
  let n := (config.extractLsb' 40 8).toNat
  let f := fun lo => (w.extractLsb' lo 8).toNat
  let done := BitVec.ofNat 256 (img.load (a + 32) 32)
  if w.getLsbD 63 then
    { init := true, config, free := f 0, fill := f 8, cp := f 16, ep := f 24, relp := f 32, done, waiting := 0
      taken := ((List.range (n - f 0 - f 8)).map fun i => (f 32 + i) % n).filter fun k => !done.getLsbD k }
  else CircBuf.off

/-- A record that R383 refuses. -/
def cbBad (img : Memory) (a : Nat) : Bool :=
  let c := cbOf img a
  c.init && (!cbConfigOk c.config || c.slots ≤ c.cp || c.slots ≤ c.ep || c.slots ≤ c.relp || c.slots < c.free + c.fill)

/-- The words of the event unit's lines, as a load of each register without an effect reads them. -/
def State.lineWords (s : State) : List Word :=
  ((List.range 16).flatMap fun b =>
    let l := s.bar b
    [l.mask.zeroExtend 64, (l.gen.zeroExtend 64 <<< 16) ||| l.arrived.zeroExtend 64, 0, 0]) ++
  ((List.range 16).flatMap fun x => [0, 0, 0, s.mutexStatus x]) ++
  ((List.range 32).flatMap fun e =>
    let l := s.evl e
    [l.pend.zeroExtend 64, 0, 0, l.pend.zeroExtend 64 ||| (BitVec.ofNat 64 l.queue.length <<< 16) ||| (bit01 l.sat <<< 24)])

/-- A cell's tag of 2 bytes. -/
def CellTag.bits (t : CellTag) : Nat := t.fmt.toNat + (if t.top then 32 else 0) + 64 * t.size

/-- The bytes of the cluster image. -/
def clusterSize : Nat := 0x22200

/-- The cluster image (R382). -/
def State.clusterImage (s : State) : Memory :=
  let tags := (List.range 1024).foldl (fun m i => match s.cl.tag i with
    | some t => Memory.store m (2 * i) 2 t.bits
    | none => m) ([] : Memory)
  layOut [
    (0, s.cl.bstore.slice 0 0x20000), (0x20000, tags), (0x20800, s.cl.snaps.slice 0 4096),
    (0x21800, Memory.ofWords (s.cl.cbs.toList.flatMap (·.words))), (0x21A00, Memory.ofWords s.lineWords)]

/-- The parts of the B store that stand beside its bytes (the scales of MX panels, the tables of CB2 panels and valid counts), for
the image at an address. -/
def besideAt (a : Nat) : Nat := 16 * a

/-- `CTXSV.CL` writes the image (R382). -/
def State.saveCluster (a : Nat) (s : State) : State :=
  let beside := s.cl.bstore.slice 0x20000 0x40000
  let s := s.putImage a clusterSize s.clusterImage
  let s := s.cl.badCells.foldl (fun s x => s.spoilGlobal (a + 128 * x) 128) s
  { s with pkg := { s.pkg with
    beside := Memory.canon (s.pkg.beside.filter (·.1 < besideAt a) ++ beside.shift (besideAt a) ++
      s.pkg.beside.filter (besideAt a + 0x20000 ≤ ·.1)) } }

/-- A tag of the image; code 0, 6 or 7, and a format that Table 7-1 does not permit for B, are untagged (R383). -/
def tagOf (x : Nat) : Option CellTag :=
  let f := BitVec.ofNat 5 x
  let z := x / 64 % 8
  if z = 0 || 5 < z || !(f ≤ 1#5 || (0x08#5 ≤ f && f ≤ 0x10#5)) then none else some ⟨f, x / 32 % 2 = 1, z⟩

/-- `CTXLD.CL` reads the image (R382, R383). -/
def State.loadCluster (a : Nat) (s : State) : State :=
  let img := s.imageFrom a clusterSize
  let line := fun (i r : Nat) => img.word (0x21A00 + 32 * i + 8 * r)
  { s with cl := { s.cl with
    bstore := Memory.canon (img.slice 0 0x20000 ++ (s.pkg.beside.slice (besideAt a) (besideAt a + 0x20000)).shift 0x20000)
    tags := (List.range 1024).filterMap fun i => (tagOf (img.load (0x20000 + 2 * i) 2)).map fun t => (i, t)
    snaps := img.slice 0x20800 0x21800
    badCells := (List.range 1024).filter fun i => s.poisoned (a + 128 * i) 128
    cbs := Vector.ofFn fun i => cbOf img (0x21800 + 64 * i.val)
    bars := Vector.ofFn fun i =>
      ⟨(line i.val 0).extractLsb' 0 8, (line i.val 1).extractLsb' 16 32, (line i.val 1).extractLsb' 0 8⟩
    mutexes := Vector.ofFn fun i =>
      let w := line (16 + i.val) 3
      ⟨w.getLsbD 0, (w.extractLsb' 1 3).toNat, w.getLsbD 16, []⟩
    events := Vector.ofFn fun i => ⟨(line (32 + i.val) 0).extractLsb' 0 16, (line (32 + i.val) 3).getLsbD 24, []⟩ } }

/-! ### Instructions -/

/-- CTXSV (R380): A bit 0 is LS. -/
def ctxsvEffect (f : Fields) (s : State) : Eff :=
  if !s.core.kq.isEmpty then .hold s
  else match s.regionCheck s.region 0x41000 with
    | some none => .hold s
    | some (some t) => .trap t
    | none => .ok (s.saveContext ((s.val f.opA).getLsbD 0))

/-- CTXSV (R380). -/
def execCtxsv (f : Fields) (s : State) : Host.Outcome State Fault Refusal := issue (.ctxsv f) f (ctxsvEffect f) s

/-- The image at CTXBUF may be loaded (R378, R381): its header stands, and it records this CTXBUF. -/
def State.imageFits (s : State) : Bool :=
  let size := (s.pkg.mem.word s.region).toNat
  size != 0 && size ≤ 0x40000 && s.pkg.mem.word (s.region + 0xAE8) == s.ctx.sys.ctxbuf

/-- CTXLD (R378, R381): a header or a CTXBUF that does not fit loads nothing. -/
def ctxldEffect (s : State) : Eff :=
  if !s.core.kq.isEmpty then .hold s
  else match s.regionCheck s.region 0x41000 with
    | some none => .hold s
    | some (some t) => .trap t
    | none =>
      let u := s.published
      if u.imageFits then .ok u.loadContext else .trap (0x02, encodingVal 2 0x336)

/-- CTXLD (R381). -/
def execCtxld (f : Fields) (s : State) : Host.Outcome State Fault Refusal := issue (.ctxld f) f ctxldEffect s

/-- The waits and checks that both cluster forms share (R382). -/
def clusterForm (f : Fields) (s : State) (go : Nat → Eff) : Eff :=
  let a := s.val f.opA
  if a.toNat % 65536 != 0 then .trap (0x08, a)
  else if !s.kilnCmds.isEmpty || (List.range 8).any s.bufferBusy then .hold s
  else match s.regionCheck a.toNat clusterSize with
    | some none => .hold s
    | some (some t) => .trap t
    | none => go a.toNat

/-- CTXSV.CL (R382). -/
def execCtxsvCl (f : Fields) (s : State) : Host.Outcome State Fault Refusal :=
  issue (.ctxsvCl f) f (fun s => clusterForm f s fun a => .ok (s.published.saveCluster a)) s

/-- CTXLD.CL (R382, R383). -/
def ctxldClEffect (f : Fields) (s : State) : Eff :=
  clusterForm f s fun a =>
    if (List.range 8).any fun i => cbBad (s.published.imageFrom a clusterSize) (0x21800 + 64 * i) then .trap (0x02, encodingVal 4 0x336)
    else .ok (s.published.loadCluster a)

/-- CTXLD.CL (R382). -/
def execCtxldCl (f : Fields) (s : State) : Host.Outcome State Fault Refusal := issue (.ctxldCl f) f (ctxldClEffect f) s

end Sys2Proof.Machine
end

