-- ==== Sys2Proof/Machine/Control.lean ====
section
/-! DEFINITION. The control group (R101 to R103, R105); STOP stands with the tasks it ends (Tasks.lean). -/

namespace Sys2Proof.Machine

/-- A transfer to a target that a register holds (R101): at or above 0x40_0000 it raises 0x05 at the transfer. -/
def jumpTo (t : Word) (s : State) : Eff := if 0x400000 ≤ t.toNat then .trap (0x05, t) else .jump s t

/-- The target of a control transfer by its operand kind (R101): an immediate counts from the instruction's first word. -/
def State.target (s : State) (o : Operand) : Word :=
  match o with
  | .imm v => s.ctx.pc + v.signExtend 64
  | o => s.val o

/-- BR (R101). -/
def execBr (f : Fields) (s : State) : Host.Outcome State Fault Refusal :=
  issue (.br f) f (fun s => .jump s (s.target f.opA)) s

/-- CALL (R101): a register target is read before s62 is written. -/
def callEffect (f : Fields) (s : State) : Eff :=
  let t := s.target f.opA
  match f.opA with
  | .reg _ => if 0x400000 ≤ t.toNat then .trap (0x05, t) else .jump (s.put 1 (.s 62 (s.ctx.pc + 12))) t
  | _ => .jump (s.put 1 (.s 62 (s.ctx.pc + 12))) t

/-- CALL (R101). -/
def execCall (f : Fields) (s : State) : Host.Outcome State Fault Refusal := issue (.call f) f (callEffect f) s

/-- RET (R101). -/
def execRet (f : Fields) (s : State) : Host.Outcome State Fault Refusal :=
  issue (.ret f) f (fun s => jumpTo (s.ctx.regs.scalar 62) s) s

/-- JMP (R101). -/
def execJmp (f : Fields) (s : State) : Host.Outcome State Fault Refusal :=
  issue (.jmp f) f (fun s => jumpTo (s.target f.opA) s) s

/-- LOOP (R102): D − 1 at the selector's width; taken while it is not zero. -/
def loopEffect (f : Fields) (s : State) : Eff :=
  let w := selWidth f.sel
  let d := ((s.val f.opD).toNat % 2 ^ w + (2 ^ w - 1)) % 2 ^ w
  let s' := s.setS (some 1) f.opD (BitVec.ofNat 64 d)
  if d = 0 then .ok s' else .jump s' (s.target f.opA)

/-- LOOP (R102). -/
def execLoop (f : Fields) (s : State) : Host.Outcome State Fault Refusal := issue (.loop f) f (loopEffect f) s

/-- A word that a repeat body may not hold (R103): a control transfer, or one with a T mark. -/
def barredWord (w : IWord) : Bool :=
  w.getLsbD 75 || (match decodeWord w with | .ok (.pfx _) => false | .ok i => i.spec.ct | .error _ => false)

/-- The words of a repeat body of `k` instructions from an address (R103); a prefixed pair is one instruction. -/
def State.repWords (s : State) : Nat → Word → Except Trap (List IWord)
  | 0, _ => .ok []
  | k + 1, a =>
    match s.fetch a with
    | .error t => .error t
    | .ok w =>
      if barredWord w then .error (0x02, encodingVal 5 0x085)
      else if w.extractLsb' 86 10 == 0x300 then
        match s.fetch (a + 12) with
        | .error t => .error t
        | .ok w₂ =>
          if barredWord w₂ then .error (0x02, encodingVal 5 0x085)
          else (s.repWords k (a + 24)).map fun ws => w :: w₂ :: ws
      else (s.repWords k (a + 12)).map fun ws => w :: ws

/-- The words `ws` of a body of `n` instructions run `count` times, or not at all (R103). -/
def repeats (n : Nat) (count : BitVec 32) (ws : List IWord) (s : State) : Eff :=
  let body := s.ctx.pc + 12
  if count == 0 then .jump s (body + 12 * BitVec.ofNat 64 ws.length)
  else .enter { s with ctx := { s.ctx with rep := some ⟨body.extractLsb' 0 22, 0, count, n, ws⟩ } }

/-- The core follows another on a forwarding chain (R322). -/
def State.follows (s : State) : Bool := s.core.chain.any (!·.leads)

/-- REP (R103): the body is fetched whole; a count of 0 goes on after it. A follower is forwarded the body and repeats the leader's
count (R322); the words of its own store are those that it would run on after a departure (R324). Of the traps that different words of
the body raise, the first in address order is taken (DESIGN CHOICE, log entry 23). -/
def repEffect (f : Fields) (s : State) : Eff :=
  let n := (s.val f.opB).toNat
  if s.follows then repeats n (Config.forwardedCount s.tick) (s.own.bodyWords n (s.ctx.pc + 12).toNat) s
  else match s.repWords n (s.ctx.pc + 12) with
    | .error t => .trap t
    | .ok ws => repeats n ((s.val f.opA).extractLsb' 0 32) ws s

/-- REP (R103). -/
def execRep (f : Fields) (s : State) : Host.Outcome State Fault Refusal := issue (.rep f) f (repEffect f) s

/-- NOP (R105). -/
def execNop (f : Fields) (s : State) : Host.Outcome State Fault Refusal := issue (.nop f) f .ok s

end Sys2Proof.Machine
end

