-- ==== Sys2Proof/Machine/System.lean ====
section
/-! DEFINITION. The system registers (R106, Tables 5-10 and 21-6), and the system instructions (R369, R370, R388, R392 to R396). -/

namespace Sys2Proof.Machine

/-! ### Reading -/

/-- LCLUS (Table 1-8). -/
def State.lclus (s : State) : Word :=
  (s.cl.part.pidx.zeroExtend 64 <<< 16) ||| BitVec.ofNat 64 (s.cl.index % 512)

/-- PCORE (Table 1-10): the fused fields, of which a control core has only its index, its die, and the package rank. -/
def State.pcoreWord (s : State) : Word :=
  (s.core.pcore &&& (if s.core.control then 3 else 0x7FF)) ||| (bit01 s.core.control <<< 16) |||
    (BitVec.ofNat 64 (s.core.die % 4) <<< 11) ||| (BitVec.ofNat 64 (s.pkg.rank % 8) <<< 13)

/-- DBGCTL (R388). -/
def State.dbgctl (s : State) : Word := (bit01 s.core.dbgQuiesce <<< 2) ||| (bit01 s.core.dbgStep <<< 1) ||| bit01 s.core.dbgHalt

/-- The value of a system register by its number. -/
def State.sysRead (s : State) (n : Nat) : Word :=
  let y := s.ctx.sys
  match n with
  | 0x001 => BitVec.ofNat 64 s.pkg.cycle
  | 0x002 => s.ctx.retired
  | 0x003 => s.ctx.fmode
  | 0x004 => s.gearWord
  | 0x005 => s.cl.gear.cone
  | 0x006 => BitVec.ofNat 64 (s.core.idx % 8)
  | 0x007 => s.lclus
  | 0x008 => BitVec.ofNat 64 ((s.pkg.rank % 8 * 4 + s.core.die % 4) * 4 + s.core.die % 4)
  | 0x009 => BitVec.ofNat 64 (s.pkg.rank % 8)
  | 0x00A => s.cl.part.part
  | 0x00B => s.cl.part.sstep
  | 0x00C => y.kstep
  | 0x00D => y.kseed0
  | 0x00E => y.ktc
  | 0x00F => y.kvlim
  | 0x010 => y.kvfloor
  | 0x011 => y.kzth
  | 0x012 => (y.stalls.zeroExtend 64 <<< 32) ||| s.cl.gear.kgov.zeroExtend 64
  | 0x013 => s.mbxs
  | 0x014 => y.taskid
  | 0x015 => y.bbctab
  | 0x016 => y.lscale
  | 0x017 => y.lsstat
  | 0x018 => y.kwgt
  | 0x100 => s.pcoreWord
  | 0x101 => y.pid.zeroExtend 64
  | 0x102 => (bit01 s.ctx.trap.pk <<< 1) ||| bit01 s.core.k
  | 0x103 => s.ctx.trap.c
  | 0x104 => s.ctx.trap.pc.zeroExtend 64
  | 0x105 => s.ctx.trap.val
  | 0x106 => s.core.handler.zeroExtend 64
  | 0x107 => y.xlroot
  | 0x108 => s.core.trctl
  | 0x109 => s.dbgctl
  | 0x10A => y.ctxbuf
  | 0x10B => y.wdog.word
  | 0x10C => s.pkg.sensinj
  | _ => 0

/-- An access that will bring flags: a load that converts, or a float atomic that returns (R76, R82, R231). -/
def GAccess.bringsFlags (a : GAccess) : Bool :=
  match a.kind with
  | .load => a.ty.any fun t => a.fmt != 0x1F && a.fmt != t
  | .atomic op .. => isFloatAtom op && a.returns
  | _ => false

/-- Some floating-point instruction has not ORed its flags into FMODE (R82). -/
def State.flagsDue (s : State) : Bool :=
  (s.core.pend.any fun p => match p.w with | .flags _ => true | _ => false) || s.core.gq.any (·.bringsFlags)

/-- MFS (R106); one of FMODE waits for the flags (R82), and one of MBXS follows earlier loads (R216). -/
def mfsEffect (f : Fields) (s : State) : Eff :=
  let n := (s.val f.opA).toNat
  let s := if n = 0x13 then s.caughtUp else s
  if n = 3 && s.flagsDue then .hold s else .ok (s.setS (some 1) f.opD (s.sysRead n))

/-- MFS (R106). -/
def execMfs (f : Fields) (s : State) : Host.Outcome State Fault Refusal := issue (.mfs f) f (mfsEffect f) s

/-! ### Writing -/

/-- A register that user code may not write (Table 5-10). -/
def userReadOnly (n : Nat) : Bool :=
  n == 1 || n == 2 || n == 4 || n == 5 || n == 0x0A || n == 0x0B || n == 0x12 || n == 0x13 || n == 0x14 || n == 0x18

/-- A register with no field that kernel privilege writes (R106 step 3), and CYCLE on a compute core (R410). -/
def kernelReadOnly (n : Nat) (control : Bool) : Bool :=
  n == 4 || n == 5 || n == 0x0A || n == 0x0B || n == 0x12 || n == 0x13 || n == 0x14 || n == 0x100 || (n == 1 && !control)

/-- BBCTAB (R391): the table lies below 0x01_E000. -/
def bbctabOk (x : Word) : Bool :=
  let n := (x.extractLsb' 22 4).toNat
  let a := (x.extractLsb' 0 22).toNat
  n ≤ 10 && a % 4 == 0 && a + 4 * 2 ^ n ≤ 0x1E000

/-- LSCALE (R122). -/
def lscaleOk (x : Word) : Bool :=
  let b := fun lo => (x.extractLsb' lo 8).toInt
  0 ≤ b 8 + 126 && b 8 ≤ b 0 && b 0 ≤ b 16 && b 16 ≤ 127 && x.extractLsb' 24 16 != 0

/-- FMODE (R67). -/
def fmodeOk (x : Word) : Bool := x &&& 0xFFFFFFFFFFE0E0F0 == 0 && x.extractLsb' 0 3 ≤ 4#3

/-- The values that the registers' descriptions permit (R67, R122, R146, R181, R352, R356, R376, R378, R391, R409). -/
def sysValueOk (n : Nat) (x : Word) : Bool :=
  let clear := fun lo => x.toNat < 2 ^ lo
  match n with
  | 0x003 => fmodeOk x
  | 0x00E => clear 32
  | 0x00F | 0x010 => limitValueOk x
  | 0x011 => x &&& 0xFFFFFFFFFFFEF000 == 0
  | 0x015 => bbctabOk x
  | 0x016 => lscaleOk x
  | 0x018 => x &&& 0xFFFFFFFFFFFFF0F0 == 0 && x.extractLsb' 0 4 != 0 && x.extractLsb' 8 4 != 0
  | 0x101 => clear 16
  | 0x102 => clear 2
  | 0x103 => clear 9
  | 0x104 => clear 22 && x.toNat % 4 == 0
  | 0x106 => clear 22 && x.toNat % 4 == 0 && 0x1E000 ≤ x.toNat
  | 0x107 => clear 46 && x.toNat % 65536 == 0
  | 0x10A => (let t := tierOf ((x.extractLsb' 16 30).toNat * 65536); t == .dram || t == .hbm)
  | 0x10C => x.extractLsb' 24 39 == 0 && x.extractLsb' 20 2 != 3
  | _ => true

/-- A debug halt is requested (R388). -/
def State.haltRequest (on : Bool) (s : State) : State :=
  let s := { s with core := { s.core with dbgHalt := on } }
  if on then s.request fun r => { r with halt := true } else { s with core := { s.core with reqs := { s.core.reqs with halt := false } } }

def State.setSys (g : Sys → Sys) (s : State) : State := { s with ctx := { s.ctx with sys := g s.ctx.sys } }
def State.setTrap (g : TrapRegs → TrapRegs) (s : State) : State := { s with ctx := { s.ctx with trap := g s.ctx.trap } }

/-- A time that was `t` while the counter read `old`, now that it reads `new`. -/
def movedTime (old new t : Nat) : Nat := if old ≤ t then new + (t - old) else new - (old - t)

/-- The package counter reads `x` at the next fabric cycle (R410); what is due is due as long after as before. -/
def State.setCycle (x : Word) (s : State) : State :=
  let c := (x - 1).toNat
  let m := movedTime s.pkg.cycle c
  { s with
    pkg := { s.pkg with
      cycle := c, intervals := c / 20000
      multAt := s.pkg.multAt.map m
      refreshes := s.pkg.refreshes.map fun e => (e.1, e.2.1, m e.2.2)
      blocked := s.pkg.blocked.map fun e => (e.1, e.2.1, m e.2.2) }
    cl := { s.cl with gear := { s.cl.gear with handover := s.cl.gear.handover.map fun (h : Bool × Nat) => (h.1, m h.2) } } }

/-- The write of a value that the register permits: fields that are RO keep their values, and reserved bits read zero (R3). RETIRED
includes the `MTS`, and CYCLE counts from the next fabric cycle (R410). -/
def State.sysWrite (n : Nat) (x : Word) (s : State) : State :=
  match n with
  | 0x001 => s.setCycle x
  | 0x002 => { s with ctx := { s.ctx with retired := x - 1 } }
  | 0x003 => { s with ctx := { s.ctx with fmode := x } }
  | 0x00C => s.setSys fun y => { y with kstep := x &&& 0xFFFFFFFF }
  | 0x00D => s.setSys fun y => { y with kseed0 := x }
  | 0x00E => s.setSys fun y => { y with ktc := x }
  | 0x00F => s.setSys fun y => { y with kvlim := x }
  | 0x010 => s.setSys fun y => { y with kvfloor := x }
  | 0x011 => s.setSys fun y => { y with kzth := x }
  | 0x015 => s.setSys fun y => { y with bbctab := x &&& 0x8000000003FFFFFF }
  | 0x016 => s.setSys fun y => { y with lscale := x &&& 0xFFFFFFFFFF }
  | 0x017 => s.setSys fun y => { y with
      lsstat := (x &&& 0xFFFF0000FFFF) ||| (y.lsstat &&& 0x10000) ||| (y.lsstat &&& 0x20000 &&& ~~~x) }
  | 0x018 => s.setSys fun y => { y with kwgt := x }
  | 0x101 => s.setSys fun y => { y with pid := x.extractLsb' 0 16 }
  | 0x102 => s.setTrap fun t => { t with pk := x.getLsbD 1 }
  | 0x103 => s.setTrap fun t => { t with c := x }
  | 0x104 => s.setTrap fun t => { t with pc := x.extractLsb' 0 22 }
  | 0x105 => s.setTrap fun t => { t with val := x }
  | 0x106 => { s with core := { s.core with handler := x.extractLsb' 0 22 } }
  | 0x107 => s.setSys fun y => { y with xlroot := x }
  | 0x108 => { s with core := { s.core with trctl := x &&& 0xE0003FFFFFFFFF00 } }
  | 0x109 =>
    let s := { s with core := { s.core with dbgStep := x.getLsbD 1, dbgQuiesce := x.getLsbD 2 } }
    s.haltRequest (x.getLsbD 0)
  | 0x10A => s.setSys fun y => { y with ctxbuf := x &&& 0x3FFFFFFFFFFF }
  | 0x10B => s.setSys fun y => { y with wdog := Wdog.ofWord x }
  | 0x10C => s.inject x
  | _ => s

/-- MTS (R106): steps 3 and 4, and the write. -/
def mtsEffect (f : Fields) (s : State) : Eff :=
  let n := (s.val f.opD).toNat
  let x := s.val f.opA
  let denied : Trap := (0x04, (BitVec.ofNat 64 n <<< 20) ||| 0x331)
  if (6 ≤ n && n ≤ 9) || (userReadOnly n && !s.core.k) then .trap denied
  else if kernelReadOnly n s.core.control then .trap (0x02, encodingVal 3 0x331)
  else if !sysValueOk n x then .trap (0x02, encodingVal 4 0x331)
  else .ok (s.sysWrite n x)

/-- MTS (R106). -/
def execMts (f : Fields) (s : State) : Host.Outcome State Fault Refusal := issue (.mts f) f (mtsEffect f) s

/-- MTS to RETIRED (R410). -/
def execMtsRetired (f : Fields) (s : State) : Host.Outcome State Fault Refusal := issue (.mtsRetired f) f (mtsEffect f) s

/-- MTS to CYCLE (R410). -/
def execMtsCycle (f : Fields) (s : State) : Host.Outcome State Fault Refusal := issue (.mtsCycle f) f (mtsEffect f) s

/-- MTS to SENSINJ (R409). -/
def execSensinjWrite (f : Fields) (s : State) : Host.Outcome State Fault Refusal := issue (.sensinjWrite f) f (mtsEffect f) s

/-! ### Traps by request, return, and marks -/

/-- TRAP (R393, R400). -/
def trapEffect (f : Fields) (s : State) : Eff :=
  let a := (s.val f.opA).toNat
  if a = 0x11 && s.core.control && s.core.k then .stay (s.crash 4) else .trapIn (s.refetch (.trap f)) (0x100 + a, s.val f.opB)

/-- TRAP (R393). -/
def execTrap (f : Fields) (s : State) : Host.Outcome State Fault Refusal := issue (.trap f) f (trapEffect f) s

/-- SYSC (R369). -/
def execSysc (f : Fields) (s : State) : Host.Outcome State Fault Refusal :=
  issue (.sysc f) f (fun s => .trapIn (s.refetch (.sysc f)) (0x14, (s.val f.opA).extractLsb' 0 16 |>.zeroExtend 64)) s

/-- BRK (R394). -/
def execBrk (f : Fields) (s : State) : Host.Outcome State Fault Refusal :=
  issue (.brk f) f (fun s => .trapIn (s.refetch (.brk f)) (0x13, (s.val f.opA).extractLsb' 0 16 |>.zeroExtend 64)) s

/-- ERET (R395): it is traced where it stands (R390), it retires, and then the mode and the pc are restored as one effect. -/
def execEret (f : Fields) (s : State) : Host.Outcome State Fault Refusal :=
  issue (.eret f) f (fun s =>
    .stay ((s.trace 4 (s.ctx.trap.pc.zeroExtend 64)).retire f (s.ctx.trap.pc.zeroExtend 64) .taken).leaveTrap) s

/-- TMARK (R396). -/
def execTmark (f : Fields) (s : State) : Host.Outcome State Fault Refusal :=
  issue (.tmark f) f (fun s => .ok (s.trace 2 (s.val f.opA))) s

/-! ### Invalidation (R370) -/

/-- Entries leave every station once every access has been performed. -/
def State.invalidate (p : Kept → Bool) (s : State) : State :=
  let s := s.published
  { s with pkg := { s.pkg with kept := s.pkg.kept.filter fun k => !p k } }

/-- Some Kiln command has not read global bytes whose pages it translated at its issue (R138, R370). -/
def State.unread (s : State) : Bool := s.kilnCmds.any fun c => (tileHeader c.header).space == 2 && !c.openReads.isEmpty

/-- `STINV` holds at issue until what was translated has been performed, the Kiln's reads too, and the entries are gone. -/
def invalidates (p : Kept → Bool) (s : State) : Eff := if s.unread then .hold s else .ok (s.invalidate p)

/-- The entries of .VA: those of a PID that translate the page that holds an address. -/
def Kept.holds (k : Kept) (pid : BitVec 16) (va : Word) : Bool := k.pid == pid && k.vpn == va.toNat / 2 ^ levelShift k.level

/-- STINV.VA (R370). -/
def execStinvVa (f : Fields) (s : State) : Host.Outcome State Fault Refusal :=
  issue (.stinvVa f) f (fun s => invalidates (·.holds ((s.val f.opB).extractLsb' 0 16) (s.val f.opA)) s) s

/-- STINV.PID (R370). -/
def execStinvPid (f : Fields) (s : State) : Host.Outcome State Fault Refusal :=
  issue (.stinvPid f) f (fun s => invalidates (·.pid == (s.val f.opA).extractLsb' 0 16) s) s

/-- STINV.ALL (R370). -/
def execStinvAll (f : Fields) (s : State) : Host.Outcome State Fault Refusal :=
  issue (.stinvAll f) f (fun s => invalidates (fun _ => true) s) s

/-! ### DBGCTL through the halt tree (R388) -/

/-- DBGCTL_HALT (R388). -/
def execDbgctlHalt (s : State) : Host.Outcome State Fault Refusal := event (·.haltRequest true) s

/-- DBGCTL_STEP (R388). -/
def execDbgctlStep (s : State) : Host.Outcome State Fault Refusal :=
  event (fun s => { s with core := { s.core with dbgStep := true } }) s

/-- DBGCTL_QUIESCE (R389). -/
def execDbgctlQuiesce (on : Bool) (s : State) : Host.Outcome State Fault Refusal :=
  event (fun s => { s with core := { s.core with dbgQuiesce := on } }) s

end Sys2Proof.Machine
end

