-- ==== Sys2Proof/Machine/Tasks.lean ====
section
/-! DEFINITION. Launches, records, tasks and dispatch traces (R301 to R313, R333 to R339), and `STOP`, `TEXIT`, `POST` and `TASKQ`. -/

namespace Sys2Proof.Machine

/-! ### Records (Table 17-3) -/

def recEntry (w : BitVec 256) : BitVec 22 := w.extractLsb' 0 22
def recData (w : BitVec 256) : Word := w.extractLsb' 64 64
def recArg (w : BitVec 256) : Word := w.extractLsb' 128 64
def recGang (w : BitVec 256) : Nat := (w.extractLsb' 192 4).toNat
def recRed (w : BitVec 256) : Bool := w.getLsbD 196
def recHere (w : BitVec 256) : Bool := w.getLsbD 197
def recBudget (w : BitVec 256) : Nat := (w.extractLsb' 224 16).toNat

/-- The cores that a record needs (R308). -/
def recNeed (w : BitVec 256) : Nat := if recRed w then 2 * recGang w else recGang w

/-- What R304 demands of an image. -/
def recordOk (w : BitVec 256) : Bool :=
  w.extractLsb' 22 42 == 0 && (recEntry w).toNat % 4 == 0 && (recEntry w).toNat < 0x1E000 && w.extractLsb' 240 16 == 0 &&
    w.extractLsb' 198 26 == 0 && 1 ≤ recGang w && recGang w ≤ 8 && !(recRed w && 4 < recGang w)

/-- The placement entry of a data address (R305). -/
def placeEntry (data : Word) : Nat :=
  let g := (data.extractLsb' 16 36).toNat
  (g ^^^ (g / 2 ^ 12) ^^^ (g / 2 ^ 24)) % 4096

/-- The target PIDX of an address in the partition (R305, R333). -/
def Partition.target (p : Partition) (data : Word) : Nat :=
  let e := placeEntry data
  ((p.placement.find? (·.1 == e)).map (·.2)).getD (e % max 1 p.size)

def State.setPart (p : Partition) (s : State) : State := { s with cl := { s.cl with part := p } }

/-- The head of the launch queue changes: its wait begins (R334). -/
def State.newHead (s : State) : State :=
  s.setPart { s.cl.part with headWaits := 0, headAt := s.pkg.cycle, headBase := 0, owed := false }

/-- A record that a lower core posted in the same arithmetic cycle stands before that of a higher one (R307). -/
def Record.precedes (r x : Record) : Bool :=
  match r.posted, x.posted with
  | some (c, i), some (d, j) => c == d && i < j
  | _, _ => false

/-- A record at the end of a queue, before those that it precedes. -/
def insertRecord (r : Record) : List Record → List Record
  | [] => [r]
  | x :: xs => if (x :: xs).all r.precedes then r :: x :: xs else x :: insertRecord r xs

/-- A record enters the launch queue, or the overflow ring behind it (R306, R307); none when both are full. -/
def State.enqueueRecord (r : Record) (s : State) : Option State :=
  let n := s.cl.launchQ.length
  let all := insertRecord r (s.cl.launchQ ++ s.cl.overflow)
  if n < 256 && s.cl.overflow.isEmpty then
    let t := { s with cl := { s.cl with launchQ := all } }
    some (if n = 0 then t.newHead else t)
  else if s.cl.overflow.length < 65536 then some { s with cl := { s.cl with launchQ := all.take n, overflow := all.drop n } }
  else none

/-- OVERFLOW_RETURN (R306). -/
def State.returnOverflow (s : State) : State :=
  match s.cl.overflow with
  | [] => s
  | r :: rest =>
    if s.cl.launchQ.length < 256 then
      let t := { s with cl := { s.cl with launchQ := s.cl.launchQ ++ [r], overflow := rest } }
      if s.cl.launchQ.isEmpty then t.newHead else t
    else s

/-! ### Launches (R301, R302) -/

/-- The launch that formed this cluster's partition. -/
def State.launchHere (s : State) : Option Launch :=
  s.pkg.launches.find? fun l => !l.done && l.pnum == s.cl.part.part.extractLsb' 0 16

/-- A launch replaced. -/
def State.mapLaunch (n : Nat) (g : Launch → Launch) (s : State) : State :=
  { s with pkg := { s.pkg with launches := s.pkg.launches.map fun l => if l.number = n && !l.done then g l else l } }

def Launch.word (l : Launch) (o : Nat) : Word := vget l.desc (o / 8) 0

/-- The page parts of `n` bytes at virtual addresses, as Mboith reads them: offset, physical address and length. -/
def State.virtualParts (s : State) (who : Requester) (va : Word) (n : Nat) : Nat → Nat → Except Trap (List (Nat × Nat × Nat))
  | 0, _ => .ok []
  | k + 1, o =>
    if n ≤ o then .ok []
    else
      let len := min (n - o) (4096 - (va.toNat + o) % 4096)
      match s.translateAs false who .read (va + BitVec.ofNat 64 o) with
      | .error t => .error t
      | .ok (p, _) => match s.virtualParts who va n k (o + len) with
        | .error t => .error t
        | .ok ps => .ok ((o, p.pa, len) :: ps)

/-- `n` bytes at virtual addresses, or the trap of an access that faults or whose home has failed, or the hold of one whose home is not
ready (R14); a poisoned granule is uncorrectable (R208). -/
def State.fetchChecked (s : State) (who : Requester) (va : Word) (n : Nat) : Except Trap Memory :=
  match s.virtualParts who va n (n / 4096 + 2) 0 with
  | .error t => .error t
  | .ok ps => match s.homes (ps.map fun x => (va + BitVec.ofNat 64 x.1, x.2.1)) with
    | some none => .error (heldCause, va)
    | some (some t) => .error t
    | none => match (ps.flatMap fun x => (List.range x.2.2).map (x.2.1 + ·)).find? fun a => s.poisoned a 1 with
      | some a => .error (poisonTrap a, va)
      | none => .ok (Memory.canon (ps.flatMap fun x => (s.pkg.mem.slice x.2.1 (x.2.1 + x.2.2)).shift x.1))

/-- Those bytes; none where they cannot be read. -/
def State.fetchVirtual (s : State) (who : Requester) (va : Word) (n : Nat) : Option Memory :=
  match s.fetchChecked who va n with
  | .ok m => some m
  | .error _ => none

/-- What R301 and Table 17-2 demand of a descriptor: reserved bytes and bits are zero, and each initial value is one that its
register permits. -/
def descriptorOk (d : Vector Word 32) (clusters : Nat) : Bool :=
  let w := fun o => vget d (o / 8) 0
  let size := (w 0x70).extractLsb' 0 10
  fmodeOk (w 0) && w 0 &&& 0x1F00 == 0 && (w 8).ule 1 && lscaleOk (w 0x10) && limitValueOk (w 0x30) && limitValueOk (w 0x38) &&
    (w 0x58).ule 0x1E000 && 1 ≤ (w 0x68).toNat && (w 0x68).toNat ≤ 65536 && 1 ≤ size.toNat && size.toNat ≤ 512 &&
    size.toNat == clusters && (w 0x70).extractLsb' 10 2 == 0 && (w 0x70).extractLsb' 14 50 == 0 && (w 0x70).extractLsb' 12 2 != 3 &&
    (w 0x80).toNat % 8 == 0 && (List.range 14).all fun i => w (0x90 + 8 * i) == 0

/-- A trace whose OVF bit is set is not replayed (R338). -/
def State.replayable (s : State) (who : Requester) (d : Vector Word 32) : Bool :=
  (vget d 14 0).extractLsb' 12 2 != 2 || (match s.fetchVirtual who (vget d 15 0) 64 with
    | some m => !(m.word 16).getLsbD 0
    | none => false)

/-- The code image enters the local store of every core (R301). -/
def State.loadImage (img : Memory) (n : Nat) (s : State) : State :=
  { s with cl := { s.cl with
    stores := s.cl.stores.map fun m => Memory.canon (img.slice 0 n ++ m.filter (n ≤ ·.1))
    bad := s.cl.bad.filter fun g => !(g.1 < 8 && g.2 + 8 ≤ n) } }

/-- The initial records that the placement table sends here, in record order (R301, R305). -/
def initialRecords (p : Partition) (recs : Memory) (n launch : Nat) : List Record :=
  ((List.range n).map fun i => (⟨BitVec.ofNat 256 (recs.load (32 * i) 32), 0xFFFFFFFF, i, launch, none⟩ : Record)).filter fun r =>
    p.target (recData r.w) == p.pidx.toNat

/-- LAUNCH (R301): Mboith reads the descriptor, and forms the partition when nothing refuses it; its placement table has been filled
(R333). -/
def State.launch (who : Requester) (desc : Word) (pnum : BitVec 16) (clusters : List Nat) (number : BitVec 16) (s : State) : State :=
  match s.fetchChecked who desc 256 with
  | .error t => s.reportTrap t
  | .ok m =>
    let d : Vector Word 32 := Vector.ofFn fun i => m.word (8 * i.val)
    let w := fun o => vget d (o / 8) 0
    let n := (w 0x68).toNat
    let sorted := clusters.foldl (fun l x => insertNat x l) []
    match s.fetchChecked who (w 0x50) (w 0x58).toNat, s.fetchChecked who (w 0x60) (32 * n) with
    | .error t, _ => s.reportTrap t
    | _, .error t => s.reportTrap t
    | .ok img, .ok recs =>
      let table := fun (va : Word) => va == 0 || (s.fetchVirtual who va 1024).isSome
      let stands := descriptorOk d sorted.length && s.replayable who d && table (w 0x40) && table (w 0x48) && sorted.all (fun c => s.readyBit 0 c) &&
        (List.range n).all fun i => recordOk (BitVec.ofNat 256 (recs.load (32 * i) 32))
      if !stands || (clusters.contains s.cl.index && s.cl.part.member) || s.core.control then s
      else
        let mine := clusters.contains s.cl.index
        let p : Partition := { Partition.none with
          member := true
          part := (((w 0x70).extractLsb' 12 2).zeroExtend 64 <<< 44) ||| (((w 0x70).extractLsb' 0 10).zeroExtend 64 <<< 32) |||
            pnum.zeroExtend 64
          pidx := BitVec.ofNat 12 ((sorted.filter (· < s.cl.index)).length)
          placement := s.cl.part.placement.filter (·.2 < sorted.length)
          members := (List.range sorted.length).zip sorted }
        let rs := if mine then initialRecords p recs n number.toNat else []
        let s := { s with pkg := { s.pkg with
          launches := s.pkg.launches ++ [⟨number.toNat, who, d, rs.length, n - rs.length, 0, [], 0, pnum, false⟩] } }
        if mine then rs.foldl (fun s r => (s.enqueueRecord r).getD s) ((s.setPart p).loadImage img (w 0x58).toNat) else s

/-- The stamp of a launch (R302). -/
def Launch.stamp (l : Launch) : Word :=
  (bit01 (l.err != 0) <<< 63) ||| ((l.err.extractLsb' 0 4).zeroExtend 64 <<< 59) ||| BitVec.ofNat 64 (l.ran % 2 ^ 56)

/-- Every task of the launch has ended, here and in the other clusters of the partition (R302). -/
def Launch.over (l : Launch) : Bool := !l.done && l.outstanding == 0 && l.elsewhere == 0

/-- The launch is over, and the partition is dissolved; its moved lines return (R233). -/
def State.closeLaunch (l : Launch) (s : State) : State :=
  let here := s.cl.part.member && s.cl.part.part.extractLsb' 0 16 == l.pnum
  let s := s.mapLaunch l.number fun x => { x with done := true }
  if here then
    let s := (s.pkg.lines.filter (·.cluster == s.cl.index)).foldl (fun s x => s.lineReturn x.pa false) s
    { s with cl := { s.cl with part := Partition.none, xeng := Exchange.off } }
  else s

/-- LAUNCH_COMPLETE (R302): the stamp is written once its home is ready (R14); one at a failed home or at an address that faults is not. -/
def State.completeLaunch (s : State) : State :=
  match s.pkg.launches.find? (·.over) with
  | none => s
  | some l => match s.translateAs false l.who .write (l.word 0x80) with
    | .error t => if t.1 = heldCause then s else (s.reportTrap t).closeLaunch l
    | .ok (p, _) => match s.homeState p.pa with
      | none => s
      | some false => s.closeLaunch l
      | some true => (((s.waitRefresh [p.pa]).touch 512 p.pa).homeStore p.pa 8 l.stamp.toNat).closeLaunch l

/-! ### Dispatch traces (R336 to R339) -/

/-- Where an access of the launch's trace lies. -/
def State.tracePlace (s : State) (l : Launch) (k : AccKind) (o : Nat) : Option Nat :=
  match s.translateAs false l.who k (l.word 0x78 + BitVec.ofNat 64 o) with
  | .ok (p, _) => if s.homeState p.pa == some true then some p.pa else none
  | .error _ => none

/-- TRACE of the partition: 1 recording, 2 replaying. -/
def State.traceMode (s : State) : Nat := (s.cl.part.part.extractLsb' 44 2).toNat

/-- An entry is appended; without room OVF is set (R337). -/
def State.recordTrace (pidx : Nat) (cores : BitVec 8) (kind : Nat) (r : Record) (s : State) : State :=
  if s.traceMode != 1 then s
  else match s.launchHere with
  | none => s
  | some l =>
    match s.tracePlace l .write 0 with
    | none => s
    | some pa =>
      let n := (s.pkg.mem.word (pa + 8)).toNat
      if (s.pkg.mem.word pa).toNat ≤ n then s.homeStore (pa + 16) 8 (s.pkg.mem.word (pa + 16) ||| 1).toNat
      else match s.tracePlace l .write (64 + 16 * n) with
        | none => s
        | some e =>
          let w0 : Word := (BitVec.ofNat 64 pidx <<< 52) ||| (cores.zeroExtend 64 <<< 44) ||| (BitVec.ofNat 64 kind <<< 42) |||
            (s.cl.part.sstep &&& 0x3FFFFFFFFFF)
          let w1 : Word := (r.poster.zeroExtend 64 <<< 32) ||| BitVec.ofNat 64 (r.index % 2 ^ 32)
          ((s.homeStore e 8 w0.toNat).homeStore (e + 8) 8 w1.toNat).homeStore (pa + 8) 8 (n + 1)

/-- An entry of the trace that is replayed. -/
structure TraceEntry where
  at' : Nat
  pidx : Nat
  cores : BitVec 8
  kind : Nat
  poster : BitVec 32
  index : Nat

def TraceEntry.isOf (e : TraceEntry) (poster : BitVec 32) (index : Nat) : Bool := e.poster == poster && e.index == index

def TraceEntry.names (e : TraceEntry) (r : Record) : Bool := e.isOf r.poster r.index

/-- An entry is this cluster's (R338, Table 18-1): a dispatch here, a migration to this cluster or of one of its tasks, a reservation of
this cluster or of a record of its queue. -/
def State.traceMine (s : State) (e : TraceEntry) : Bool :=
  e.pidx == s.cl.part.pidx.toNat || (e.kind == 1 && s.cl.tasks.any fun t => e.isOf t.poster t.index) ||
    (e.kind == 2 && s.cl.launchQ.any e.names)

/-- This cluster's remaining entries (R338). -/
def State.traceRest (s : State) : List TraceEntry :=
  match s.launchHere with
  | none => []
  | some l =>
    match s.fetchVirtual l.who (l.word 0x78) 64 with
    | none => []
    | some h =>
      let n := (h.word 8).toNat % 2 ^ 32
      match s.fetchVirtual l.who (l.word 0x78 + 64) (16 * n) with
      | none => []
      | some m =>
        (((List.range n).filter fun i => !s.cl.part.traceDone.contains i) |>.map fun i =>
          let w0 := m.word (16 * i)
          let w1 := m.word (16 * i + 8)
          (⟨i, (w0.extractLsb' 52 12).toNat, w0.extractLsb' 44 8, (w0.extractLsb' 42 2).toNat, w1.extractLsb' 32 32,
            (w1.extractLsb' 0 32).toNat⟩ : TraceEntry)).filter s.traceMine

/-- In replay the entry whose turn it is, when it is of a kind (R338). -/
def State.traceTurn (s : State) (kind : Nat) : Option TraceEntry := s.traceRest.head?.filter (·.kind == kind)

/-- The entry whose turn it is has happened. -/
def State.tracePass (s : State) : State :=
  if s.traceMode != 2 then s
  else match s.traceRest with
    | e :: _ => s.setPart { s.cl.part with traceDone := e.at' :: s.cl.part.traceDone }
    | [] => s

/-- An entry that can never be met (R339): of the reserved kind, for no cluster of the partition, or with another number of cores than its
record or its task takes. -/
def State.cannotBeMet (s : State) (e : TraceEntry) : Bool :=
  let cores := popCount 8 e.cores.toNat
  match e.kind with
  | 0 => (s.cl.launchQ ++ s.cl.overflow).any fun r => e.names r && cores != recNeed r.w
  | 1 => s.cl.part.size ≤ e.pidx || s.cl.tasks.any fun t => e.isOf t.poster t.index && cores != popCount 8 (t.cores ||| t.shadow).toNat
  | 2 => s.cl.part.size ≤ e.pidx
  | _ => true

/-- A divergence (R339): a record that has arrived is in no remaining entry, or cannot be placed by what remains. -/
def State.diverges (s : State) : Bool :=
  s.traceMode == 2 && (
    let rest := s.traceRest
    let here := s.cl.launchQ ++ s.cl.overflow
    here.any (fun r => match rest.find? fun e => e.kind != 1 && e.names r with
      | none => true
      | some e => s.cannotBeMet e) ||
    (!here.isEmpty && rest.head?.any s.cannotBeMet))

/-- Mboith stops the launch (R339): bit 59, its records are dropped, and the halt tree stops its cores. -/
def State.diverge (s : State) : State :=
  match s.launchHere with
  | none => s
  | some l =>
    let s := s.mapLaunch l.number fun x => { x with err := x.err ||| 1, outstanding := s.cl.tasks.length }
    let s := { s with cl := { s.cl with launchQ := [], overflow := [], outRecs := [] } }
    if s.core.run == .running && !s.core.control then s.request fun r => { r with stop := some 1 } else s

/-! ### Dispatch (R308, R107) -/

/-- The free cores of the cluster in ascending order. -/
def State.freeCores (s : State) : List Nat :=
  (List.range 8).filter fun i => if i = s.core.idx then s.core.run == .free && !s.core.control else !s.cl.busy.getLsbD i

/-- Cores as a set. -/
def coreSet (l : List Nat) : BitVec 8 := l.foldl (fun m i => m ||| bit8 i) 0

/-- The record that is dispatched next, by its place in the queue, and the cores that it takes (R308, R338). -/
def State.nextDispatch (s : State) : Option (Nat × Record × List Nat) :=
  if s.traceMode == 2 then
    match s.traceTurn 0 with
    | some e => match s.cl.launchQ.findIdx? e.names with
      | none => none
      | some k => match s.cl.launchQ[k]? with
        | none => none
        | some r =>
          let cores := (List.range 8).filter fun i => e.cores.getLsbD i
          if cores.all s.freeCores.contains && cores.length == recNeed r.w then some (k, r, cores) else none
    | none => none
  else match s.cl.launchQ with
    | [] => none
    | r :: _ => if recNeed r.w ≤ s.freeCores.length then some (0, r, s.freeCores.take (recNeed r.w)) else none

/-- TASK_DISPATCH is possible. -/
def State.dispatchable (s : State) : Bool :=
  s.cl.part.member && !s.cl.part.exchange && s.cl.gear.handover.isNone && !s.pkg.frozen && s.pkg.stage < 2 &&
    (s.diverges || s.nextDispatch.isSome)

/-- A table of 1 KiB at an address of the descriptor; 0 gives zeros (Table 17-2). -/
def State.launchTable (s : State) (who : Requester) (va : Word) : Memory :=
  if va == 0 then [] else (s.fetchVirtual who va 1024).getD []

/-- The registers at task entry (R107): argument, data address, index in the gang, gang size. -/
def entryRegs (arg data : Word) (i gang : Nat) : Regs :=
  let r := Regs.reset
  { r with s := (((r.s.set 1 arg).set 2 data).set 3 (BitVec.ofNat 64 i)).set 4 (BitVec.ofNat 64 gang) }

/-- The context that a launch's task starts with (R107, R301, R397). -/
def State.entryContext (s : State) (l : Launch) (r : Record) (id : Word) (i : Nat) : Ctx :=
  let budget := if recBudget r.w = 0 then (l.word 0x88).toNat else recBudget r.w
  let y : Sys :=
    { Sys.reset with
      pid := l.who.pid, xlroot := l.who.root, ctxbuf := s.ctx.sys.ctxbuf
      wdog := ⟨budget != 0, 0, BitVec.ofNat 32 budget⟩
      kstep := l.word 0x20, kseed0 := l.word 0x28, kvlim := l.word 0x30, kvfloor := l.word 0x38
      lscale := l.word 0x10, lsstat := l.word 0x18, gearReq := (l.word 8).getLsbD 0, taskid := id }
  { Ctx.reset with
    regs := entryRegs (recArg r.w) (recData r.w) i (recGang r.w)
    pc := (recEntry r.w).zeroExtend 64
    fmode := fmodeBits (l.word 0)
    cb2 := s.launchTable l.who (l.word 0x40)
    mq8 := s.launchTable l.who (l.word 0x48)
    sys := y.clean
    address := s.core.idx }

/-- The core takes a context: nothing of an earlier one is in flight. -/
def State.seat (c : Ctx) (red : Option Redundant) (s : State) : State :=
  let s := s.passMutexes 0
  { s with
    ctx := c
    core := { s.core with
      run := .running, k := s.core.control, halted := false, armed := false, saved := true, pend := [], locked := [], pre := none
      ifetch := s.own, gq := [], wait := none, fence := none, reqs := Requests.none, kq := [], chain := none, red
      badRegs := [], badAcc := [], badCtx := [] } }

/-- The gang takes its cores (R308, R312): the primary the lower ones, the shadow the others. -/
def State.dispatchOn (k : Nat) (r : Record) (cores : List Nat) (l : Launch) (s : State) : State :=
  let gang := recGang r.w
  let prim := cores.take gang
  let shadow := cores.drop gang
  let id : Word := (BitVec.ofNat 64 (l.number % 65536) <<< 32) ||| BitVec.ofNat 64 (s.cl.part.pidx.toNat * 2 ^ 20 + s.cl.dispatched % 2 ^ 20)
  let others := coreSet (cores.filter (· != s.core.idx))
  let req := (l.word 8).getLsbD 0
  let s := s.recordTrace s.cl.part.pidx.toNat (coreSet cores) 0 r
  let s := s.tracePass
  let s := { s with cl := { s.cl with
    launchQ := s.cl.launchQ.eraseIdx k
    dispatched := s.cl.dispatched + 1
    busy := s.cl.busy ||| others
    addresses := s.cl.addresses ||| coreSet cores
    gearReqs := if req then s.cl.gearReqs ||| others else s.cl.gearReqs &&& ~~~others
    part := { s.cl.part with reserved := false }
    tasks := s.cl.tasks ++ [(⟨id, coreSet prim, coreSet shadow, 0, 0, l.number, 0, false, false, [], r.poster, r.index⟩ : Task)] } }.newHead
  let s := match prim.findIdx? (· == s.core.idx), shadow.findIdx? (· == s.core.idx) with
    | some i, _ =>
      let s := { s with cl := { s.cl with gangMembers := coreSet prim, gangArrived := 0, gangTx := none } }
      s.seat (s.entryContext l r id i) (if recRed r.w then some (⟨false, BitVec.allOnes 64, []⟩ : Redundant) else none)
    | none, some i =>
      let s := { s with cl := { s.cl with gangMembers := coreSet shadow, gangArrived := 0, gangTx := none } }
      s.seat (s.entryContext l r (id ||| (1 <<< 48)) i) (some (⟨true, BitVec.allOnes 64, []⟩ : Redundant))
    | none, none => s
  if s.gearDue then s.startHandover s.requiredGear else s

/-- TASK_DISPATCH (R308). -/
def State.dispatch (s : State) : State :=
  if !s.dispatchable then s
  else if s.diverges then s.diverge
  else match s.nextDispatch, s.launchHere with
    | some (k, r, cores), some l => s.dispatchOn k r cores l
    | _, _ => s

/-- The periods through which the head record has waited: superstep releases, or 64 µs where there are none (R334). -/
def State.headPeriods (s : State) : Nat :=
  s.cl.part.headBase +
    if s.cl.part.sstep == 0 && !s.cl.part.exchange then (s.pkg.cycle - s.cl.part.headAt) / 128000 else s.cl.part.headWaits

/-- The free cores of a cluster of the partition, as the controller knows them. -/
def State.freeAt (s : State) (pidx : Nat) : BitVec 8 :=
  if pidx = s.cl.part.pidx.toNat then coreSet s.freeCores
  else ((s.cl.part.others.find? (·.1 == pidx)).map (·.2)).getD (BitVec.allOnes 8)

/-- The cluster with the most free cores, the lowest PIDX among equals (R334). -/
def State.emptiest (s : State) : Nat :=
  (List.range s.cl.part.size).foldl (fun b p => if popCount 8 (s.freeAt b).toNat < popCount 8 (s.freeAt p).toNat then p else b) 0

/-- The reservation that is due (R334), in replay the one whose entry has come up (R338): the record's place in the queue, the record
and the cluster. -/
def State.nextReservation (s : State) : Option (Nat × Record × Nat) :=
  if !s.cl.part.member || s.cl.part.reserved then none
  else if s.traceMode == 2 then
    (s.traceTurn 2).bind fun e => (s.cl.launchQ.findIdx? e.names).bind fun k => (s.cl.launchQ[k]?).map fun r => (k, r, e.pidx)
  else if s.headPeriods < 4 then none
  else s.cl.launchQ.head?.map fun r => (0, r, s.emptiest)

/-- A task of the launch is outstanding in another cluster and no longer here. -/
def State.sendAway (l : Nat) (s : State) : State :=
  s.mapLaunch l fun x => { x with outstanding := x.outstanding - 1, elsewhere := x.elsewhere + 1 }

/-- RECORD_RESERVATION (R334): the record moves to the head of the reserved cluster's queue. -/
def State.reserve (pidx : Nat) (s : State) : State :=
  match s.nextReservation with
  | none => s
  | some (k, r, p) =>
    if p != pidx || s.cl.part.size ≤ pidx then s
    else
      let s := (s.recordTrace pidx 0 2 r).tracePass
      let rest := s.cl.launchQ.eraseIdx k
      if pidx = s.cl.part.pidx.toNat then { s with cl := { s.cl with launchQ := r :: rest, part := { s.cl.part with reserved := true } } }
      else
        let t := { s.sendAway r.launch with cl := { (s.sendAway r.launch).cl with launchQ := rest } }
        if k = 0 then t.newHead else t

/-- A record that another cluster's reservation sends here: it stands at the head, and no other is dispatched before it (R334). It has waited
through four releases there. -/
def State.takeReserved (r : Record) (s : State) : State :=
  let s := if (s.traceTurn 2).any (·.names r) then s.tracePass else s
  let s := ({ s with cl := { s.cl with launchQ := r :: s.cl.launchQ, part := { s.cl.part with reserved := true } } }.mapLaunch r.launch
    fun x => { x with outstanding := x.outstanding + 1, elsewhere := x.elsewhere - 1 }).newHead
  s.setPart { s.cl.part with headBase := 4 }

/-! ### The end of a member and of a task (R310, R313, R398) -/

/-- TASKID without COPY. -/
def State.taskKey (s : State) : Word := s.ctx.sys.taskid &&& ~~~(1#64 <<< 48)

/-- A task's cores. -/
def Task.all (t : Task) : BitVec 8 := t.cores ||| t.shadow

/-- The core of member 0, the lowest of the gang. -/
def Task.first (t : Task) : Option Nat := (List.range 8).find? fun i => t.cores.getLsbD i

/-- The members that are each other's twins (R312), the primary's first. -/
def Task.pairs (t : Task) : List (Nat × Nat) :=
  let list := fun (m : BitVec 8) => (List.range 8).filter fun i => m.getLsbD i
  (list t.cores).zip (list t.shadow)

/-- A running task changed. -/
def State.mapTask (id : Word) (g : Task → Task) (s : State) : State :=
  { s with cl := { s.cl with tasks := s.cl.tasks.map fun t => if t.id == id then g t else t } }

/-- Tasks all of whose members have ended end, unless their copies differed (R310, R313); one that Mboith has stopped posts no
completion. -/
def State.endTasks (s : State) : State :=
  let done := fun (t : Task) => t.all &&& ~~~t.ended == 0 && (t.stopped || !t.differs)
  let gone := s.cl.tasks.filter done
  gone.foldl (fun s t => s.mapLaunch t.launch fun x => { x with
      outstanding := x.outstanding - 1, ran := x.ran + 1, exits := if t.stopped then x.exits else x.exits ++ [(t.id, t.code)] })
    { s with cl := { s.cl with tasks := s.cl.tasks.filter fun t => !done t } }

/-- A member of a task has ended; the exit code is member 0's (R310). -/
def State.markEnded (id : Word) (core code : Nat) (s : State) : State :=
  s.mapTask id fun t => { t with ended := t.ended ||| bit8 core, code := if t.first == some core then code else t.code }

/-- The core holds no context: it is free, and what waits for the context's address is dropped (R310, R326). -/
def State.vacate (s : State) : State :=
  let a := s.ctx.address
  let mine := fun (m : Nat × Vec) => m.1 == a
  { s with
    core := { s.core with run := .free, k := s.core.control, wait := none, pre := none, red := none, chain := none, halted := false, armed := false }
    cl := { s.cl with
      inbound := s.cl.inbound.filter fun m => !mine m
      addresses := s.cl.addresses &&& ~~~bit8 a
      gangMembers := 0, gangArrived := 0, gangTx := none }
    pkg := { s.pkg with dropped := s.pkg.dropped + (s.cl.inbound.filter mine).length } }

/-- This member ends (R292, R310). -/
def State.memberEnds (code : Nat) (s : State) : State :=
  let id := s.taskKey
  let a := s.ctx.address
  (s.endTx.leaveChain.vacate.markEnded id a code).endTasks

/-- The context on this core is a task's member, of an address. -/
def State.isMember (s : State) (id : Word) (a : Nat) : Bool := s.core.run != .free && s.taskKey == id && s.ctx.address == a

/-- A member ends, on this core or on another (R310). -/
def State.someoneEnds (id : Word) (a code : Nat) (s : State) : State :=
  if s.isMember id a then s.memberEnds code
  else
    let s := { s with cl := { s.cl with busy := s.cl.busy &&& ~~~bit8 a, addresses := s.cl.addresses &&& ~~~bit8 a } }
    (s.markEnded id a code).endTasks

/-- The redundant-run mismatch (R313, R398): the task is withheld, and Mboith hears of it (0x18). -/
def State.differ (t : Task) (s : State) : State :=
  let s := (s.sherd 6 (t.id &&& 0xFFFFFFFF)).mapLaunch t.launch fun x => { x with err := x.err ||| 8 }
  let s := s.mapTask t.id fun t => { t with differs := true }
  { s with pkg := { s.pkg with reports := t.id :: s.pkg.reports } }

/-- A member of a redundant task has executed `TEXIT`. When its twin has too, equal signatures end both, and others are the mismatch
(R313). -/
def State.compareTwin (id : Word) (a code : Nat) (sig : Word) (s : State) : State :=
  let s := s.mapTask id fun t => { t with sigs := (a, code, sig) :: t.sigs }
  match s.cl.tasks.find? (·.id == id) with
  | none => s
  | some t => match t.pairs.find? fun p => p.1 == a || p.2 == a with
    | none => s
    | some p => match t.sigs.find? (·.1 == p.1), t.sigs.find? (·.1 == p.2) with
      | some x, some y =>
        if x.2.2 == y.2.2 then (s.someoneEnds id p.1 x.2.1).someoneEnds id p.2 y.2.1 else s.differ t
      | _, _ => s

/-- `TEXIT` of another core of the cluster, with its exit code and signature. -/
def State.otherEnds (core code : Nat) (sig : Word) (s : State) : State :=
  match s.cl.tasks.find? fun t => t.all.getLsbD core && !t.ended.getLsbD core && !t.stopped && !t.sigs.any (·.1 == core) with
  | none => s
  | some t =>
    if s.isMember t.id core then s
    else if t.shadow == 0 then s.someoneEnds t.id core code
    else s.compareTwin t.id core code sig

/-- A claim whose queue's DONE has not reached its number, or cannot be read before the home of its page table is ready (R14, R310
step 4). -/
def State.claimsOpen (s : State) : Bool :=
  s.ctx.claims.any fun c => match s.translate s.me .read c.q with
    | .ok (p, _) => low56 (s.desc p.pa 0x18) < c.seq
    | .error t => t.1 = heldCause

/-- TEXIT (R310, R313). -/
def texitEffect (f : Fields) (s : State) : Eff :=
  let code := (s.val f.opA).toNat
  let r := s.landAll.drainStreams.drain
  match r.2 with
  | some va => .trap (farError, va)
  | none =>
    if !r.1.core.kq.isEmpty || r.1.claimsOpen then .hold r.1
    else
      let s := r.1.retire f s.ctx.pc .seq
      match s.core.red with
      | none => .stay (s.memberEnds code)
      | some x =>
        let sig := crcBytes (crcBytes x.sig 8 s.taskKey.toNat) 8 code ^^^ BitVec.allOnes 64
        .stay ({ s with core := { s.core with run := .ended code, red := some { x with sig } } }.compareTwin s.taskKey s.ctx.address code sig)

/-- TEXIT (R310). -/
def execTexit (f : Fields) (s : State) : Host.Outcome State Fault Refusal := issue (.texit f) f (texitEffect f) s

/-- The transactions of the gangs of a task whose other members have been discarded: their part in them ends (R292). -/
def State.gangsGone (t : Task) (s : State) : State :=
  let gone := if s.core.run != .free && s.taskKey == t.id then (List.range 8).filter fun i => s.gangAll.getLsbD i && i != s.ctx.address else []
  let s := gone.foldl (fun s i => s.gangEnd i) s
  let mark := fun (g : Nat × BitVec 8 × BitVec 8 × Option GangTx) =>
    if g.2.1 != 0 && (g.2.1 == t.cores || g.2.1 == t.shadow) then
      (g.1, g.2.1, g.2.2.1, g.2.2.2.map fun x => { x with ended := x.ended ||| g.2.1 })
    else g
  { s with cl := { s.cl with gangs := s.cl.gangs.map mark } }.savedReleases

/-- A task is stopped (R302, R310): `bit` of the launch's error is set, and the halt tree stops the other members, which Mboith discards. Once
this core's member has gone too, the task ends as stopped. -/
def State.stopTask (t : Task) (bit : BitVec 8) (s : State) : State :=
  let here := s.isMember t.id s.ctx.address && t.all.getLsbD s.ctx.address && !t.ended.getLsbD s.ctx.address
  let left := if here then bit8 s.ctx.address else 0
  let s := (s.mapLaunch t.launch fun x => { x with err := x.err ||| bit }).gangsGone t
  ({ s with cl := { s.cl with
    busy := s.cl.busy &&& ~~~t.all
    addresses := s.cl.addresses &&& ~~~(t.all &&& ~~~bit8 s.ctx.address) } }.mapTask t.id fun t =>
      { t with stopped := true, ended := t.all &&& ~~~left }).endTasks

/-- This core's member has ended, and its task is stopped: with `bit`, unless that has been done (R104, R310). -/
def State.taskStopped (bit : BitVec 8) (s : State) : State :=
  let a := s.ctx.address
  let s := s.mapTask s.taskKey fun t => { t with ended := t.ended ||| bit8 a }
  match s.cl.tasks.find? (·.id == s.taskKey) with
  | none => s
  | some t => s.stopTask t (if t.stopped then 0 else bit)

/-- Another member has executed `STOP`, or Mboith has discarded it, after a watchdog expiry or another cause: its task is stopped, and the
halt tree stops this core when it holds a member (R104, R310). -/
def State.otherStops (core : Nat) (watchdog : Bool) (s : State) : State :=
  match s.cl.tasks.find? fun t => t.all.getLsbD core && !t.ended.getLsbD core && !t.stopped with
  | none => s
  | some t =>
    if s.isMember t.id core then s
    else
      let u := s.stopTask t (if watchdog then 2 else 4)
      if s.core.run == .running && s.taskKey == t.id then u.request fun r => { r with stop := some 1 } else u

/-- STOP (R104): the context is left stopped at it, with its code. -/
def stopEffect (f : Fields) (s : State) : Eff :=
  let code := match f.opA with | .imm v => v.toNat | _ => 0
  let r := s.settle
  match r.2 with
  | some va => .trap (farError, va)
  | none =>
    let s := (r.1.retire f s.ctx.pc .seq).endTx
    .stay ({ s with core := { s.core with run := .stopped code }, pkg := { s.pkg with reports := s.ctx.pc :: s.pkg.reports } }.taskStopped 4)

/-- STOP (R104). -/
def execStop (f : Fields) (s : State) : Host.Outcome State Fault Refusal := issue (.stop f) f (stopEffect f) s

/-- Mboith may discard the context: it has trapped, stopped, or waits at its `TEXIT`. -/
def State.discardable (s : State) : Bool :=
  !s.core.control && (match s.core.run with | .free => false | .running => s.core.k | _ => true)

/-- CONTEXT_DISCARD (R292, R310): bit 60 after a watchdog expiry, 61 after another cause; a mismatch has set bit 62. -/
def State.discard (s : State) : State :=
  if !s.discardable then s
  else
    let ended := match s.core.run with | .ended _ => true | _ => false
    let bit : BitVec 8 := if ended then 0 else if s.core.k && s.ctx.trap.c == 0x10 then 2 else 4
    let s := (s.settle.1.withdraw.endTx.taskStopped bit).vacate
    { s with core := { s.core with kq := [] } }

/-! ### Migration (R334, R335) -/

/-- The sets of `k` tasks, those of tasks that have run longer first; the running tasks stand in the order of their dispatch. -/
def taskSets : Nat → List Task → List (List Task)
  | 0, _ => [[]]
  | _ + 1, [] => []
  | k + 1, t :: ts => (taskSets k ts).map (t :: ·) ++ taskSets (k + 1) ts

/-- The `n` lowest cores of a set. -/
def lowestCores (n : Nat) (m : BitVec 8) : BitVec 8 := coreSet (((List.range 8).filter fun i => m.getLsbD i).take n)

/-- The cores that a task takes on another cluster of which some are taken already; none where it does not fit. -/
def State.roomAt (s : State) (taken : List (Nat × BitVec 8)) (t : Task) (p : Nat) : Option (BitVec 8) :=
  let n := popCount 8 t.all.toNat
  let free := (taken.filter (·.1 == p)).foldl (fun m x => m &&& ~~~x.2) (s.freeAt p)
  if p != s.cl.part.pidx.toNat && n ≤ popCount 8 free.toNat then some (lowestCores n free) else none

/-- Every task of a set fits on the free cores of one other cluster: where each goes, and the cores that it takes. -/
def State.fits (s : State) : List Task → List (Nat × BitVec 8) → Option (List (Task × Nat × BitVec 8))
  | [], _ => some []
  | t :: ts, taken => (List.range s.cl.part.size).findSome? fun p => (s.roomAt taken t p).bind fun m =>
      (s.fits ts ((p, m) :: taken)).map ((t, p, m) :: ·)

/-- The smallest set of whole gangs that frees enough cores for a record and fits elsewhere, of those that have run longest (R334). -/
def State.leavers (s : State) (r : Record) : Option (List (Task × Nat × BitVec 8)) :=
  (List.range 8).findSome? fun k => (taskSets (k + 1) s.cl.tasks).findSome? fun ts =>
    if recNeed r.w ≤ s.freeCores.length + (ts.map fun t => popCount 8 (t.all &&& ~~~t.ended).toNat).sum then s.fits ts [] else none

/-- The migration that is due (R334): the cluster is reserved, the record has waited through two further releases, and the partition is
at a barrier, if it has any, or was when this core's context could not be saved yet; in replay the one whose entry has come up (R338). -/
def State.nextMigration (s : State) : Option (Task × Nat × BitVec 8) :=
  if !s.cl.part.member then none
  else if s.traceMode == 2 then
    (s.traceTurn 1).bind fun e => (s.cl.tasks.find? fun t => e.isOf t.poster t.index).map fun t => (t, e.pidx, e.cores)
  else if !s.cl.part.reserved || s.headPeriods < 6 || !(s.allArrived || s.cl.part.owed || (s.cl.part.sstep == 0 && !s.cl.part.exchange)) then none
  else s.cl.launchQ.head?.bind fun r =>
    if recNeed r.w ≤ s.freeCores.length then none else (s.leavers r).bind List.head?

/-- This core's context can be saved: it runs a task, in user mode and with no Kiln command left (R164, R225). -/
def State.mayLeave (s : State) : Bool := s.core.run == .running && !s.core.k && s.core.kq.isEmpty

/-- The cores that a migrating task takes on a cluster: those of its entry in replay, and else the lowest free ones. -/
def State.tookCores (s : State) (t : Task) (entry : Nat × BitVec 8) (dest : Nat) : Option (BitVec 8) :=
  if s.traceMode == 2 then (if entry.1 = dest then some entry.2 else none) else s.roomAt [] t dest

/-- A task leaves for another cluster, whose cores it takes. -/
def State.leaveFor (dest : Nat) (took : BitVec 8) (t : Task) (s : State) : State :=
  let s := (s.recordTrace dest took 1 ⟨0, t.poster, t.index, 0, none⟩).tracePass
  let free := s.freeAt dest &&& ~~~took
  { s.sendAway t.launch with cl := { (s.sendAway t.launch).cl with
    tasks := s.cl.tasks.filter (·.id != t.id)
    busy := s.cl.busy &&& ~~~t.all
    part := { s.cl.part with others := (dest, free) :: s.cl.part.others.filter (·.1 != dest) } } }

/-- GANG_MIGRATION (R334, R335): a whole gang leaves for another cluster; this core's context is pre-empted and saved first (R225). -/
def State.migrate (cores : BitVec 8) (dest : Nat) (s : State) : State :=
  match s.nextMigration with
  | none => s
  | some (t, p, m) =>
    let here := s.core.run != .free && s.taskKey == t.id
    if cores != t.all || s.cl.part.size ≤ dest || dest = s.cl.part.pidx.toNat || (here && !s.mayLeave) then s
    else match s.tookCores t (p, m) dest with
      | none => s
      | some took =>
        let u := s.leaveFor dest took t
        if here then ((u.enterTrap 0x15 0 u.ctx.pc).saveContext true).vacate else u

/-- This core restores the context of a member that migrates to it, from the region of its CTXBUF (R225, R381), and resumes it; none where
the image does not load. DESIGN CHOICE (log entry 59): the signature of a redundant member comes with it. -/
def State.restoreHere (t : Task) (ctxbuf sig : Word) (s : State) : Option State :=
  let red := if t.shadow == 0 then none else some (⟨t.shadow.getLsbD s.core.idx, sig, []⟩ : Redundant)
  let u := s.seat { Ctx.reset with sys := { Sys.reset with ctxbuf }, address := s.core.idx } red
  if (u.regionCheck u.region 0x41000).isNone && u.imageFits && u.loadContext.taskKey == t.id then some u.loadContext.leaveTrap else none

/-- A gang that migrates to this cluster takes free cores of it (R334). -/
def State.gangArrives (t : Task) (ctxbuf sig : Word) (s : State) : State :=
  let cores := t.all
  if !s.cl.part.member || !((List.range 8).all fun i => !cores.getLsbD i || s.freeCores.contains i) then s
  else
    let u := if (s.traceTurn 1).any fun e => e.isOf t.poster t.index then s.tracePass else s
    let u := { u with cl := { u.cl with
      tasks := u.cl.tasks ++ [t], busy := u.cl.busy ||| (cores &&& ~~~bit8 u.core.idx) } }.mapLaunch t.launch fun x => { x with
        outstanding := x.outstanding + 1, elsewhere := x.elsewhere - 1 }
    if cores.getLsbD s.core.idx then (u.restoreHere t ctxbuf sig).getD s else u

/-! ### Instructions -/

/-- A member of a task posts a record, which goes to its queue (R304 to R306); none where that is full. -/
def State.sendRecord (id : Word) (core : Nat) (w : BitVec 256) (s : State) : Option State :=
  let p := s.cl.part
  let target := if recHere w then p.pidx.toNat else p.target (recData w)
  let l := (s.launchHere.map (·.number)).getD 0
  let n := ((s.cl.tasks.find? (·.id == id)).map (·.posts)).getD 0
  let r : Record := ⟨w, id.extractLsb' 0 32, n, l, some (s.core.cyc, core)⟩
  let posted := fun (s : State) =>
    (s.mapTask id fun t => { t with posts := t.posts + 1 }).mapLaunch l fun x => { x with outstanding := x.outstanding + 1 }
  if target = p.pidx.toNat then (s.enqueueRecord r).map posted
  else if 256 ≤ s.cl.outRecs.length then none
  else some (posted { s with cl := { s.cl with outRecs := s.cl.outRecs ++ [(target, r)] } })

/-- POST (R304 to R306, R412): what stands before it is performed before the task that it starts (R311). -/
def postEffect (f : Fields) (s : State) : Eff :=
  partitioned 0x310 s <|
    let a := s.val f.opA
    let s := s.published
    match s.imageAt a 32 with
    | .error t => .trap t
    | .ok img =>
      let w := BitVec.ofNat 256 img
      if !recordOk w then .trap (0x02, encodingVal 4 0x310)
      else
        let signed := s.endWait.sign a.toNat 32 img
        if s.isShadow then .ok signed
        else match signed.sendRecord s.taskKey s.core.idx w with
          | none => .hold (s.waitFor .post)
          | some t => .ok t

/-- POST (R304). -/
def execPost (f : Fields) (s : State) : Host.Outcome State Fault Refusal := issue (.post f) f (postEffect f) s

/-- The TASKQ status word (Table 17-8). -/
def State.taskqWord (s : State) : Word :=
  (BitVec.ofNat 64 s.freeCores.length <<< 32) ||| (BitVec.ofNat 64 s.cl.outRecs.length <<< 16) ||| BitVec.ofNat 64 s.cl.launchQ.length

/-- TASKQ (R330). -/
def execTaskq (f : Fields) (s : State) : Host.Outcome State Fault Refusal :=
  issue (.taskq f) f (fun s => .ok (s.setS (some 1) f.opD s.taskqWord)) s

/-! ### Events -/

/-- LAUNCH (R301). -/
def execLaunch (who : Requester) (desc : Word) (pnum : BitVec 16) (clusters : List Nat) (number : BitVec 16) (s : State) :
    Host.Outcome State Fault Refusal := event (·.launch who desc pnum clusters number) s

/-- OVERFLOW_RETURN (R306). -/
def execOverflowReturn (s : State) : Host.Outcome State Fault Refusal := event (·.returnOverflow) s

/-- TASK_DISPATCH (R308). -/
def execTaskDispatch (s : State) : Host.Outcome State Fault Refusal := event (·.dispatch) s

/-- RECORD_RESERVATION (R334). -/
def execRecordReservation (pidx : Nat) (s : State) : Host.Outcome State Fault Refusal := event (·.reserve pidx) s

/-- GANG_MIGRATION (R334). -/
def execGangMigration (cores : BitVec 8) (dest : Nat) (s : State) : Host.Outcome State Fault Refusal := event (·.migrate cores dest) s

/-- LAUNCH_COMPLETE (R302). -/
def execLaunchComplete (s : State) : Host.Outcome State Fault Refusal := event (·.completeLaunch) s

/-- CONTEXT_DISCARD (R310). -/
def execContextDiscard (s : State) : Host.Outcome State Fault Refusal := event (·.discard) s

end Sys2Proof.Machine
end

