-- ==== Sys2Proof/Machine/Exchange.lean ====
section
/-! DEFINITION. Supersteps and exchange programs (R314 to R320, R344, R353), messages (R326, R327) and forwarding chains (R321 to
R324). -/

namespace Sys2Proof.Machine

/-- TRAPVAL of reason 4 of R318, of which only the bits that the rule names can be set. -/
def State.violation4 (s : State) : Trap := (0x0C, Config.violation4 s.tick &&& 0x30FFF)

def State.setXeng (x : Exchange) (s : State) : State := { s with cl := { s.cl with xeng := x } }

/-! ### Arriving and waiting (R314, R320) -/

/-- A core arrives at the barrier that closes the phase. -/
def State.arriveStep (core : Nat) (s : State) : State := s.setPart { s.cl.part with arrived := s.cl.part.arrived ||| bit8 core }

/-- XWAIT.E (R320): what stands before the arrival is performed before the release (R222). -/
def xwaitEEffect (f : Fields) (s : State) : Eff :=
  onServed s (fun _ s => .ok (s.setS (some 1) f.opD s.cl.part.sstep)) <|
    partitioned 0x315 s <|
      if s.core.wait.isSome then .hold s
      else if s.cl.part.exchange then .trap s.violation4
      else .hold ((s.published.waitFor .closeCompute).arriveStep s.core.idx)

/-- XWAIT.E (R320). -/
def execXwaitE (f : Fields) (s : State) : Host.Outcome State Fault Refusal := issue (.xwaitE f) f (xwaitEEffect f) s

/-- The TOP check after the release (R320): the `XWAIT` has completed. DESIGN CHOICE (log entry 65): of several transfers that mismatch,
TRAPVAL names the format and the TOP of the one that landed first; R78 and R320 do not say which. -/
def xwaitDone (f : Fields) (s : State) : Eff :=
  let hit := s.cl.xeng.landed.find? fun x => mismatched x.1 x.2 s.top
  let s := (s.setXeng { s.cl.xeng with landed := [] }).setS (some 1) f.opD s.cl.part.sstep
  match hit with
  | some x => .trapAfter s (mismatch x.2 x.1)
  | none => .ok s

/-- The engine has every landing of its program acknowledged (R314). -/
def Exchange.over (x : Exchange) : Bool := !x.armed || (x.count ≤ x.next && x.flying.isEmpty)

/-- XWAIT (R318, R320): the violation of the phase is raised before it arrives, and is cleared by the trap. The `XWAIT` of the core that
issued `XRUN` arrives once its program is over and so can have no further violation. -/
def xwaitEffect (f : Fields) (s : State) : Eff :=
  onServed s (fun _ s => xwaitDone f s) <|
    partitioned 0x315 s <|
      if s.core.wait.isSome then .hold s
      else if !s.cl.part.exchange then .trap s.violation4
      else
        let x := s.cl.xeng
        if x.used && x.core == s.core.idx then
          match x.viol with
          | some (k, reason) =>
            .trapIn (s.setXeng { x with viol := none, raised := true }) (0x0C, (BitVec.ofNat 64 reason <<< 16) ||| BitVec.ofNat 64 (k % 4096))
          | none => if x.over then .hold ((s.published.waitFor .closeExchange).arriveStep s.core.idx) else .hold s
        else .hold ((s.published.waitFor .closeExchange).arriveStep s.core.idx)

/-- XWAIT (R320). -/
def execXwait (f : Fields) (s : State) : Host.Outcome State Fault Refusal := issue (.xwait f) f (xwaitEffect f) s

/-! ### The exchange engine (R315 to R319) -/

/-- A core arms the cluster's exchange engine with a program (R319). -/
def State.arm (core base count : Nat) (top : Bool) (s : State) : State :=
  s.setXeng { s.cl.xeng with core, top, base, count, next := 0, armed := true, used := true, prevEnd := s.pkg.cycle }

/-- `XRUN` of another core; one that R318 or R319 refuses traps there. -/
def State.otherRuns (core base count : Nat) (top : Bool) (s : State) : State :=
  if core = s.core.idx || !s.exchanging || s.cl.xeng.used || base % 16 != 0 || count = 0 || 4096 < count || 0x20000 < base + 16 * count then s
  else s.arm core base count top

/-- XRUN (R318, R319). -/
def xrunEffect (f : Fields) (s : State) : Eff :=
  partitioned 0x314 s <|
    let a := s.val f.opA
    let n := (s.val f.opB).toNat
    let limit := if s.core.k then 0x20000 else 0x1E000
    if a.toNat % 16 != 0 then .trap (0x08, a)
    else if limit < a.toNat + 16 * n then .trap (0x05, BitVec.ofNat 64 (max a.toNat limit))
    else if !s.cl.part.exchange || s.cl.xeng.used then .trap s.violation4
    else .ok (s.arm s.core.idx a.toNat n s.top)

/-- XRUN (R319). -/
def execXrun (f : Fields) (s : State) : Host.Outcome State Fault Refusal := issue (.xrun f) f (xrunEffect f) s

/-- The two words of an exchange entry (Table 17-5). -/
structure XEntry where
  w0 : Word
  w1 : Word

def XEntry.cyc (e : XEntry) : Nat := (e.w0.extractLsb' 40 24).toNat
def XEntry.dclus (e : XEntry) : Nat := (e.w0.extractLsb' 28 12).toNat
def XEntry.src (e : XEntry) : BitVec 25 := e.w0.extractLsb' 0 25
def XEntry.daddr (e : XEntry) : BitVec 25 := e.w1.extractLsb' 31 25
def XEntry.fmt (e : XEntry) : BitVec 5 := e.w1.extractLsb' 13 5
def XEntry.len (e : XEntry) : Nat := (e.w1.extractLsb' 0 13).toNat

/-- The core and the local-window address of a 25-bit address field. -/
def xcore (a : BitVec 25) : Nat := (a.extractLsb' 22 3).toNat
def xaddr (a : BitVec 25) : Nat := (a.extractLsb' 0 22).toNat

/-- The range of an exchange address: local store below 0x01_E000, or scratchpad (R315). -/
def xrange (a n : Nat) : Bool := a % 64 == 0 && (a + n ≤ 0x1E000 || (0x100000 ≤ a && a + n ≤ 0x300000))

/-- Reason 3 of R318. -/
def XEntry.bad (e : XEntry) (size : Nat) : Bool :=
  e.w0.extractLsb' 25 3 != 0 || e.w1.extractLsb' 56 8 != 0 || e.w1.extractLsb' 18 13 != 0 || reservedFmt e.fmt || e.len = 0 ||
    4096 < e.len || !xrange (xaddr e.src) (64 * e.len) || !xrange (xaddr e.daddr) (64 * e.len) || size ≤ e.dclus

/-- Hops and die boundaries between two package cluster indexes (R11, R316). -/
def meshHops (a b : Nat) : Nat × Nat :=
  let d := fun (x y : Nat) => max x y - min x y
  (d (a % 32) (b % 32) + d (a / 32) (b / 32), d (a % 32 / 16) (b % 32 / 16) + d (a / 32 / 8) (b / 32 / 8))

/-- The cycles from a transfer's start to the landing of its last byte (R316). -/
def transferCycles (a b len : Nat) : Nat := let m := meshHops a b; 32 + 2 * m.1 + 2 * len + 48 * m.2

/-- The package cluster index of a PIDX of the partition. -/
def State.clusterOf (s : State) (pidx : Nat) : Nat := ((s.cl.part.members.find? (·.1 == pidx)).map (·.2)).getD s.cl.index

/-- The entry that the engine reads next, from the armed core's local store. -/
def State.xentry (s : State) : XEntry :=
  let x := s.cl.xeng
  let m := vget s.cl.stores x.core []
  ⟨m.word (x.base + 16 * x.next), m.word (x.base + 16 * x.next + 8)⟩

/-- EXCHANGE_TRANSFER_START is possible: the entry's cycle has come. -/
def State.transferDue (s : State) : Bool :=
  let x := s.cl.xeng
  s.exchanging && x.armed && x.next < x.count && !s.pkg.frozen && s.cl.part.x0 + s.xentry.cyc ≤ s.pkg.cycle

/-- The first violation of the phase is kept (R318). -/
def Exchange.note (x : Exchange) (reason : Nat) : Exchange :=
  if x.raised || x.viol.isSome then x else { x with viol := some (x.next, reason) }

/-- The bytes of a transfer and its uncorrectable granules. -/
def State.xsource (s : State) (a : BitVec 25) (n : Nat) : Memory × List Nat :=
  let at' := xaddr a
  let spad := 0x100000 ≤ at'
  let m := if spad then s.cl.spad else vget s.cl.stores (xcore a) []
  let who := if spad then 8 else xcore a
  (m.slice at' (at' + n), (s.cl.bad.filter fun g => g.1 == who && at' ≤ g.2 && g.2 < at' + n).map fun g => g.2 - at')

/-- EXCHANGE_TRANSFER_START (R316, R318). -/
def State.startTransfer (linkTaken : Bool) (s : State) : State :=
  if !s.transferDue then s
  else
    let x := s.cl.xeng
    let e := s.xentry
    if e.bad s.cl.part.size then s.setXeng { x.note 3 with next := x.next + 1 }
    else
      let nominal := s.cl.part.x0 + e.cyc
      let start := max nominal x.prevEnd
      let x := if nominal < start then x.note 1 else x
      let x := if linkTaken then x.note 2 else x
      let due := start + transferCycles s.cl.index (s.clusterOf e.dclus) e.len + (if linkTaken then Config.lateness s.tick else 0)
      s.setXeng { x with
        next := x.next + 1, prevEnd := start + 2 * e.len
        flying := x.flying ++ [⟨due, e.dclus, e.daddr, e.fmt, x.top, e.len, e.src, 0, 0, [], []⟩] }

/-- The next aligned 8 bytes of a transfer are read at its source (R211). -/
def State.readUnit (t : Transfer) (s : State) : Transfer :=
  let b := s.xsource (t.src + BitVec.ofNat 25 (8 * t.got)) 8
  { t with got := t.got + 1, bytes := t.bytes ++ b.1.shift (8 * t.got), bad := t.bad ++ b.2.map (· + 8 * t.got) }

/-- The next aligned 8 bytes of a transfer are written here, as a copy job writes (R211, R316). -/
def State.writeUnit (t : Transfer) (s : State) : State × Transfer :=
  let o := 8 * t.put
  let a := xaddr t.daddr + o
  let spad := 0x100000 ≤ a
  let x := t.bytes.load o 8
  let s := if spad then s.spadWrite a 8 x else s.storeWrite (xcore t.daddr) a 8 x
  let s := (t.bad.filter fun b => o ≤ b && b < o + 8).foldl (fun s b => s.spoilLocal (if spad then 8 else xcore t.daddr) (a + (b - o)) 8) s
  (s, { t with put := t.put + 1 })

/-- A transfer's destination is this cluster. -/
def State.landsHere (s : State) (t : Transfer) : Bool := t.dclus == s.cl.part.pidx.toNat

/-- Some of a transfer is still to be read, or to be written here. -/
def State.underway (s : State) (t : Transfer) : Bool := t.got < 8 * t.len || (s.landsHere t && t.put < 8 * t.len)

/-- The next event of a transfer: 8 bytes read, or else written. -/
def State.moveUnit (t : Transfer) (s : State) : State × Transfer :=
  if t.got < 8 * t.len then (s, s.readUnit t)
  else if s.landsHere t && t.put < 8 * t.len then s.writeUnit t
  else (s, t)

/-- At most `n` events of a transfer. -/
def State.moveUnits : Nat → Transfer → State → State × Transfer
  | 0, t, s => (s, t)
  | n + 1, t, s => if s.underway t then State.moveUnits n (s.moveUnit t).2 (s.moveUnit t).1 else (s, t)

/-- A transfer has landed in this cluster; one that names this core waits for its TOP check (R316, R320). -/
def State.hasLanded (t : Transfer) (s : State) : State :=
  let x := s.cl.xeng
  if s.landsHere t && xcore t.daddr == s.core.idx then s.setXeng { x with landed := x.landed ++ [(t.fmt, t.top)] } else s

/-- A transfer of another cluster to this one is on its way. -/
def State.comeIn (t : Transfer) (s : State) : State := s.setXeng { s.cl.xeng with flying := s.cl.xeng.flying ++ [t] }

/-- EXCHANGE_LANDING (R316): at its cycle the last byte lands, and before it each event of the transfer comes by itself; what goes to another
cluster leaves this machine. -/
def State.landTransfer (k : Nat) (s : State) : State :=
  match s.cl.xeng.flying[k]? with
  | none => s
  | some t =>
    if s.pkg.cycle < t.due then
      let r := s.moveUnit t
      r.1.setXeng { r.1.cl.xeng with flying := r.1.cl.xeng.flying.set k r.2 }
    else
      let r := s.moveUnits (16 * t.len) t
      (r.1.setXeng { r.1.cl.xeng with flying := r.1.cl.xeng.flying.eraseIdx k }).hasLanded r.2

/-! ### The two barriers (R314) -/

/-- COMPUTE_BARRIER_RELEASE is possible here; the other clusters' arrivals are outside. -/
def State.computeOver (s : State) : Bool :=
  s.allArrived && !s.cl.part.exchange && s.cl.part.startAt.isNone && s.cl.gear.handover.isNone && !s.pkg.frozen &&
    (!s.cl.gear.n || 2 ≤ s.pkg.stage)

/-- `.D` submissions of the partition, from every cluster whose die this sequencer serves, that waited for their boundary join the batch
(R281). -/
def State.joinHeld (s : State) : State :=
  let q := s.pkg.seq
  let b := s.pkg.cycle / 256
  let mine := fun (e : Entry) => e.1.cls == 0 && e.1.die == (s.cl.part.part.extractLsb' 0 16).toNat
  let s := s.setSeq { q with
    held := q.held.filter fun e => !mine e
    batch := q.batch ++ (q.held.filter mine).map fun (e : Entry) => ({ e.1 with beat := b }, e.2) }
  let joins := fun (k : TxKey) => (q.held.filter mine).any (·.1.same k)
  let gang := fun (x : GangTx) => if joins x.key then { x with key := { x.key with beat := b } } else x
  let kept := fun (t : Tx) => if t.state != 0 && t.d && joins t.key then { t with key := { t.key with beat := b } } else t
  let s := { s with
    cl := { s.cl with
      gangTx := s.cl.gangTx.map gang
      gangs := s.cl.gangs.map fun (g : Nat × BitVec 8 × BitVec 8 × Option GangTx) => (g.1, g.2.1, g.2.2.1, g.2.2.2.map gang) }
    pkg := { s.pkg with txs := s.pkg.txs.map fun (x : Nat × Tx) => (x.1, kept x.2) } }
  s.setTx (kept s.ctx.tx)

/-- A `TSUB.D` of the superstep that this core has issued reaches the sequencer before the barrier (R281). -/
def State.submitHeld (s : State) : State :=
  let t := s.ctx.tx
  if t.d && s.submitting then s.submitKey t.key t.tiles else s

/-- COMPUTE_BARRIER_RELEASE (R314): the exchange phase starts at X0. -/
def State.openExchange (s : State) : State :=
  if !s.computeOver then s
  else
    let s := (s.submitHeld.setPart { s.cl.part with exchange := true, x0 := s.pkg.cycle, arrived := 0, full := [] }).joinHeld
    (s.setXeng { Exchange.off with flying := s.cl.xeng.flying }).serve (· == WaitKind.closeCompute) 0

/-- A cluster can accept records and messages in this phase (R317). -/
def State.accepting (s : State) (pidx : Nat) : Bool := !s.cl.part.full.contains pidx

/-- The oldest outbound record that its destination can accept. -/
def State.nextRecord (s : State) : Option (Nat × Record) := s.cl.outRecs.find? fun x => s.accepting x.1

/-- The oldest message of this core to another cluster that can accept it. -/
def State.nextOutMessage (s : State) : Option (BitVec 12 × BitVec 3 × Vec) :=
  s.core.outMsgs.find? fun m => m.1 != s.cl.part.pidx && s.accepting m.1.toNat

/-- RECORD_DELIVERY is possible. -/
def State.deliverable (s : State) : Bool := s.exchanging && (s.nextRecord.isSome || s.nextOutMessage.isSome)

/-- EXCHANGE_BARRIER_RELEASE is possible here: what can be delivered in the phase has been (R314, R317). -/
def State.exchangeOver (s : State) : Bool :=
  s.allArrived && s.cl.part.exchange && s.cl.part.startAt.isNone && s.cl.gear.handover.isNone && !s.cl.gear.lift && !s.pkg.frozen &&
    s.cl.xeng.over && s.cl.xeng.flying.isEmpty && !s.deliverable

/-- Arrived records in their order: source PIDX, source core, posting order (R307). -/
def insertArrived (x : ArrivedRecord) : List ArrivedRecord → List ArrivedRecord
  | [] => [x]
  | y :: ys =>
    let before := x.srcPidx < y.srcPidx || (x.srcPidx == y.srcPidx && (x.srcCore < y.srcCore ||
      (x.srcCore == y.srcCore && x.order < y.order)))
    if before then x :: y :: ys else y :: insertArrived x ys

/-- A record that the phase delivered enters the launch queue; without room it stays at its source (R317). -/
def State.takeArrived (a : ArrivedRecord) (s : State) : State :=
  let l := (s.launchHere.map (·.number)).getD 0
  match s.enqueueRecord ⟨a.words, a.poster, a.index, l, none⟩ with
  | none => s
  | some s => s.mapLaunch l fun x => { x with outstanding := x.outstanding + 1, elsewhere := x.elsewhere - 1 }

/-- The head record has waited through one release more, and what R334 orders after the fourth and the sixth is done at it (R335). -/
def State.balance (s : State) : State :=
  let s := s.setPart { s.cl.part with headWaits := if s.cl.launchQ.isEmpty then 0 else s.cl.part.headWaits + 1 }
  let s := match s.nextReservation with | some x => s.reserve x.2.2 | none => s
  let s := (List.range 8).foldl (fun s _ => match s.nextMigration with | some x => s.migrate x.1.all x.2.1 | none => s) s
  s.setPart { s.cl.part with owed := s.traceMode != 2 && s.nextMigration.isSome }

/-- The cycle at which this cluster starts its next compute phase (R353). -/
def State.phaseStart (s : State) : Nat :=
  let k := s.cl.gear.kgov
  let low := s.cl.part.members.foldl (fun m x => min m (x.2 % 32)) 31
  s.pkg.cycle + 16 * (k.extractLsb' 20 8).toNat + (s.cl.index % 32 - low) * (8 * 2 ^ (k.extractLsb' 28 4).toNat)

/-- EXCHANGE_BARRIER_RELEASE (R307, R314, R326, R334). -/
def State.closeExchange (records : List ArrivedRecord) (s : State) : State :=
  if !s.exchangeOver then s
  else
    let rs := (records.filter fun r => recordOk r.words).foldl (fun l x => insertArrived x l) []
    let s := rs.foldl (fun (s : State) x => s.takeArrived x) s.balance
    s.setPart { s.cl.part with arrived := 0, startAt := some s.phaseStart }

/-- COMPUTE_PHASE_START is possible. -/
def State.phaseDue (s : State) : Bool := match s.cl.part.startAt with | some t => t ≤ s.pkg.cycle | none => false

/-- COMPUTE_PHASE_START (R353). -/
def State.startPhase (s : State) : State :=
  if s.phaseDue then
    (s.setPart { s.cl.part with exchange := false, sstep := s.cl.part.sstep + 1, startAt := none }).serve
      (· == WaitKind.closeExchange) 0
  else s

/-- RECORD_DELIVERY (R317, R326): the oldest outbound record, or else message, that its cluster can accept is delivered there. -/
def State.deliverRecord (s : State) : State :=
  if !s.exchanging then s
  else match s.nextRecord, s.nextOutMessage with
    | some x, _ => { s.sendAway x.2.launch with cl := { (s.sendAway x.2.launch).cl with outRecs := s.cl.outRecs.erase x } }
    | none, some m => { s with core := { s.core with outMsgs := s.core.outMsgs.erase m } }
    | none, none => s

/-! ### Messages (R325 to R327) -/

/-- The header that `MSEND` fills (Table 17-6). -/
def messageImage (s : State) (img : Nat) : Vec :=
  let w0 := BitVec.ofNat 64 img
  let head : Word := (w0 &&& 0xFFFF0000001F0000) ||| (s.cl.part.pidx.zeroExtend 64 <<< 25) ||| (BitVec.ofNat 64 (s.core.idx % 8) <<< 22) |||
    (bit01 s.top <<< 21) ||| 2
  BitVec.ofNat 512 (head.toNat + img / 2 ^ 64 * 2 ^ 64)

/-- MSEND (R327, R412): what stands before it is performed before the delivery. -/
def msendEffect (f : Fields) (s : State) : Eff :=
  partitioned 0x316 s <|
    let a := s.val f.opA
    let b := s.val f.opB
    let s := s.published
    match s.imageAt b 64 with
    | .error t => .trap t
    | .ok img =>
      if reservedFmt (BitVec.ofNat 5 (img / 2 ^ 16)) then .trap (0x02, encodingVal 5 0x316)
      else if s.cl.part.size ≤ (a.extractLsb' 0 12).toNat then .trap (0x07, a)
      else
        let signed := s.endWait.sign b.toNat 64 img
        if s.isShadow then .ok signed
        else if 16 ≤ s.core.outMsgs.length then .hold (s.waitFor .send)
        else .ok { signed with core := { signed.core with
          outMsgs := signed.core.outMsgs ++ [(a.extractLsb' 0 12, a.extractLsb' 12 3, messageImage s img)] } }

/-- MSEND (R327). -/
def execMsend (f : Fields) (s : State) : Host.Outcome State Fault Refusal := issue (.msend f) f (msendEffect f) s

/-- The oldest message of this core to an address of its own cluster. -/
def State.ownMessage (s : State) : Option (BitVec 12 × BitVec 3 × Vec) := s.core.outMsgs.find? (·.1 == s.cl.part.pidx)

/-- MESSAGE_DELIVERY (R326): one that this core sent leaves its queue when it is delivered. -/
def State.deliverMessage (core : Nat) (data : Vec) (s : State) : State :=
  match s.deliver core data with
  | none => s
  | some t => match s.ownMessage with
    | some m =>
      if m.2.1.toNat = core && m.2.2 == data then { t with core := { t.core with outMsgs := t.core.outMsgs.erase m } } else t
    | none => t

/-! ### Forwarding chains (R321 to R324) -/

/-- The offered cores have all executed `SLAVE`. -/
def State.offered (s : State) (n : Nat) : Bool :=
  (List.range n).all fun i => s.cl.slaves.getLsbD (s.core.idx + 1 + i)

/-- The chain forms (R321): a follower takes the leader's next instruction, wherever it lies. -/
def State.joinChain (leads : Bool) (behind : Nat) (s : State) : State :=
  { s with
    core := { s.core with chain := some ⟨leads, behind, [], !leads⟩ }
    cl := { s.cl with slaves := s.cl.slaves &&& ~~~(bit8 s.core.idx) } }.trace 6 1

/-- A chain that forms takes the offers of its `n` members. -/
def State.takeOffers (n : Nat) (s : State) : State :=
  let m := (List.range n).foldl (fun m i => m &&& ~~~(bit8 (s.core.idx + 1 + i))) s.cl.slaves
  { s with cl := { s.cl with slaves := m } }

/-- SLAVE.L (R321). -/
def slaveLEffect (f : Fields) (s : State) : Eff :=
  let n := (s.val f.opA).toNat
  onServed s (fun _ s => .ok (s.joinChain true n)) <|
    if s.core.chain.isSome then .trap (0x02, encodingVal 2 0x312)
    else if s.offered n then
      .ok ((s.takeOffers n).endWait.joinChain true n)
    else .hold (s.waitFor (.chain n))

/-- SLAVE.L (R321). -/
def execSlaveL (f : Fields) (s : State) : Host.Outcome State Fault Refusal := issue (.slaveL f) f (slaveLEffect f) s

/-- SLAVE (R321). -/
def slaveEffect (s : State) : Eff :=
  onServed s (fun _ s => .ok (s.joinChain false 0)) <|
    if s.core.chain.isSome || s.core.idx = 0 then .trap (0x02, encodingVal 2 0x312)
    else
      let t := s.waitFor (.chain 0)
      .hold { t with cl := { t.cl with slaves := t.cl.slaves ||| bit8 s.core.idx } }

/-- SLAVE (R321). -/
def execSlave (f : Fields) (s : State) : Host.Outcome State Fault Refusal := issue (.slave f) f slaveEffect s

/-- DETACH (R324): the core goes on from its own local store. -/
def execDetach (f : Fields) (s : State) : Host.Outcome State Fault Refusal :=
  issue (.detach f) f (fun s => .ok { s.leaveChain with core := { s.leaveChain.core with ifetch := s.own } }) s

/-- `SLAVE` of another core: line 20 of BARRIER_ARRIVE. -/
def State.otherSlave (core : Nat) (s : State) : State :=
  let s := { s with cl := { s.cl with slaves := s.cl.slaves ||| bit8 core } }
  match s.core.wait with
  | some ⟨.chain (n + 1), none, _⟩ =>
    if s.offered (n + 1) then
      (s.takeOffers (n + 1)).serve (· == WaitKind.chain (n + 1)) 1
    else s
  | _ => s

/-- The chain of an earlier core that offered this one forms: line 21 of BARRIER_ARRIVE. -/
def State.chainForms (core : Nat) (s : State) : State :=
  if core < s.core.idx then s.serve (· == WaitKind.chain 0) 1 else s

/-- No member stands before this follower any more (R324): it leads, and fetches from its own local store: line 22 of BARRIER_ARRIVE. -/
def State.lead (s : State) : State :=
  match s.core.chain with
  | some c => { s with core := { s.core with chain := some { c with leads := true, fwd := [], follow := true }, ifetch := s.own } }
  | none => s

/-! ### Events -/

/-- COMPUTE_BARRIER_RELEASE (R314). -/
def execComputeBarrierRelease (s : State) : Host.Outcome State Fault Refusal := event (·.openExchange) s

/-- EXCHANGE_TRANSFER_START (R316). -/
def execExchangeTransferStart (linkTaken : Bool) (s : State) : Host.Outcome State Fault Refusal := event (·.startTransfer linkTaken) s

/-- EXCHANGE_LANDING (R316). -/
def execExchangeLanding (k : Nat) (s : State) : Host.Outcome State Fault Refusal := event (·.landTransfer k) s

/-- EXCHANGE_BARRIER_RELEASE (R314). -/
def execExchangeBarrierRelease (records : List ArrivedRecord) (s : State) : Host.Outcome State Fault Refusal :=
  event (·.closeExchange records) s

/-- COMPUTE_PHASE_START (R353). -/
def execComputePhaseStart (s : State) : Host.Outcome State Fault Refusal := event (·.startPhase) s

/-- RECORD_DELIVERY (R317). -/
def execRecordDelivery (s : State) : Host.Outcome State Fault Refusal := event (·.deliverRecord) s

/-- MESSAGE_DELIVERY (R326). -/
def execMessageDelivery (core : Nat) (data : Vec) (s : State) : Host.Outcome State Fault Refusal := event (·.deliverMessage core data) s

/-- BARRIER_ARRIVE (R242) by another core; further lines stand for the other places where a core of the cluster arrives: 16 the gang
barrier (R246), 17 a member's `TEND.G` (R296), 18 a superstep barrier (R314), 20 `SLAVE`, 21 the forming of
a chain by its leader (R321), and 22 the departure of the last member before this core (R324). -/
def execBarrierArrive (b core : Nat) (s : State) : Host.Outcome State Fault Refusal :=
  event (fun s => s.byOther core fun s => match b with
    | 16 => s.gangArrive core
    | 17 => s.otherTend core
    | 18 => s.arriveStep core
    | 20 => s.otherSlave core
    | 21 => s.chainForms core
    | 22 => s.lead
    | _ => s.barArrive b core) s

end Sys2Proof.Machine
end

