-- ==== Sys2Proof/Machine/Events.lean ====
section
/-! DEFINITION. The events of the system: asynchronous requests and their entry (R21, R373, R374, R387, R397, R404), the end of a
wait (R247), streams and scrubs (R130, R208), crashes and boots (R400 to R408), readiness and links (R14, R207), the host
(R366), and the peers of a domain (R201, R367). -/

namespace Sys2Proof.Machine

/-! ### Streams and scrubs -/

/-- Stream `q` can read an element ahead now: its home is ready (R130, R14). -/
def State.streamReads (s : State) (q : Nat) : Bool :=
  let st := vget s.ctx.streams q Stream.off
  st.mayRead && (s.streamUnit st st.aheadAt st.reading.2.units).isSome

/-- STREAM_READ_AHEAD (R130). -/
def execStreamReadAhead (q : Nat) (s : State) : Host.Outcome State Fault Refusal := event (·.readAhead q) s

/-- STREAM_PUSH_WRITE (R130). -/
def execStreamPushWrite (q : Nat) (s : State) : Host.Outcome State Fault Refusal := event (·.writePush q) s

/-- A scrub that finds an uncorrectable granule poisons it (R208, R399). -/
def State.scrubAt (pa : Nat) (bad : Bool) (s : State) : State :=
  let t := tierOf pa
  if bad && (t == .dram || t == .hbm) && packageOf pa == s.pkg.rank then (s.spoilGlobal (pa / 32 * 32) 32).uncorrectable (pa / 32 * 32)
  else s

/-- SCRUB (R207). -/
def execScrub (pa : Nat) (bad : Bool) (s : State) : Host.Outcome State Fault Refusal := event (·.scrubAt pa bad) s

/-! ### Requests -/

/-- A request reaches the core while it runs a context or, on a control core, Mboith. -/
def State.requestRunning (g : Requests → Requests) (s : State) : State := if s.core.run == .running then s.request g else s

/-- REMAIN is 0 while the watchdog counts (R397). -/
def State.watchdogDue (s : State) : Bool :=
  s.ctx.sys.wdog.en && s.ctx.sys.wdog.remain == 0 && (s.core.control || (s.core.run == .running && !s.core.k))

/-- WATCHDOG_EXPIRY (R397, R400): EN clears, and trap 0x10 is requested; on a control core it is a kernel crash. -/
def State.expire (s : State) : State :=
  if !s.watchdogDue then s
  else
    let s := s.setSys fun y => { y with wdog := { y.wdog with en := false } }
    if s.core.control then s.crash 2 else s.request fun r => { r with wdog := true }

/-- WATCHDOG_EXPIRY (R397). -/
def execWatchdogExpiry (s : State) : Host.Outcome State Fault Refusal := event (·.expire) s

/-- PREEMPTION_REQUEST (R373). -/
def execPreemptionRequest (s : State) : Host.Outcome State Fault Refusal :=
  event (·.requestRunning fun r => { r with preempt := true }) s

/-- STOP by the halt tree (R387): the request, and the tree's count. -/
def State.haltStop (s : State) : State :=
  if s.core.run == .running && !s.core.control then
    (s.setPart { s.cl.part with reached := s.cl.part.reached + 1 }).request fun r => { r with stop := some 1 }
  else s

/-- HALT_TREE_STOP (R387). -/
def execHaltTreeStop (s : State) : Host.Outcome State Fault Refusal := event (·.haltStop) s

/-- FREEZE by the halt tree (R387): the partition's engines start nothing new. -/
def State.freezeAll (s : State) : State :=
  let s := s.haltFreeze
  { s with pkg := { s.pkg with frozen := true } }

/-- HALT_TREE_FREEZE (R387). -/
def execHaltTreeFreeze (s : State) : Host.Outcome State Fault Refusal := event (·.freezeAll) s

/-! ### Taking a request (R372 to R374) -/

/-- An asynchronous trap: cause, TRAPVAL, and what taking it does to the requests and the debug state. -/
structure Async where
  cause : Nat
  val : Word
  take : State → State

def State.setReqs (g : Requests → Requests) (s : State) : State := { s with core := { s.core with reqs := g s.core.reqs } }

/-- Request `i` of those that wait for a Y mark may be taken: one has issued within its 256 cycles, or they have passed, or the core waits
(R21, R374). -/
def State.yielded (s : State) (i : Nat) : Bool :=
  s.core.reqs.ySeen.getLsbD i || vget s.core.reqs.since i 0 + 256 ≤ s.core.cyc || s.core.wait.isSome

/-- The core has a boundary at which it takes a request: it runs; a frozen one has its context resident, and takes trap 0x16 of stage 2
(R404). -/
def State.atBoundary (s : State) : Bool :=
  s.core.run == .running || (s.core.run == .frozen && s.core.reqs.stop.isNone && s.core.reqs.emergency == some 2)

/-- The request that is taken at this boundary, in the priority of R374. -/
def State.async (s : State) : Option Async :=
  let r := s.core.reqs
  if !s.atBoundary || s.core.pre.isSome || s.waitServed || s.cl.gear.handover.isSome then none
  else match r.stop, r.emergency with
  | some k, _ => some ⟨0x17, BitVec.ofNat 64 k, fun s =>
      (s.setPart { s.cl.part with stopped := s.cl.part.stopped + 1 }).setReqs fun r => { r with stop := none }⟩
  | none, some k => some ⟨0x16, BitVec.ofNat 64 k, fun s => s.setReqs fun r => { r with emergency := none }⟩
  | none, none =>
    if r.halt && s.yielded 0 then some ⟨0x13, 1 <<< 63, fun s =>
      { s with core := { s.core with dbgHalt := false, halted := true, reqs := { s.core.reqs with halt := false } } }⟩
    else if r.step then some ⟨0x13, 1 <<< 62, fun s =>
      { s with core := { s.core with halted := true, reqs := { s.core.reqs with step := false } } }⟩
    else if r.wdog && s.yielded 1 then some ⟨0x10, s.ctx.sys.taskid, fun s => s.setReqs fun r => { r with wdog := false }⟩
    else if r.preempt && s.yielded 2 then some ⟨0x15, 0, fun s => s.setReqs fun r => { r with preempt := false }⟩
    else if r.mailbox && s.yielded 3 then some ⟨0x15, 1, fun s => s.setReqs fun r => { r with mailbox := false }⟩
    else match r.mismatch with
      | some id => some ⟨0x18, id, fun s => s.setReqs fun r => { r with mismatch := none }⟩
      | none => none

/-- The save that stage 2 makes the device perform once the commands have completed (R404, R405): it needs no handler. It marks its saggar
entry 2 at its start, and a later step writes the image; the hard trip can come between them. -/
def State.stageSave (s : State) : State :=
  match s.regionCheck s.region 0x41000 with
  | some none => s
  | some (some t) => (s.setReqs fun r => { r with emergency := none }).recordError t |>.sherd 2 (s.ctx.trap.pc.zeroExtend 64)
  | none =>
    if s.core.reqs.emergency == some 3 then (s.published.setSaggar 2).setReqs fun r => { r with emergency := some 4 }
    else (s.setReqs fun r => { r with emergency := none }).saveContext true

/-- The device owes a stage-2 save, or has begun it, and can perform it. -/
def State.saveDue (s : State) : Bool :=
  s.core.run == .frozen && (s.core.reqs.emergency == some 3 || s.core.reqs.emergency == some 4) && s.core.kq.isEmpty

/-- The entry of an asynchronous trap. On a core that is frozen before its handler has saved the context, the context stands as it was
trapped (R375). -/
def State.enterAsync (a : Async) (s : State) : State :=
  if s.core.run == .frozen && s.core.k && !s.core.saved then s
  else s.enterTrap (BitVec.ofNat 64 a.cause) a.val s.ctx.pc

/-- TRAP_ENTRY (R372 to R374). A load that lands uncorrectable makes the entry one of trap 0x11 (R81, R372), and the request stays
pending. -/
def State.takeRequest (s : State) : State :=
  if s.saveDue then s.stageSave
  else match s.async with
  | none => s
  | some a =>
    let bad := s.settle.2.isSome
    let s := (if bad then s else a.take s).enterAsync a
    if !bad && a.cause = 0x16 && a.val == 2 then s.freeze.setReqs fun r => { r with emergency := some 3 } else s

/-- TRAP_ENTRY (R372). -/
def execTrapEntry (s : State) : Host.Outcome State Fault Refusal := event (·.takeRequest) s

/-! ### The end of a wait (R247) -/

/-- What the core waits for may have come: its place has served it, or it may look again. -/
def State.wakeable (s : State) : Bool :=
  match s.core.wait with
  | none => false
  | some w => w.gated && (w.served.isSome || (match w.kind with
    | .mwait pa b ne => !s.isClaim pa 8 && satisfies ne (s.pkg.mem.word pa) b
    | .mwaitLocal a b ne => (match lplace a 8 with
      | some pl => satisfies ne (BitVec.ofNat 64 (s.lread pl a 8)) b
      | none => true)
    | .message copy => (s.firstMessage copy).isSome
    | .grant => s.ctx.tx.granted
    | .slot b => (s.cb b).coreTake.isSome
    | .queue _ => true
    | .post => s.cl.overflow.length < 65536 || s.cl.outRecs.length < 256
    | .send => s.core.outMsgs.length < 16
    | _ => false))

/-- WAIT_WAKE (R247): the clock runs again, within 8 arithmetic cycles. -/
def State.wake (s : State) : State :=
  if s.wakeable then { s with core := { s.core with wait := s.core.wait.map fun (w : Wait) => { w with gated := false } } }.linger 8 else s

/-- WAIT_WAKE (R247). -/
def execWaitWake (s : State) : Host.Outcome State Fault Refusal := event (·.wake) s

/-! ### Readiness and links (R14, R207, R407) -/

/-- The functions of a kind by the offset of its bits; 0 where there is no kind (R407). -/
def readyCount (offset : Nat) : Nat :=
  match offset with
  | 0x000 => 512 | 0x040 => 256 | 0x060 => 64 | 0x080 => 4096 | 0x280 => 4 | 0x281 => 12 | 0x283 => 16 | _ => 0

/-- A bit of the readiness map is set. -/
def State.setReady (offset i : Nat) (s : State) : State :=
  let a := offset + i / 8
  let b := s.pkg.ready.read a ||| BitVec.ofNat 8 (2 ^ (i % 8))
  { s with pkg := { s.pkg with ready := s.pkg.ready.write a b } }

/-- Every HBM stack is ready, or every one is ready or declared failed. -/
def State.stacks (s : State) (all : Bool) : Bool :=
  (List.range 4).all fun i => s.readyBit 0x280 i || (!all && s.readyBit 0xA80 i)

/-- HBM package offset 0x7F_F000_0000 of this package: the protected image (R401). -/
def State.imageBase (s : State) : Nat := s.pkg.rank * 2 ^ 43 + 0x7FF0000000

/-- The length of an image: its highest address and one. -/
def imageLength (m : List Host.Cell) : Nat := m.foldl (fun n c => max n (c.1 + 1)) 0

/-- An image ends with the CRC-64 of the bytes before it (R401, R408). -/
def imageSound (m : Memory) (n : Nat) : Bool := 8 ≤ n && crcMemory m 0 (n - 8) == m.word (n - 8)

/-- A control core runs Mboith from its local store (R401, R408). -/
def State.startControl (m : Memory) (s : State) : State :=
  if !s.core.control then s
  else
    let s := { s with cl := { s.cl with stores := vset s.cl.stores s.core.idx (Memory.canon (m.slice 0 0x20000)) } }
    { s with
      ctx := Ctx.reset
      core := { Core.reset with
        control := true, k := true, run := .running, idx := s.core.idx, die := s.core.die, pcore := s.core.pcore, ifetch := s.own } }

/-- The boot core: control core 0 of die 0. -/
def State.bootCore (s : State) : Bool := s.core.control && s.core.idx == 0 && s.core.die == 0

/-- Step 4 of R408, once every stack is ready or declared failed: the protected image, and the other control cores. -/
def State.bootOn (s : State) : State :=
  if !s.pkg.booting || !s.stacks false then s
  else
    let n := imageLength s.pkg.flash
    let s := { s with pkg := { s.pkg with booting := false } }
    let s := if s.stacks true then { s.putImage s.imageBase n s.pkg.flash with pkg := { (s.putImage s.imageBase n s.pkg.flash).pkg with image := some n } }
      else s
    if s.bootCore then s else s.startControl s.pkg.flash

/-- SELF_TEST_PASS (R14, R407): a function has at most one of its two bits. -/
def State.pass (offset i : Nat) (s : State) : State :=
  if readyCount offset ≤ i || s.readyBit (offset + 0x800) i then s else (s.setReady offset i).bootOn

/-- SELF_TEST_PASS (R14). -/
def execSelfTestPass (offset i : Nat) (s : State) : Host.Outcome State Fault Refusal := event (·.pass offset i) s

/-- FUNCTION_FAILED (R14, R406): the failed bit, and a sherd event with the number of the readiness bit. -/
def State.fail (offset i : Nat) (s : State) : State :=
  if readyCount offset ≤ i || s.readyBit offset i then s
  else ((s.setReady (offset + 0x800) i).sherd 8 (BitVec.ofNat 64 (8 * offset + i))).bootOn

/-- FUNCTION_FAILED (R14). -/
def execFunctionFailed (offset i : Nat) (s : State) : Host.Outcome State Fault Refusal := event (·.fail offset i) s

/-- LINK_FAILED (R207): the link carries nothing more; its failed bit is set unless it has passed its self-test. -/
def State.failLink (link : Nat) (s : State) : State :=
  if 12 ≤ link then s
  else
    let s := { s with pkg := { s.pkg with linksDown := s.pkg.linksDown ||| BitVec.ofNat 12 (2 ^ link) } }
    if s.readyBit 0x281 link then s.sherd 8 (BitVec.ofNat 64 (8 * 0x281 + link)) else s.fail 0x281 link

/-- LINK_FAILED (R207). -/
def execLinkFailed (link : Nat) (s : State) : Host.Outcome State Fault Refusal := event (·.failLink link) s

/-! ### Crashes and boots -/

/-- KERNEL_CRASH (R400), by a control core of the package. -/
def execKernelCrash (reason : Nat) (s : State) : Host.Outcome State Fault Refusal :=
  event (fun s => if 1 ≤ reason && reason ≤ 4 then s.crash reason else s) s

/-- COLD_BOOT (R408): everything is as after reset, but the flash, the sherd ring and its copy there, HBM and DRAM, and what the
core is; the boot core runs the image when its CRC-64 holds, and the functions have their self-tests before them. -/
def State.coldBoot (image : List Host.Cell) (s : State) : State :=
  let flash := Memory.canon image
  let keep := s.pkg.mem.filter fun c => tierOf c.1 != .slice
  let t : State :=
    { State.reset with
      core := { Core.reset with control := s.core.control, k := s.core.control, idx := s.core.idx, die := s.core.die, pcore := s.core.pcore }
      cl := { Cluster.reset with index := s.cl.index }
      pkg := { Package.reset with
        intervals := s.pkg.intervals
        mem := keep, poison := s.pkg.poison.filter fun g => tierOf g != .slice, flash, sherd := s.pkg.sherd, sherdCopy := s.pkg.sherd
        booting := imageSound flash (imageLength image) }
      agenda := s.agenda, turns := s.turns, outside := s.outside, tick := s.tick + 1 }
  if t.pkg.booting && t.bootCore then t.startControl flash else t

/-- COLD_BOOT (R408): it needs no power, which it restores. -/
def execColdBoot (image : List Host.Cell) (s : State) : Host.Outcome State Fault Refusal := .next (s.coldBoot image)

/-- The indexes of the saggar entries whose context a restart finds lost: STATE 2, or 1 without FRZ (R402, R403). -/
def State.lostEntries (s : State) : List Nat :=
  let base := s.pkg.rank * 2 ^ 43 + 0x7FE0000000
  (s.pkg.mem.filter fun c => base ≤ c.1 && c.1 < base + 32 * 65536 && c.1 % 32 == 7 &&
    (c.2.extractLsb' 6 2 == 2 || (c.2.extractLsb' 6 2 == 1 && !c.2.getLsbD 5))).map fun c => (c.1 - base) / 32

/-- A lost context (R403): its launch's stamp gets ERR, and a sherd event names its entry. -/
def State.loseContext (i : Nat) (s : State) : State :=
  let w := s.pkg.mem.word (s.pkg.rank * 2 ^ 43 + 0x7FE0000000 + 32 * i)
  let s := s.sherd 7 (BitVec.ofNat 64 i)
  { s with pkg := { s.pkg with launches := s.pkg.launches.map fun l =>
      if !l.done && l.pnum == w.extractLsb' 0 16 then { l with err := l.err ||| 0x10 } else l } }

/-- The context on this core after a restart (R403): lost with its entry, or resumed where it froze, in its program or in a handler that
has saved it, and FRZ is cleared. -/
def State.resumeHere (lost : List Nat) (s : State) : State :=
  if s.core.control || s.core.run == .free then s
  else if lost.contains (s.ctx.sys.ctxbuf.extractLsb' 0 16).toNat then
    let s := (s.settle.1.withdraw.endTx.taskStopped 0).vacate
    { s with core := { s.core with kq := [] } }
  else
    let w := s.pkg.mem.word s.saggar
    if s.core.run == .frozen && (w.extractLsb' 62 2 == 1 || w.extractLsb' 62 2 == 3) && w.getLsbD 61 then
      { s with core := { s.core with run := .running } }.homeStore s.saggar 8 (w &&& ~~~(1#64 <<< 61)).toNat
    else s

/-- WARM_REBOOT (R401, R403, R405): a protected image whose CRC-64 fails makes the device boot cold. -/
def State.warmReboot (s : State) : State :=
  let img := match s.pkg.image with | some n => s.imageFrom s.imageBase n | none => s.pkg.flash
  if s.pkg.image.any fun n => !imageSound img n then s.coldBoot s.pkg.flash
  else
    let tripped := !s.pkg.power
    let s := { s with
      pkg := { s.pkg with frozen := false, sherdCopy := s.pkg.sherd, stage := 0, hot := false }
      cl := { s.cl with gear := { s.cl.gear with cap := false } }
      core := { s.core with frac := if s.cl.gear.cap then 0 else s.core.frac } }
    let s := if tripped then
        { s with
          ctx := Ctx.reset
          core := { Core.reset with control := s.core.control, k := s.core.control, idx := s.core.idx, die := s.core.die, pcore := s.core.pcore }
          cl := { Cluster.reset with index := s.cl.index }
          pkg := { s.pkg with
            empty := [], deferred := [], lines := [], kept := [], seq := ⟨[], [], [], [], [], 0⟩
            multAt := Vector.replicate 8 s.pkg.cycle, refreshes := [], blocked := []
            mem := s.pkg.mem.filter fun c => tierOf c.1 == .hbm
            poison := s.pkg.poison.filter fun g => tierOf g == .hbm } }
      else s
    let lost := s.lostEntries
    let s := lost.foldl (fun s i => s.loseContext i) (s.resumeHere lost)
    let s := s.startControl img
    { s with pkg := { s.pkg with power := true }, tick := s.tick + 1 }

/-- WARM_REBOOT (R401): it needs no power. -/
def execWarmReboot (s : State) : Host.Outcome State Fault Refusal := .next s.warmReboot

/-! ### The host (R366) -/

/-- Where a host access lands: a device virtual address of the function's process, a byte offset of BAR0, or nowhere. The model
numbers the windows: CXL.mem from 0, BAR2 from 2^62, BAR0 from 2^63. -/
inductive HostPlace where
  | device (va : Nat)
  | bar0 (o : Nat)
  | none
deriving DecidableEq, Repr

/-- Table 21-5. -/
def hostPlace (addr : Word) (n : Nat) : HostPlace :=
  let a := addr.toNat
  if n = 0 || 64 < n then .none
  else if a + n ≤ 2 ^ 40 then .device a
  else if 2 ^ 63 ≤ a then (if a + n ≤ 2 ^ 63 + 2 ^ 16 then .bar0 (a % 2 ^ 63) else .none)
  else if 2 ^ 62 ≤ a && a + n ≤ 2 ^ 62 + 2 ^ 36 then .device (a % 2 ^ 62)
  else .none

/-- A byte of BAR0: Mboith's mailbox page, the readiness map, and zeros. -/
def State.bar0 (s : State) (o : Nat) : Byte :=
  if o < 0x1000 then s.pkg.hostMail.read o else if o < 0x2000 then s.pkg.ready.read (o % 0x1000) else 0

/-- The parts of a host access, one for each 64 KiB page (R366, R360). -/
def State.hostParts (s : State) (who : Requester) (k : AccKind) (va n : Nat) : Except Trap (List Part × List Kept) :=
  let one := fun (a m : Nat) => match s.translateAs false { who with user := true } k (BitVec.ofNat 64 a) with
    | .error t => Except.error t
    | .ok (p, ks) => match s.translateAs false { who with user := true } (s.claimKind k p.pa m) (BitVec.ofNat 64 a) with
      | .error t => .error t
      | .ok _ => .ok ((⟨0, BitVec.ofNat 64 a, p.pa, m, 0, none, 0⟩ : Part), ks)
  let m := min n (65536 - va % 65536)
  match one va m with
  | .error t => .error t
  | .ok (p, ks) =>
    if m = n then .ok ([p], ks)
    else match one (va + m) (n - m) with
      | .error t => .error t
      | .ok (q, ks') => .ok ([p, q], ks ++ ks')

/-- A host read completes. -/
def State.answer (kind : HostAnswer) (data : Vec) (s : State) : State := { s with pkg := { s.pkg with reply := some ⟨kind, data⟩ } }

/-- How a read that faults completes: with poison on CXL.mem, else with Unsupported Request (R366). -/
def hostRefusal (addr : Word) : HostAnswer := if addr.toNat < 2 ^ 62 then .poison else .unsupported

/-- Mboith counts a host access that faults (R366). -/
def State.hostFault (s : State) : State := { s with pkg := { s.pkg with hostFaults := s.pkg.hostFaults + 1 } }

/-- Who asks, in an access through a function of the host: the process that Mboith assigned to it (R366). -/
def State.hostWho (s : State) (fn : Nat) : Requester := ((s.pkg.hostFns.find? (·.1 == fn)).map (·.2)).getD ⟨0, 0, true⟩

/-- HOST_READ (R366), under the PID of the host's function: the data, or Unsupported Request on PCIe and poison on CXL.mem. -/
def State.hostRead (fn : Nat) (addr : Word) (n : Nat) (s : State) : State :=
  match hostPlace addr n with
  | .none => s.answer (hostRefusal addr) 0
  | .bar0 o => s.answer .data (BitVec.ofNat 512 ((List.range n).foldr (fun i x => (s.bar0 (o + i)).toNat + 256 * x) 0))
  | .device va =>
    match s.hostParts (s.hostWho fn) .read va n with
    | .error t => if t.1 = heldCause then s else (s.reportTrap t).hostFault.answer (hostRefusal addr) 0
    | .ok (ps, ks) =>
      match s.homes (ps.map fun p => (p.va, p.pa)) with
      | some none => s
      | some (some _) => s.hostFault.answer (hostRefusal addr) 0
      | none =>
        let s := ps.foldl (fun s p => s.touch 512 p.pa) ((s.keep ks).waitRefresh (ps.map (·.pa)))
        match ps.find? fun p => s.poisoned p.pa p.n with
        | some p => (s.uncorrectable p.pa).hostFault.answer (hostRefusal addr) 0
        | none =>
          let r := ps.foldl (fun (acc : State × Nat × Nat) p =>
            let x := acc.1.readPart [] p
            (x.1, acc.2.1 + x.2.1 * 256 ^ acc.2.2, acc.2.2 + p.n)) (s, 0, 0)
          r.1.answer .data (BitVec.ofNat 512 r.2.1)

/-- HOST_READ (R366). -/
def execHostRead (fn : Nat) (addr : Word) (n : Nat) (s : State) : Host.Outcome State Fault Refusal := event (·.hostRead fn addr n) s

/-- HOST_WRITE (R366): one that faults is dropped and counted. -/
def State.hostWrite (fn : Nat) (addr : Word) (n : Nat) (v : Vec) (s : State) : State :=
  match hostPlace addr n with
  | .none => s
  | .bar0 o =>
    if o + n ≤ 0x1000 then { s with pkg := { s.pkg with hostMail := s.pkg.hostMail.store o n v.toNat } } else s
  | .device va =>
    match s.hostParts (s.hostWho fn) .write va n with
    | .error t => if t.1 = heldCause then s else (s.reportTrap t).hostFault
    | .ok (ps, ks) =>
      match s.homes (ps.map fun p => (p.va, p.pa)) with
      | some none => s
      | some (some _) => s.hostFault
      | none =>
        (ps.foldl (fun (acc : State × Nat) p =>
          ((acc.1.touch 512 p.pa).homeStore p.pa p.n (acc.2 % 256 ^ p.n), acc.2 / 256 ^ p.n))
          ((s.keep ks).waitRefresh (ps.map (·.pa)), v.toNat)).1.restartQueues

/-- HOST_WRITE (R366). -/
def execHostWrite (fn : Nat) (addr : Word) (n : Nat) (v : Vec) (s : State) : Host.Outcome State Fault Refusal :=
  event (·.hostWrite fn addr n v) s

/-! ### Peers (R201, R367) -/

/-- What a peer's read answers. -/
def State.answerPeer (x : Option Word) (s : State) : State := { s with pkg := { s.pkg with peer := x } }

/-- REMOTE_ACCESS (R201): a peer's read, or its store of `w`, at a home of this package. It waits for a home that is not ready; of one that has
failed a read fails, and a store is not made (R14). -/
def State.remote (pkg pa n : Nat) (w : Option Word) (s : State) : State :=
  if tierOf pa == .reserved || packageOf pa != s.pkg.rank || pkg == s.pkg.rank || s.pkg.domain ≤ pkg || n = 0 || 8 < n then s
  else match s.homeState pa with
  | none => s
  | some false => if w.isSome then s else s.answerPeer none
  | some true =>
    let s := (s.waitRefresh [pa]).touch 512 pa
    match w with
    | some v => (s.homeStore pa n v.toNat).restartQueues
    | none =>
      if s.poisoned pa n then (s.uncorrectable pa).answerPeer none
      else
        let r := s.readPart [] ⟨0, 0, pa, n, 0, none, 0⟩
        r.1.answerPeer (some (BitVec.ofNat 64 r.2.1))

/-- REMOTE_ACCESS (R201). -/
def execRemoteAccess (pkg pa n : Nat) (w : Option Word) (s : State) : Host.Outcome State Fault Refusal := event (·.remote pkg pa n w) s

/-- Window `w` admits nothing that `v` does not. -/
def narrows (w v : ExportWindow) : Bool :=
  v.base ≤ w.base && w.base + w.len ≤ v.base + v.len && (!w.r || v.r) && (!w.w || v.w) && w.mask &&& ~~~v.mask == 0

/-- Window `i` of a package's table replaced by a narrower one. -/
def narrowWindow (pkg : Nat) (w : ExportWindow) : Nat → List (Nat × ExportWindow) → List (Nat × ExportWindow)
  | _, [] => []
  | i, x :: xs =>
    if x.1 != pkg then x :: narrowWindow pkg w i xs
    else match i with
      | 0 => (if narrows w x.2 then (pkg, w) else x) :: xs
      | i + 1 => x :: narrowWindow pkg w i xs

/-- EXPORT_WINDOW_NARROW (R367). -/
def execExportWindowNarrow (pkg i : Nat) (w : ExportWindow) (s : State) : Host.Outcome State Fault Refusal :=
  event (fun s => { s with pkg := { s.pkg with exports := narrowWindow pkg w i s.pkg.exports } }) s

/-- A physical address of this package under its new rank. -/
def rebase (rank pa : Nat) : Nat := rank * 2 ^ 43 + pa % 2 ^ 43

/-- DOMAIN_FORMATION (R201, R367, R280): ranks, the export tables, and the exchange depth, which follows from the domain. The
package's own memory is found under its new rank. -/
def State.form (rank n : Nat) (tables : List (Nat × ExportWindow)) (s : State) : State :=
  if n = 0 || 8 < n || n ≤ rank || tables.any (fun x => n ≤ x.1 || 64 < (tables.filter (·.1 == x.1)).length) then s
  else
    let own := fun (pa : Nat) => packageOf pa == s.pkg.rank
    let s := s.drainStreams.performAll
    { s with pkg := { s.pkg with
      rank, domain := n, exports := tables
      mem := Memory.canon ((s.pkg.mem.filter fun c => own c.1).map fun c => (rebase rank c.1, c.2))
      empty := (s.pkg.empty.filter own).map (rebase rank)
      poison := (s.pkg.poison.filter own).map (rebase rank)
      lines := (s.pkg.lines.filter fun l => own l.pa).map fun l => { l with pa := rebase rank l.pa }
      stayHome := (s.pkg.stayHome.filter fun x => own x.1).map fun x => (rebase rank x.1, x.2)
      reducing := (s.pkg.reducing.filter fun x => own x.1).map fun x => (rebase rank x.1, x.2)
      descriptors := (s.pkg.descriptors.filter own).map (rebase rank)
      deferred := (s.pkg.deferred.filter fun d => own d.pa).map fun d => { d with pa := rebase rank d.pa } } }

/-- DOMAIN_FORMATION (R201). -/
def execDomainFormation (rank n : Nat) (tables : List (Nat × ExportWindow)) (s : State) : Host.Outcome State Fault Refusal :=
  event (·.form rank n tables) s

end Sys2Proof.Machine
end

