-- ==== Sys2Proof/Machine/Others.lean ====
section
/-! DEFINITION. What other cores, other clusters and Mboith do to the state that this core shares (log entry 28): the acts of `OtherAct`,
each by the operation with which this core's own does the same, and GLOBAL_ACCESS_PERFORM, which carries them. -/

namespace Sys2Proof.Machine

/-- Bytes of one aligned 8-byte word: what one event of an access reads or writes (R203, R211). -/
def oneEvent (a n : Nat) : Bool := n != 0 && a % 8 + n ≤ 8

/-- An agent of a cluster accesses bytes of one word at their home (R204, R233), which may be in any package of the domain; at a home that
has failed it has no effect (R14). A store into bytes that a Kiln command has not read is not held: it races (R149). -/
def State.otherAccess (cluster pa n : Nat) (data : Option Word) (s : State) : State :=
  if !s.reachable pa || !oneEvent pa n || s.homeState pa == some false then s
  else
    let s := (s.waitRefresh [pa]).touch cluster pa
    match data with
    | some v => (s.homeStore pa n v.toNat).restartQueues
    | none => if s.poisoned pa n then s.uncorrectable pa else s

/-- Another core writes bytes of its local store or of the scratchpad (R98, R169); those that a Kiln command has not read are not held
(R149). -/
def State.otherStore (core a n : Nat) (data : Vec) (s : State) : State :=
  if core = s.core.idx || 8 ≤ core || 64 < n then s
  else match lplace a n with
    | some .store => s.storeWrite core a n data.toNat
    | some .spad => s.spadWrite a n data.toNat
    | _ => s

/-- What is left of an act after its first event: of a store to the local window, what lies beyond its first word (R211). -/
def actRest (a : OtherAct) : Option OtherAct :=
  match a with
  | .localStore core addr n data =>
    let m := 8 - addr.toNat % 8
    if n ≤ m then none else some (.localStore core (addr + BitVec.ofNat 22 m) (n - m) (data >>> (8 * m)))
  | _ => none

/-- An act waits for its home to be ready (R14). -/
def State.actHeld (s : State) (a : OtherAct) : Bool :=
  match a with
  | .globalAccess _ pa _ _ => s.reachable pa && s.homeState pa == none
  | _ => false

/-- Another core's wait is withdrawn at the place that holds it (R247). -/
def State.otherWithdraws (core : Nat) (p : WaitPlace) (s : State) : State :=
  let bit := bit8 core
  match p with
  | .barrier b => if 16 ≤ b then s else s.setBar b { s.bar b with arrived := (s.bar b).arrived &&& ~~~bit }
  | .gang => { s with cl := { s.cl with gangArrived := s.cl.gangArrived &&& ~~~bit } }
  | .mutex x => if 16 ≤ x then s else s.setMtx x { s.mtx x with queue := (s.mtx x).queue.filter (· != core) }
  | .event e => if 32 ≤ e then s else s.setEvl e { s.evl e with queue := (s.evl e).queue.filter (· != core) }
  | .deferred pa => { s with pkg := { s.pkg with deferred := s.pkg.deferred.filter fun d => !(d.pa == pa && d.who == some core) } }
  | .superstep => s.setPart { s.cl.part with arrived := s.cl.part.arrived &&& ~~~bit }
  | .chain => { s with cl := { s.cl with slaves := s.cl.slaves &&& ~~~bit } }
  | .slot b => if 8 ≤ b then s else s.setCb b { s.cb b with waiting := (s.cb b).waiting &&& ~~~bit }

/-- `CBGET` of another core (R272): it takes the slot at CP, or waits. -/
def State.otherCbget (core b : Nat) (s : State) : State :=
  let c := s.cb b
  if 8 ≤ b || !c.init then s
  else match c.coreTake with
    | none => s.setCb b { c with waiting := c.waiting ||| bit8 core }
    | some (c, _) => s.setCb b { c with waiting := c.waiting &&& ~~~bit8 core }

/-- `CBPUT` of another core (R272). -/
def State.otherCbput (b k : Nat) (s : State) : State :=
  let c := s.cb b
  if 8 ≤ b || !c.init || !c.taken.contains k then s else s.setCb b (c.put k)

/-- `TSUB.G` of the member 0 of a shadow gang, on another core (R295, R312). -/
def State.otherShadow (key : TxKey) (sstep : Word) (tiles : List (Nat × Bool)) (s : State) : State :=
  if key.core = s.core.idx || !key.gang then s
  else s.gangSubmits false ⟨true, key.cls == 0, key, s.pkg.cycle / 256, sstep, tiles, 0⟩

/-- The translations that an `STINV` of another core removes. -/
def staleFor (pid : Option (BitVec 16)) (va : Option Word) (k : Kept) : Bool :=
  match pid, va with
  | some p, some a => k.holds p a
  | some p, none => k.pid == p
  | none, _ => true

/-- An entry of the placement table is written: before the launch, or while the partition is at a barrier (R333). -/
def State.fillPlacement (entry pidx : Nat) (s : State) : State :=
  let p := s.cl.part
  if 4096 ≤ entry || (p.member && (p.size ≤ pidx || !s.allArrived)) then s
  else s.setPart { p with placement := (entry, pidx) :: p.placement.filter (·.1 != entry) }

/-- Another core's context requests a gear (R341). -/
def State.otherGear (core : Nat) (n : Bool) (s : State) : State :=
  { s with cl := { s.cl with gearReqs := if n then s.cl.gearReqs ||| bit8 core else s.cl.gearReqs &&& ~~~bit8 core } }

/-- A value that the primary's read has returned waits for the shadow's (R312). -/
def State.primaryRead (x : Vec) (flags : BitVec 5) (s : State) : State :=
  { s with core := { s.core with red := s.core.red.map fun (r : Redundant) =>
      if r.shadow then { r with reads := r.reads ++ [(x, flags)] } else r } }

/-- A task of another core posts a record (R304); its `POST` holds while the queue is full. -/
def State.otherPosts (core : Nat) (w : BitVec 256) (s : State) : State :=
  match s.cl.tasks.find? fun t => t.all.getLsbD core && !t.ended.getLsbD core with
  | none => s
  | some t => if recordOk w && !s.isMember t.id core && t.cores.getLsbD core then (s.sendRecord t.id core w).getD s else s

/-- The other clusters of a partition report on a launch (R302). -/
def State.hearElsewhere (launch outstanding ran : Nat) (err : BitVec 4) (s : State) : State :=
  s.mapLaunch launch fun l => { l with elsewhere := outstanding, ran := l.ran + ran, err := l.err ||| err.zeroExtend 8 }

/-- A cluster accepts nothing more in this exchange phase (R317). -/
def State.noMore (pidx : Nat) (s : State) : State :=
  if s.exchanging then s.setPart { s.cl.part with full := pidx :: s.cl.part.full } else s

/-- The controller learns of the free cores of another cluster (R334). -/
def State.learnFree (pidx : Nat) (cores : BitVec 8) (s : State) : State :=
  s.setPart { s.cl.part with others := (pidx, cores) :: s.cl.part.others.filter (·.1 != pidx) }

/-- The launch of this cluster's partition. -/
def State.launchNumber (s : State) : Nat := (s.launchHere.map (·.number)).getD 0

/-- An error that no code corrects is in the memory until it is written over (R207, R208). -/
def State.memError (e : MemError) (s : State) : State :=
  match e with
  | .register n =>
    if n < 96#7 || (104#7 ≤ n && n < 112#7) || (120#7 ≤ n && n < 127#7) then
      { s with core := { s.core with badRegs := if s.core.badRegs.contains n then s.core.badRegs else n :: s.core.badRegs } }
    else s
  | .chunk n => if 256 ≤ n then s else { s with core := { s.core with badAcc := insertNat n s.core.badAcc } }
  | .local owner addr =>
    if (owner < 8 && addr < 0x20000) || (owner = 8 && 0x100000 ≤ addr && addr < 0x300000) then s.spoilLocal owner addr 1 else s
  | .cell n => if 1024 ≤ n then s else { s with cl := { s.cl with badCells := insertNat n s.cl.badCells } }
  | .global pa => if tierOf pa == .reserved || packageOf pa != s.pkg.rank then s else s.spoilGlobal pa 1

/-- The act of another agent. -/
def State.otherAct (a : OtherAct) (s : State) : State :=
  let by' := fun (core : Nat) (g : State → State) => if 8 ≤ core then s else s.byOther core g
  match a with
  | .globalAccess cluster pa n data => s.otherAccess cluster pa n data
  | .localStore core addr n data => s.otherStore core addr.toNat (min n (8 - addr.toNat % 8)) data
  | .invalidate pid va => if s.unread then s else s.invalidate (staleFor pid va)
  | .kilnIssue core op header bspec d cb top table pages =>
    by' core (·.otherIssues core op header bspec d cb top (Memory.canon table) pages)
  | .kilnStart k => s.otherStarts k
  | .kilnComplete k => s.otherCompletes k
  | .passStart core panel f64 cycles => by' core (·.otherPass core panel f64 cycles)
  | .queueState core kwgt ready => by' core (·.otherQueue core kwgt ready)
  | .xrun core base count top => by' core (·.otherRuns core base count top)
  | .landing daddr fmt top len bytes bad after =>
    if !s.exchanging || len = 0 || 4096 < len || !xrange (xaddr daddr) (64 * len) then s
    else s.comeIn ⟨s.pkg.cycle + after, s.cl.part.pidx.toNat, daddr, fmt, top, len, 0, 8 * len, 0, Memory.canon bytes, bad⟩
  | .post core w => by' core (·.otherPosts core w)
  | .gear core n => by' core (·.otherGear core n)
  | .ends core code sig => by' core (·.otherEnds core code sig)
  | .stops core watchdog => by' core (·.otherStops core watchdog)
  | .placement entry pidx => s.fillPlacement entry pidx
  | .bindQueue pa va root => s.bindQueue pa va root
  | .primaryRead x flags => s.primaryRead x flags
  | .hostFunction fn who => { s with pkg := { s.pkg with hostFns := (fn, who) :: s.pkg.hostFns.filter (·.1 != fn) } }
  | .elsewhere launch outstanding ran err => s.hearElsewhere launch outstanding ran err
  | .freeCores pidx cores => s.learnFree pidx cores
  | .reservedRecord w poster index => if s.cl.part.member && recordOk w then s.takeReserved ⟨w, poster, index, s.launchNumber, none⟩ else s
  | .gangArrives id cores shadow poster index ctxbuf sig =>
    s.gangArrives ⟨id, cores, shadow, 0, 0, s.launchNumber, 0, false, false, [], poster, index⟩ ctxbuf sig
  | .withdraws core p => by' core (·.otherWithdraws core p)
  | .resumes core held => by' core (·.mutexesTo core held)
  | .takesSlot core b => by' core (·.otherCbget core b)
  | .putsSlot core b slot => by' core (·.otherCbput b slot)
  | .shadowSubmits key sstep tiles => s.otherShadow key sstep tiles
  | .full pidx => s.noMore pidx
  | .mismatch taskid => if s.core.control then s.requestRunning fun r => { r with mismatch := some taskid } else s
  | .corrected => { s with pkg := { s.pkg with corrected := s.pkg.corrected + 1 } }
  | .error e => s.memError e

/-- The next event of the `k`-th of the acts that other agents are about to do. -/
def State.outsideNth (k : Nat) (s : State) : State :=
  match s.outside[k]? with
  | none => s
  | some a =>
    if s.actHeld a then s
    else { s with outside := match actRest a with | some b => s.outside.set k b | none => s.outside.eraseIdx k }.otherAct a

/-- GLOBAL_ACCESS_PERFORM (R204): the `k`-th accepted access of this core, and past those the acts of the other agents. -/
def execGlobalAccessPerform (k : Nat) (s : State) : Host.Outcome State Fault Refusal :=
  event (fun s =>
    if s.core.gq.length ≤ k then s.outsideNth (k - s.core.gq.length)
    else if s.performable k then s.performNth k
    else s) s

end Sys2Proof.Machine
end

