-- ==== Sys2Proof/Machine/VectorMem.lean ====
section
/-! DEFINITION. Vector memory and stream instructions (R124 to R133). -/

namespace Sys2Proof.Machine

/-- The lanes that are active, with their addresses. -/
def State.activeLanes (s : State) (f : Fields) (w : Nat) (g : Nat → Word) : List (Nat × Word) :=
  ((List.range (512 / w)).filter (s.act f)).map fun i => (i, g i)

/-- One vector source; a stream is popped (R29). -/
def withSource (w : Nat) (o : Operand) (s : State) (k : State → Vec → Eff) : Eff :=
  match o.stream with
  | some q => match s.pop q with
    | .trap t => .trap t
    | .wait => .hold s
    | .ok s' x => k s' x
  | none => k s (s.vsrc w o)

/-! ### The local window -/

/-- The checks of each active lane in lane order (R124): R37, the event unit and mailbox, the footprint check. -/
def State.laneChecks (s : State) (n : Nat) (write : Bool) : List (Nat × Word) → Option Trap
  | [] => none
  | (_, a) :: rest =>
    match s.lmemCheck a n write with
    | .error t => some t
    | .ok pl =>
      if pl == .event || pl == .mail then some (0x05, a)
      else match s.footprint pl a.toNat n write with
        | some t => some t
        | none => s.laneChecks n write rest

/-- The bytes of one lane. -/
def State.laneRead (s : State) (n : Nat) (a : Word) : Nat :=
  match lplace a.toNat n with | some pl => s.lread pl a.toNat n | none => 0

/-- One lane written. -/
def State.laneWrite (n : Nat) (a : Word) (x : Nat) (s : State) : State :=
  match lplace a.toNat n with | some pl => s.dataWrite pl a.toNat n x | none => s

/-! ### The events of one access (R203, R211) -/

/-- One event of another agent at the local window: of another core's store, of a copy job's burst, or of an exchange transfer. -/
def State.otherEvent (c : Nat) (s : State) : State :=
  let o := s.outside.length
  let j := s.cl.jobs.length
  if c < o then (match s.outside[c]? with | some (.localStore ..) => s.outsideNth c | _ => s)
  else if c < o + j then s.burstJob (c - o)
  else s.landTransfer (c - o - j)

/-- No other agent's event can come at the local window now. -/
def State.alone (s : State) : Bool := s.outside.isEmpty && s.cl.jobs.isEmpty && s.cl.xeng.flying.isEmpty

/-- What other agents do at the local window between two events of one access: any number of events, where any can come. -/
def State.meanwhile (s : State) : State :=
  if s.alone then s
  else (List.range (Config.amid s.tick)).foldl (fun s _ => { s.otherEvent (Config.amidWhich s.tick) with tick := s.tick + 1 }) s

/-- The next lane lies in another aligned 8 bytes, so its access is another event. -/
def newEvent (l : Nat × Word) (rest : List (Nat × Word)) : Bool := rest.head?.any fun m => m.2.toNat / 8 != l.2.toNat / 8

/-- Lanes are read in order, event by event. -/
def State.readLanes (n : Nat) : List (Nat × Word) → State → State × List (Nat × Nat)
  | [], s => (s, [])
  | l :: rest, s =>
    let r := State.readLanes n rest (if newEvent l rest then s.meanwhile else s)
    (r.1, (l.1, s.laneRead n l.2) :: r.2)

/-- Lanes are written in order, event by event. -/
def State.writeLanes (w : Nat) (data : Vec) : List (Nat × Word) → State → State
  | [], s => s
  | l :: rest, s =>
    let t := s.laneWrite (w / 8) l.2 (lane data l.1 w)
    State.writeLanes w data rest (if newEvent l rest then t.meanwhile else t)

/-- Some lane lies in the scratchpad. -/
def anySpad (n : Nat) (lanes : List (Nat × Word)) : Bool := lanes.any fun x => lplace x.2.toNat n == some .spad

/-- The forms of a load of lanes from the local window (R124, R125, R127). -/
inductive LocalForm where
  | plain | transposed | gather
deriving DecidableEq, Repr

/-- When the lanes of a load reach D: in 3 cycles from local store and 6 where a lane lies in the scratchpad (R124); interlocked, in
3 or 6 + c − 1, for the transposed form (R125), and without a stated latency for a gather (R127). DESIGN CHOICE (log entry 62): a transposed
load whose lanes span local store and scratchpad takes 6 + c − 1 over its scratchpad lines alone; R125 gives the two pure cases. -/
def lanesTo (f : Fields) (form : LocalForm) (lanes : List (Nat × Word)) (mask x : Vec) (s : State) : State :=
  let spad := anySpad (selWidth f.sel / 8) lanes
  let w := RegWrite.v (f.opD.num.toNat - 64) mask x
  match form with
  | .plain => s.put (if spad then 6 else 3) w
  | .transposed =>
    let lines := ((lanes.filter fun l => 0x100000 ≤ l.2.toNat).map (·.2.toNat / 64)).eraseDups
    s.putIn (if spad then 6 + bankDepth lines - 1 else 3) true w
  | .gather => s.putLocked f.opD.num w

/-- A load of lanes from the local window (R124). -/
def localLoad (f : Fields) (form : LocalForm) (lanes : List (Nat × Word)) (s : State) : Eff :=
  let w := selWidth f.sel
  let n := w / 8
  match s.laneChecks n false lanes with
  | some t => .trap t
  | none =>
    let r := s.caughtUp.readLanes n lanes
    let x := packLanes w r.2
    if anySpad n lanes then reading x.1.toNat (fun s' y => .ok (lanesTo f form lanes x.2 (BitVec.ofNat 512 y) s')) r.1
    else .ok (lanesTo f form lanes x.2 x.1 r.1)

/-- A store of lanes into the local window: every lane is checked before any is written (R124, R149). -/
def localStore (s₀ : State) (f : Fields) (data : Vec) (lanes : List (Nat × Word)) (s : State) : Eff :=
  let w := selWidth f.sel
  let n := w / 8
  match s.laneChecks n true lanes with
  | some t => .trap t
  | none =>
    if lanes.any fun l => (lplace l.2.toNat n).any fun pl => s.storeHeld pl l.2.toNat n then .hold s₀
    else .ok (s.caughtUp.writeLanes w data lanes)

/-- VLDL (R124, R125). -/
def vldlEffect (f : Fields) (s : State) : Eff :=
  let (ea, step, transposed) := s.localForm f
  if 0x400000 ≤ ea.toNat then .trap (0x05, ea)
  else localLoad f (if transposed then .transposed else .plain) (s.activeLanes f (selWidth f.sel) fun i => ea + BitVec.ofNat 64 i * step) s

/-- VLDL (R124). -/
def execVldl (f : Fields) (s : State) : Host.Outcome State Fault Refusal := issue (.vldl f) f (vldlEffect f) s

/-- VSTL (R124). -/
def vstlEffect (f : Fields) (s : State) : Eff :=
  let (ea, step, _) := s.localForm f
  withSource (selWidth f.sel) f.opD s fun s' x =>
    if 0x400000 ≤ ea.toNat then .trap (0x05, ea)
    else localStore s f x (s.activeLanes f (selWidth f.sel) fun i => ea + BitVec.ofNat 64 i * step) s'

/-- VSTL (R124). -/
def execVstl (f : Fields) (s : State) : Host.Outcome State Fault Refusal := issue (.vstl f) f (vstlEffect f) s

/-! ### Global memory -/

/-- The lane width of a global vector access: the selector's, or that of its float type (R126). -/
def globalWidth (f : Fields) (typed : Bool) : Nat := if typed then (fmtOfSel f.sel).w else selWidth f.sel

/-- The translation of a global vector access (R126). -/
def vectorReached (k : AccKind) (f : Fields) (ea : Word) (typed : Bool) (s : State) : Except Trap Reached :=
  let w := globalWidth f typed
  let lanes := (List.range (512 / w)).filter (s.act f)
  if typed then s.typedParts k (selType f.sel) false ea lanes
  else if ea.toNat % (w / 8) != 0 then .error (0x08, ea)
  else s.rawParts k (w / 8) (lanes.map fun i => (i, ea + BitVec.ofNat 64 (i * (w / 8))))

/-- No lane below the lane count is active. -/
def State.noLane (s : State) (f : Fields) (w : Nat) : Bool := !(List.range (512 / w)).any (s.act f)

/-- VLDG (R126); with no active lane it accesses nothing (R109). -/
def vldgEffect (f : Fields) (s : State) : Eff :=
  let (off, typed) := s.globalOffset f.opB
  let ea := s.val f.opA + off
  let ty := if typed then some (selType f.sel) else none
  let w := globalWidth f typed
  if s.noLane f w then .ok s
  else station true 0 (vectorReached .read f ea typed) s fun s r => acceptLoad ea ty w (.v f.opD.num) s r

/-- VLDG (R126). -/
def execVldg (f : Fields) (s : State) : Host.Outcome State Fault Refusal := issue (.vldg f) f (vldgEffect f) s

/-- VSTG (R126): every active lane is translated before any is written. -/
def vstgEffect (f : Fields) (s : State) : Eff :=
  let (off, typed) := s.globalOffset f.opB
  let ea := s.val f.opA + off
  let ty := if typed then some (selType f.sel) else none
  let w := globalWidth f typed
  withSource w f.opD s fun s' x =>
    if s.noLane f w then .ok s'
    else match station false 1 (vectorReached .write f ea typed) s' (storeLanes ea ty fun i => lane x i w) with
      | .hold _ => .hold s
      | e => e

/-- VSTG (R126). -/
def execVstg (f : Fields) (s : State) : Host.Outcome State Fault Refusal := issue (.vstg f) f (vstgEffect f) s

/-- The addresses of VGATH and VSCAT (R127): base + sext(lane(B, i), w) × w/8. -/
def State.gatherLanes (s : State) (f : Fields) (idx : Vec) : List (Nat × Word) :=
  let w := selWidth f.sel
  s.activeLanes f w fun i => s.val f.opA + BitVec.ofInt 64 (sx w (lane idx i w) * (w / 8 : Nat))

/-- A of kind L addresses the local window (R127). -/
def isLocalKind : Operand → Bool | .loc _ => true | _ => false

/-- VGATH (R127). DEDUCED (log entry 23): an index stream is popped, or found misused, before the base's misalignment is found. -/
def vgathEffect (f : Fields) (s : State) : Eff :=
  let w := selWidth f.sel
  let base := s.val f.opA
  withSource w f.opB s fun s' idx =>
    let lanes := s.gatherLanes f idx
    if base.toNat % (w / 8) != 0 then .trap (0x08, base)
    else if isLocalKind f.opA then
      match localLoad f .gather lanes s' with
      | .hold _ => .hold s
      | e => e
    else if lanes.isEmpty then .ok s'
    else match station true 0 (fun s => s.rawParts .read (w / 8) lanes) s' fun s r =>
        acceptLoad base none w (.v f.opD.num) s r with
      | .hold _ => .hold s
      | e => e

/-- VGATH (R127). -/
def execVgath (f : Fields) (s : State) : Host.Outcome State Fault Refusal := issue (.vgath f) f (vgathEffect f) s

/-- VSCAT (R127): where lanes share an address the highest lane's data stand. -/
def vscatEffect (f : Fields) (s : State) : Eff :=
  let w := selWidth f.sel
  let base := s.val f.opA
  withSource w f.opB s fun s₁ idx => withSource w f.opD s₁ fun s' x =>
    let lanes := s.gatherLanes f idx
    if base.toNat % (w / 8) != 0 then .trap (0x08, base)
    else if isLocalKind f.opA then localStore s f x lanes s'
    else if lanes.isEmpty then .ok s'
    else match station false 1 (fun s => s.rawParts .write (w / 8) lanes) s'
        (storeLanes base none fun i => lane x i w) with
      | .hold _ => .hold s
      | e => e

/-- VSCAT (R127). -/
def execVscat (f : Fields) (s : State) : Host.Outcome State Fault Refusal := issue (.vscat f) f (vscatEffect f) s

/-! ### Streams -/

/-- SCFG (R129): pushes are written and elements read ahead discarded first; a COUNT of 0 leaves the stream off. -/
def scfgEffect (f : Fields) (s : State) : Eff :=
  let q := f.opD.num.toNat - 96
  let a := s.val f.opA
  let d := s.val f.opB
  let count := (d.extractLsb' 0 32).zeroExtend 64
  let s := s.drainPushes q
  .ok (s.setStream q (if count == 0 then Stream.off else ⟨true, d, a, a, count, [], []⟩))

/-- SCFG (R129). -/
def execScfg (f : Fields) (s : State) : Host.Outcome State Fault Refusal := issue (.scfg f) f (scfgEffect f) s

/-- The status word of a stream (Table 6-12). DEDUCED (log entry 24): BUF counts an element whose fault is held, and one of which a part
has been read. -/
def Stream.status (q : Stream) : Word :=
  (q.remain.extractLsb' 0 32).zeroExtend 64 ||| (BitVec.ofNat 64 (q.ahead.length + q.push.length) <<< 32) |||
    (bit01 q.on <<< 40) ||| (bit01 (q.on && q.writes) <<< 41) ||| (bit01 (q.ahead.any (·.held.isSome)) <<< 42)

/-- SSTAT (R132). -/
def sstatEffect (f : Fields) (s : State) : Eff :=
  .ok (s.setS (some 1) f.opD (vget s.ctx.streams (f.opA.num.toNat - 96) Stream.off).status)

/-- SSTAT (R132). -/
def execSstat (f : Fields) (s : State) : Host.Outcome State Fault Refusal := issue (.sstat f) f (sstatEffect f) s

/-- SSTAT.DRAIN (R132). -/
def sstatDrainEffect (f : Fields) (s : State) : Eff :=
  let q := f.opA.num.toNat - 96
  let s := s.drainPushes q
  .ok (s.setS none f.opD (vget s.ctx.streams q Stream.off).status)

/-- SSTAT.DRAIN (R132). -/
def execSstatDrain (f : Fields) (s : State) : Host.Outcome State Fault Refusal :=
  issue (.sstatDrain f) f (sstatDrainEffect f) s

end Sys2Proof.Machine
end

