-- ==== Sys2Proof/Machine/Dispatch.lean ====
section
/-! DEFINITION. The meaning of every constructor of `Instr`: one arm each, one direct call. -/

namespace Sys2Proof.Machine

def exec (i : Instr) (s : State) : Host.Outcome State Fault Refusal :=
  match i with
  | .pfx p => Sys2Proof.Machine.execPfx p s
  | .add f => Sys2Proof.Machine.execAdd f s
  | .sub f => Sys2Proof.Machine.execSub f s
  | .mul f => Sys2Proof.Machine.execMul f s
  | .mulh f => Sys2Proof.Machine.execMulh f s
  | .mulhu f => Sys2Proof.Machine.execMulhu f s
  | .div f => Sys2Proof.Machine.execDiv f s
  | .divu f => Sys2Proof.Machine.execDivu f s
  | .rem f => Sys2Proof.Machine.execRem f s
  | .remu f => Sys2Proof.Machine.execRemu f s
  | .andOp f => Sys2Proof.Machine.execAndOp f s
  | .orOp f => Sys2Proof.Machine.execOrOp f s
  | .xor f => Sys2Proof.Machine.execXor f s
  | .andn f => Sys2Proof.Machine.execAndn f s
  | .shl f => Sys2Proof.Machine.execShl f s
  | .shr f => Sys2Proof.Machine.execShr f s
  | .sar f => Sys2Proof.Machine.execSar f s
  | .rotl f => Sys2Proof.Machine.execRotl f s
  | .clz f => Sys2Proof.Machine.execClz f s
  | .ctz f => Sys2Proof.Machine.execCtz f s
  | .popc f => Sys2Proof.Machine.execPopc f s
  | .min f => Sys2Proof.Machine.execMin f s
  | .max f => Sys2Proof.Machine.execMax f s
  | .minu f => Sys2Proof.Machine.execMinu f s
  | .maxu f => Sys2Proof.Machine.execMaxu f s
  | .abs f => Sys2Proof.Machine.execAbs f s
  | .neg f => Sys2Proof.Machine.execNeg f s
  | .sext f => Sys2Proof.Machine.execSext f s
  | .zext f => Sys2Proof.Machine.execZext f s
  | .bfx f => Sys2Proof.Machine.execBfx f s
  | .bfi f => Sys2Proof.Machine.execBfi f s
  | .lea f => Sys2Proof.Machine.execLea f s
  | .mov f => Sys2Proof.Machine.execMov f s
  | .sel f => Sys2Proof.Machine.execSel f s
  | .cmp f => Sys2Proof.Machine.execCmp f s
  | .plog f => Sys2Proof.Machine.execPlog f s
  | .fadd f => Sys2Proof.Machine.execFadd f s
  | .fsub f => Sys2Proof.Machine.execFsub f s
  | .fmul f => Sys2Proof.Machine.execFmul f s
  | .ffma f => Sys2Proof.Machine.execFfma f s
  | .fdiv f => Sys2Proof.Machine.execFdiv f s
  | .fsqrt f => Sys2Proof.Machine.execFsqrt f s
  | .fmin f => Sys2Proof.Machine.execFmin f s
  | .fmax f => Sys2Proof.Machine.execFmax f s
  | .fcmp f => Sys2Proof.Machine.execFcmp f s
  | .fcvt f => Sys2Proof.Machine.execFcvt f s
  | .fcvti f => Sys2Proof.Machine.execFcvti f s
  | .icvtf f => Sys2Proof.Machine.execIcvtf f s
  | .fclass f => Sys2Proof.Machine.execFclass f s
  | .fabs f => Sys2Proof.Machine.execFabs f s
  | .fneg f => Sys2Proof.Machine.execFneg f s
  | .ldl f => Sys2Proof.Machine.execLdl f s
  | .stl f => Sys2Proof.Machine.execStl f s
  | .ldg f => Sys2Proof.Machine.execLdg f s
  | .stg f => Sys2Proof.Machine.execStg f s
  | .pref f => Sys2Proof.Machine.execPref f s
  | .br f => Sys2Proof.Machine.execBr f s
  | .call f => Sys2Proof.Machine.execCall f s
  | .ret f => Sys2Proof.Machine.execRet f s
  | .jmp f => Sys2Proof.Machine.execJmp f s
  | .loop f => Sys2Proof.Machine.execLoop f s
  | .rep f => Sys2Proof.Machine.execRep f s
  | .nop f => Sys2Proof.Machine.execNop f s
  | .stop f => Sys2Proof.Machine.execStop f s
  | .vadd f => Sys2Proof.Machine.execVadd f s
  | .vsub f => Sys2Proof.Machine.execVsub f s
  | .vmul f => Sys2Proof.Machine.execVmul f s
  | .vmulh f => Sys2Proof.Machine.execVmulh f s
  | .vmin f => Sys2Proof.Machine.execVmin f s
  | .vmax f => Sys2Proof.Machine.execVmax f s
  | .vand f => Sys2Proof.Machine.execVand f s
  | .vor f => Sys2Proof.Machine.execVor f s
  | .vxor f => Sys2Proof.Machine.execVxor f s
  | .vshl f => Sys2Proof.Machine.execVshl f s
  | .vshr f => Sys2Proof.Machine.execVshr f s
  | .vsar f => Sys2Proof.Machine.execVsar f s
  | .vabs f => Sys2Proof.Machine.execVabs f s
  | .vneg f => Sys2Proof.Machine.execVneg f s
  | .vcmp f => Sys2Proof.Machine.execVcmp f s
  | .vsel f => Sys2Proof.Machine.execVsel f s
  | .vclamp f => Sys2Proof.Machine.execVclamp f s
  | .vfadd f => Sys2Proof.Machine.execVfadd f s
  | .vfsub f => Sys2Proof.Machine.execVfsub f s
  | .vfmul f => Sys2Proof.Machine.execVfmul f s
  | .vfma f => Sys2Proof.Machine.execVfma f s
  | .vfdiv f => Sys2Proof.Machine.execVfdiv f s
  | .vfsqrt f => Sys2Proof.Machine.execVfsqrt f s
  | .vfrsq f => Sys2Proof.Machine.execVfrsq f s
  | .vfexp2 f => Sys2Proof.Machine.execVfexp2 f s
  | .vflog2 f => Sys2Proof.Machine.execVflog2 f s
  | .vfmin f => Sys2Proof.Machine.execVfmin f s
  | .vfmax f => Sys2Proof.Machine.execVfmax f s
  | .vfcmp f => Sys2Proof.Machine.execVfcmp f s
  | .vcvt f => Sys2Proof.Machine.execVcvt f s
  | .vpack f => Sys2Proof.Machine.execVpack f s
  | .vunpk f => Sys2Proof.Machine.execVunpk f s
  | .vshuf f => Sys2Proof.Machine.execVshuf f s
  | .vbcast f => Sys2Proof.Machine.execVbcast f s
  | .vextr f => Sys2Proof.Machine.execVextr f s
  | .vins f => Sys2Proof.Machine.execVins f s
  | .vred f => Sys2Proof.Machine.execVred f s
  | .vscan f => Sys2Proof.Machine.execVscan f s
  | .vqnt f => Sys2Proof.Machine.execVqnt f s
  | .vdqnt f => Sys2Proof.Machine.execVdqnt f s
  | .vcbd f => Sys2Proof.Machine.execVcbd f s
  | .vcbdLt f => Sys2Proof.Machine.execVcbdLt f s
  | .lsupd f => Sys2Proof.Machine.execLsupd f s
  | .vldl f => Sys2Proof.Machine.execVldl f s
  | .vstl f => Sys2Proof.Machine.execVstl f s
  | .vldg f => Sys2Proof.Machine.execVldg f s
  | .vstg f => Sys2Proof.Machine.execVstg f s
  | .vgath f => Sys2Proof.Machine.execVgath f s
  | .vscat f => Sys2Proof.Machine.execVscat f s
  | .scfg f => Sys2Proof.Machine.execScfg f s
  | .sstat f => Sys2Proof.Machine.execSstat f s
  | .sstatDrain f => Sys2Proof.Machine.execSstatDrain f s
  | .kldb f => Sys2Proof.Machine.execKldb f s
  | .kmul f => Sys2Proof.Machine.execKmul f s
  | .kmulb f => Sys2Proof.Machine.execKmulb f s
  | .kmovR f => Sys2Proof.Machine.execKmovR f s
  | .kmovW f => Sys2Proof.Machine.execKmovW f s
  | .kmovRz f => Sys2Proof.Machine.execKmovRz f s
  | .kzero f => Sys2Proof.Machine.execKzero f s
  | .kcfg f => Sys2Proof.Machine.execKcfg f s
  | .kstat f => Sys2Proof.Machine.execKstat f s
  | .kstatJ f => Sys2Proof.Machine.execKstatJ f s
  | .kstatJc f => Sys2Proof.Machine.execKstatJc f s
  | .ksync f => Sys2Proof.Machine.execKsync f s
  | .knorm f => Sys2Proof.Machine.execKnorm f s
  | .knormRel f => Sys2Proof.Machine.execKnormRel f s
  | .kest f => Sys2Proof.Machine.execKest f s
  | .kevar f => Sys2Proof.Machine.execKevar f s
  | .kseed f => Sys2Proof.Machine.execKseed f s
  | .kseedTc f => Sys2Proof.Machine.execKseedTc f s
  | .klim f => Sys2Proof.Machine.execKlim f s
  | .cpost f => Sys2Proof.Machine.execCpost f s
  | .cgath f => Sys2Proof.Machine.execCgath f s
  | .cwin f => Sys2Proof.Machine.execCwin f s
  | .clink f => Sys2Proof.Machine.execClink f s
  | .cbinit f => Sys2Proof.Machine.execCbinit f s
  | .cbput f => Sys2Proof.Machine.execCbput f s
  | .cbget f => Sys2Proof.Machine.execCbget f s
  | .mbxr f => Sys2Proof.Machine.execMbxr f s
  | .mbxrT f => Sys2Proof.Machine.execMbxrT f s
  | .tdeclR f => Sys2Proof.Machine.execTdeclR f s
  | .tdeclW f => Sys2Proof.Machine.execTdeclW f s
  | .tdeclClr f => Sys2Proof.Machine.execTdeclClr f s
  | .tsub f => Sys2Proof.Machine.execTsub f s
  | .tsubD f => Sys2Proof.Machine.execTsubD f s
  | .tend f => Sys2Proof.Machine.execTend f s
  | .tendG f => Sys2Proof.Machine.execTendG f s
  | .tstat f => Sys2Proof.Machine.execTstat f s
  | .tstatW f => Sys2Proof.Machine.execTstatW f s
  | .aadd f => Sys2Proof.Machine.execAadd f s
  | .aand f => Sys2Proof.Machine.execAand f s
  | .aor f => Sys2Proof.Machine.execAor f s
  | .axor f => Sys2Proof.Machine.execAxor f s
  | .amin f => Sys2Proof.Machine.execAmin f s
  | .amax f => Sys2Proof.Machine.execAmax f s
  | .aminu f => Sys2Proof.Machine.execAminu f s
  | .amaxu f => Sys2Proof.Machine.execAmaxu f s
  | .afadd f => Sys2Proof.Machine.execAfadd f s
  | .afmin f => Sys2Proof.Machine.execAfmin f s
  | .afmax f => Sys2Proof.Machine.execAfmax f s
  | .aswp f => Sys2Proof.Machine.execAswp f s
  | .acas f => Sys2Proof.Machine.execAcas f s
  | .reda f => Sys2Proof.Machine.execReda f s
  | .take f => Sys2Proof.Machine.execTake f s
  | .takeK f => Sys2Proof.Machine.execTakeK f s
  | .put f => Sys2Proof.Machine.execPut f s
  | .mwait f => Sys2Proof.Machine.execMwait f s
  | .evwait f => Sys2Proof.Machine.execEvwait f s
  | .evsig f => Sys2Proof.Machine.execEvsig f s
  | .evsigR f => Sys2Proof.Machine.execEvsigR f s
  | .bar f => Sys2Proof.Machine.execBar f s
  | .barG f => Sys2Proof.Machine.execBarG f s
  | .fence f => Sys2Proof.Machine.execFence f s
  | .post f => Sys2Proof.Machine.execPost f s
  | .texit f => Sys2Proof.Machine.execTexit f s
  | .slave f => Sys2Proof.Machine.execSlave f s
  | .slaveL f => Sys2Proof.Machine.execSlaveL f s
  | .detach f => Sys2Proof.Machine.execDetach f s
  | .xrun f => Sys2Proof.Machine.execXrun f s
  | .xwait f => Sys2Proof.Machine.execXwait f s
  | .xwaitE f => Sys2Proof.Machine.execXwaitE f s
  | .msend f => Sys2Proof.Machine.execMsend f s
  | .mrecv f => Sys2Proof.Machine.execMrecv f s
  | .mrecvT f => Sys2Proof.Machine.execMrecvT f s
  | .gearF f => Sys2Proof.Machine.execGearF f s
  | .gearN f => Sys2Proof.Machine.execGearN f s
  | .taskq f => Sys2Proof.Machine.execTaskq f s
  | .mfs f => Sys2Proof.Machine.execMfs f s
  | .mts f => Sys2Proof.Machine.execMts f s
  | .trap f => Sys2Proof.Machine.execTrap f s
  | .sysc f => Sys2Proof.Machine.execSysc f s
  | .eret f => Sys2Proof.Machine.execEret f s
  | .ctxsv f => Sys2Proof.Machine.execCtxsv f s
  | .ctxsvCl f => Sys2Proof.Machine.execCtxsvCl f s
  | .ctxld f => Sys2Proof.Machine.execCtxld f s
  | .ctxldCl f => Sys2Proof.Machine.execCtxldCl f s
  | .stinvVa f => Sys2Proof.Machine.execStinvVa f s
  | .stinvPid f => Sys2Proof.Machine.execStinvPid f s
  | .stinvAll f => Sys2Proof.Machine.execStinvAll f s
  | .brk f => Sys2Proof.Machine.execBrk f s
  | .tmark f => Sys2Proof.Machine.execTmark f s
  | .mtsRetired f => Sys2Proof.Machine.execMtsRetired f s
  | .mtsCycle f => Sys2Proof.Machine.execMtsCycle f s
  | .sensinjWrite f => Sys2Proof.Machine.execSensinjWrite f s
  | .dbgctlHalt => Sys2Proof.Machine.execDbgctlHalt s
  | .dbgctlStep => Sys2Proof.Machine.execDbgctlStep s
  | .dbgctlQuiesce on => Sys2Proof.Machine.execDbgctlQuiesce on s
  | .barrierMaskWrite b mask => Sys2Proof.Machine.execBarrierMaskWrite b mask s
  | .barrierArrive b core => Sys2Proof.Machine.execBarrierArrive b core s
  | .barrierSync b core => Sys2Proof.Machine.execBarrierSync b core s
  | .mutexLock x core => Sys2Proof.Machine.execMutexLock x core s
  | .mutexTry x core => Sys2Proof.Machine.execMutexTry x core s
  | .mutexUnlock x core => Sys2Proof.Machine.execMutexUnlock x core s
  | .mutexErrClear x => Sys2Proof.Machine.execMutexErrClear x s
  | .eventPendWrite e v => Sys2Proof.Machine.execEventPendWrite e v s
  | .eventSig e n => Sys2Proof.Machine.execEventSig e n s
  | .eventWait e core => Sys2Proof.Machine.execEventWait e core s
  | .eventMessageLand e => Sys2Proof.Machine.execEventMessageLand e s
  | .waitWake => Sys2Proof.Machine.execWaitWake s
  | .trapEntry => Sys2Proof.Machine.execTrapEntry s
  | .stationAccept who k va => Sys2Proof.Machine.execStationAccept who k va s
  | .pageWalk who va => Sys2Proof.Machine.execPageWalk who va s
  | .globalAccessPerform k => Sys2Proof.Machine.execGlobalAccessPerform k s
  | .globalLoadReturn k => Sys2Proof.Machine.execGlobalLoadReturn k s
  | .bankAluAtomic op fmt pa b d => Sys2Proof.Machine.execBankAluAtomic op fmt pa b d s
  | .atomicLineMove line cluster => Sys2Proof.Machine.execAtomicLineMove line cluster s
  | .atomicLineReturn line => Sys2Proof.Machine.execAtomicLineReturn line s
  | .redaArrival pa rank v => Sys2Proof.Machine.execRedaArrival pa rank v s
  | .feTakeAtHome pa keep core => Sys2Proof.Machine.execFeTakeAtHome pa keep core s
  | .fePutAtHome pa v => Sys2Proof.Machine.execFePutAtHome pa v s
  | .fenceComplete => Sys2Proof.Machine.execFenceComplete s
  | .kilnCommandStart k => Sys2Proof.Machine.execKilnCommandStart k s
  | .slicePassGrant => Sys2Proof.Machine.execSlicePassGrant s
  | .slicePassComplete => Sys2Proof.Machine.execSlicePassComplete s
  | .kestSelection => Sys2Proof.Machine.execKestSelection s
  | .kilnCommandComplete k => Sys2Proof.Machine.execKilnCommandComplete k s
  | .kilnBudgetWindow => Sys2Proof.Machine.execKilnBudgetWindow s
  | .queueClaim pa => Sys2Proof.Machine.execQueueClaim pa s
  | .queueStatWrite pa v => Sys2Proof.Machine.execQueueStatWrite pa v s
  | .packetRead q => Sys2Proof.Machine.execPacketRead q s
  | .copyJobStart j => Sys2Proof.Machine.execCopyJobStart j s
  | .copyBurst j => Sys2Proof.Machine.execCopyBurst j s
  | .linkPacketRead j => Sys2Proof.Machine.execLinkPacketRead j s
  | .clipMessage j => Sys2Proof.Machine.execClipMessage j s
  | .stampWrite j => Sys2Proof.Machine.execStampWrite j s
  | .streamReadAhead q => Sys2Proof.Machine.execStreamReadAhead q s
  | .streamPushWrite q => Sys2Proof.Machine.execStreamPushWrite q s
  | .launch who desc pnum clusters number => Sys2Proof.Machine.execLaunch who desc pnum clusters number s
  | .overflowReturn => Sys2Proof.Machine.execOverflowReturn s
  | .taskDispatch => Sys2Proof.Machine.execTaskDispatch s
  | .recordReservation pidx => Sys2Proof.Machine.execRecordReservation pidx s
  | .gangMigration cores dest => Sys2Proof.Machine.execGangMigration cores dest s
  | .launchComplete => Sys2Proof.Machine.execLaunchComplete s
  | .computeBarrierRelease => Sys2Proof.Machine.execComputeBarrierRelease s
  | .exchangeTransferStart linkTaken => Sys2Proof.Machine.execExchangeTransferStart linkTaken s
  | .exchangeLanding k => Sys2Proof.Machine.execExchangeLanding k s
  | .exchangeBarrierRelease records => Sys2Proof.Machine.execExchangeBarrierRelease records s
  | .computePhaseStart => Sys2Proof.Machine.execComputePhaseStart s
  | .messageDelivery core data => Sys2Proof.Machine.execMessageDelivery core data s
  | .gearLift on => Sys2Proof.Machine.execGearLift on s
  | .railHandover n => Sys2Proof.Machine.execRailHandover n s
  | .handoverComplete => Sys2Proof.Machine.execHandoverComplete s
  | .controlInterval c t boost dly stag => Sys2Proof.Machine.execControlInterval c t boost dly stag s
  | .sagStretch => Sys2Proof.Machine.execSagStretch s
  | .sagHoldEnd => Sys2Proof.Machine.execSagHoldEnd s
  | .sensorReading die kind sensor temp => Sys2Proof.Machine.execSensorReading die kind sensor temp s
  | .dramRefresh channel layer => Sys2Proof.Machine.execDramRefresh channel layer s
  | .refreshEnd channel layer => Sys2Proof.Machine.execRefreshEnd channel layer s
  | .scrub pa bad => Sys2Proof.Machine.execScrub pa bad s
  | .watchdogExpiry => Sys2Proof.Machine.execWatchdogExpiry s
  | .sequencerSubmission key tiles => Sys2Proof.Machine.execSequencerSubmission key tiles s
  | .beatEnd beat => Sys2Proof.Machine.execBeatEnd beat s
  | .orderMerged beat others => Sys2Proof.Machine.execOrderMerged beat others s
  | .sliceGrant k => Sys2Proof.Machine.execSliceGrant k s
  | .grantDelivery => Sys2Proof.Machine.execGrantDelivery s
  | .releasePerform key => Sys2Proof.Machine.execReleasePerform key s
  | .haltTreeStop => Sys2Proof.Machine.execHaltTreeStop s
  | .haltTreeFreeze => Sys2Proof.Machine.execHaltTreeFreeze s
  | .kernelCrash reason => Sys2Proof.Machine.execKernelCrash reason s
  | .warmReboot => Sys2Proof.Machine.execWarmReboot s
  | .coldBoot image => Sys2Proof.Machine.execColdBoot image s
  | .selfTestPass offset n => Sys2Proof.Machine.execSelfTestPass offset n s
  | .functionFailed offset n => Sys2Proof.Machine.execFunctionFailed offset n s
  | .linkFailed link => Sys2Proof.Machine.execLinkFailed link s
  | .hostRead fn addr n => Sys2Proof.Machine.execHostRead fn addr n s
  | .hostWrite fn addr n v => Sys2Proof.Machine.execHostWrite fn addr n v s
  | .remoteAccess pkg pa n w => Sys2Proof.Machine.execRemoteAccess pkg pa n w s
  | .exportWindowNarrow pkg n w => Sys2Proof.Machine.execExportWindowNarrow pkg n w s
  | .domainFormation rank n tables => Sys2Proof.Machine.execDomainFormation rank n tables s
  | .preemptionRequest => Sys2Proof.Machine.execPreemptionRequest s
  | .contextDiscard => Sys2Proof.Machine.execContextDiscard s
  | .recordDelivery => Sys2Proof.Machine.execRecordDelivery s

end Sys2Proof.Machine
end

