-- ==== Sys2Proof/Machine/Agents.lean ====
section
/-! DEFINITION. What a step is made of: fetching and running the core's next instruction, or a follower's next forwarded word
(R322, R323), and the steps of the engines, stations, homes and controllers that are possible now. -/

namespace Sys2Proof.Machine

/-- The outcome of a step of this machine. -/
abbrev Result := Host.Outcome State Fault Refusal

/-! ### The core -/

/-- A word issues: its instruction's meaning, or trap 0x01 for a reserved opcode (R35). -/
def runWord (w : IWord) (s : State) : Result :=
  match decodeWord w with
  | .ok i => exec i s
  | .error (.reserved op) => .next (s.trap (0x01, op.zeroExtend 64))
  | .error .short => .next s

/-- The word at an address is fetched and issues, or its fetch traps (R16, R17). -/
def fetchAndRun (a : Word) (s : State) : Result :=
  match s.fetch a with
  | .error t => .next (s.trap t)
  | .ok w => runWord w s

/-- The words that a follower has been forwarded, at least `n` of them; those that have not come are free (R322). -/
def State.fill (n : Nat) (c : Chain) (s : State) : State × List (Word × IWord) :=
  let more := (List.range (n - c.fwd.length)).map fun i => Config.forwarded (s.tick + i)
  let fwd := c.fwd ++ more
  ({ s with core := { s.core with chain := some { c with fwd } }, tick := s.tick + more.length }, fwd)

/-- A follower has issued `k` forwarded words: they leave its buffer, and after a control transfer the next word issues only at its own
pc. -/
def State.forwardedIssued (k : Nat) (follow : Bool) (s : State) : State :=
  match s.core.chain with
  | none => s
  | some c => { s with core := { s.core with chain := some { c with fwd := c.fwd.drop k, follow } } }

/-- A transfer that may go elsewhere than its leader's (R323); a `REP` does as its leader's does (R322). -/
def mayDiverge (w : IWord) : Bool :=
  match decodeWord w with
  | .ok (.rep _) => false
  | .ok i => i.spec.ct
  | .error _ => false

/-- A forwarded instruction issues at this follower, unless it is held (R322). One at its own next pc goes on with its repeat body. -/
def runForwarded (k : Nat) (a : Word) (pre : Option Pfx) (w : IWord) (s : State) : Result :=
  let rep := if a == s.ctx.pc then s.ctx.rep else none
  let s := { s with ctx := { s.ctx with pc := a, rep }, core := { s.core with pre } }
  match runWord w s with
  | .next t =>
    if t.ctx.pc == s.ctx.pc && t.ctx.retired == s.ctx.retired then .next t else .next (t.forwardedIssued k (!mayDiverge w))
  | r => r

/-- A diverged follower executes a forwarded instruction as guarded off (R323): the checks of encoding and privilege stand (R32, R33).
DEDUCED (log entry 20): TRAPPC of such a trap is its resume address, where it goes on. -/
def State.passOver (k : Nat) (pre : Option Pfx) (w : IWord) (s : State) : State :=
  let s := { s with core := { s.core with pre } }
  match decodeWord w with
  | .error (.reserved op) => s.trap (0x01, op.zeroExtend 64)
  | .error .short => s.idle.forwardedIssued k false
  | .ok i => match i.fields with
    | some f => (match i.checks f s with
      | some t => s.trap t
      | none => (s.retire f s.ctx.pc .enter).forwardedIssued k false)
    | none => (match exec i s with
      | .next t => t.forwardedIssued k false
      | _ => s)

/-- A follower's next step (R322, R323). -/
def followStep (c : Chain) (s : State) : Result :=
  let r := s.fill 2 c
  match r.2 with
  | (a, w) :: (_, w₂) :: _ =>
    let pre := match decodeWord w with | .ok (.pfx p) => some p | _ => none
    let k := if pre.isSome then 2 else 1
    let w := if pre.isSome then w₂ else w
    if c.follow || a == s.ctx.pc then runForwarded k a pre w r.1 else .next (r.1.passOver k pre w)
  | _ => .next r.1

/-- The core may issue: it runs a context, and nothing has stopped its clock (R247, R342). -/
def State.issues (s : State) : Bool :=
  s.core.run == .running && !(s.core.wait.any (·.gated)) && s.cl.gear.handover.isNone

/-- The core's own step: a pending request, its next instruction, or a cycle without one. -/
def coreStep (s : State) : Result :=
  if s.cl.gear.handover.isSome then execHandoverComplete s
  else if s.gearDue then .next (if s.passing then s.idle else s.startHandover s.requiredGear)
  else if s.async.isSome then execTrapEntry s
  else if !s.issues then .next s.idle
  else match s.core.chain with
  | some c => if c.leads then fetchAndRun s.ctx.pc s else followStep c s
  | none => fetchAndRun s.ctx.pc s

/-! ### The other steps -/

/-- A step beside the core's own: an event of the opcode table that the machine itself brings about. An order merged, a transfer
started or a barrier released from here brings nothing of other dies or clusters. -/
inductive Act where
  | globalAccessPerform (k : Nat)
  | globalLoadReturn (k : Nat)
  | fenceComplete
  | streamPushWrite (q : Nat)
  | streamReadAhead (q : Nat)
  | kilnCommandStart (k : Nat)
  | kestSelection
  | slicePassGrant
  | slicePassComplete
  | kilnCommandComplete (k : Nat)
  | kilnBudgetWindow
  | packetRead (q : Nat)
  | copyJobStart (j : Nat)
  | copyBurst (j : Nat)
  | clipMessage (j : Nat)
  | stampWrite (j : Nat)
  | linkPacketRead (j : Nat)
  | sequencerSubmission (key : TxKey) (tiles : List (Nat × Bool))
  | beatEnd (b : Nat)
  | orderMerged (b : Nat)
  | sliceGrant (k : Nat)
  | grantDelivery
  | releasePerform (key : TxKey)
  | sagHoldEnd
  | controlInterval (c t : Nat) (boost : Bool) (dly : BitVec 8) (stag : BitVec 2)
  | gearLift (on : Bool)
  | railHandover (n : Bool)
  | overflowReturn
  | taskDispatch
  | recordReservation (pidx : Nat)
  | gangMigration (cores : BitVec 8) (dest : Nat)
  | launchComplete
  | exchangeTransferStart
  | exchangeLanding (k : Nat)
  | computeBarrierRelease
  | exchangeBarrierRelease
  | computePhaseStart
  | messageDelivery (core : Nat) (data : Vec)
  | recordDelivery
  | watchdogExpiry
  | trapEntry
  | dramRefresh (channel layer : Nat)
  | refreshEnd (channel layer : Nat)
  | waitWake
deriving DecidableEq, Repr

/-- The event's meaning. -/
def runAct (a : Act) (s : State) : Result :=
  match a with
  | .globalAccessPerform k => execGlobalAccessPerform k s
  | .globalLoadReturn k => execGlobalLoadReturn k s
  | .fenceComplete => execFenceComplete s
  | .streamPushWrite q => execStreamPushWrite q s
  | .streamReadAhead q => execStreamReadAhead q s
  | .kilnCommandStart k => execKilnCommandStart k s
  | .kestSelection => execKestSelection s
  | .slicePassGrant => execSlicePassGrant s
  | .slicePassComplete => execSlicePassComplete s
  | .kilnCommandComplete k => execKilnCommandComplete k s
  | .kilnBudgetWindow => execKilnBudgetWindow s
  | .packetRead q => execPacketRead q s
  | .copyJobStart j => execCopyJobStart j s
  | .copyBurst j => execCopyBurst j s
  | .clipMessage j => execClipMessage j s
  | .stampWrite j => execStampWrite j s
  | .linkPacketRead j => execLinkPacketRead j s
  | .sequencerSubmission key tiles => execSequencerSubmission key tiles s
  | .beatEnd b => execBeatEnd b s
  | .orderMerged b => execOrderMerged b [] s
  | .sliceGrant k => execSliceGrant k s
  | .grantDelivery => execGrantDelivery s
  | .releasePerform key => execReleasePerform key s
  | .sagHoldEnd => execSagHoldEnd s
  | .controlInterval c t boost dly stag => execControlInterval c t boost dly stag s
  | .gearLift on => execGearLift on s
  | .railHandover n => execRailHandover n s
  | .overflowReturn => execOverflowReturn s
  | .taskDispatch => execTaskDispatch s
  | .recordReservation pidx => execRecordReservation pidx s
  | .gangMigration cores dest => execGangMigration cores dest s
  | .launchComplete => execLaunchComplete s
  | .exchangeTransferStart => execExchangeTransferStart false s
  | .exchangeLanding k => execExchangeLanding k s
  | .computeBarrierRelease => execComputeBarrierRelease s
  | .exchangeBarrierRelease => execExchangeBarrierRelease [] s
  | .computePhaseStart => execComputePhaseStart s
  | .messageDelivery core data => execMessageDelivery core data s
  | .recordDelivery => execRecordDelivery s
  | .watchdogExpiry => execWatchdogExpiry s
  | .trapEntry => execTrapEntry s
  | .dramRefresh channel layer => execDramRefresh channel layer s
  | .refreshEnd channel layer => execRefreshEnd channel layer s
  | .waitWake => execWaitWake s

/-- The numbers below `n` for which a step is possible. -/
def each (n : Nat) (p : Nat → Bool) (i : Nat → Act) : List Act := ((List.range n).filter p).map i

/-- A step that is possible. -/
def one (p : Bool) (i : Act) : List Act := if p then [i] else []

/-- Steps of accesses, streams and waits. -/
def State.accessSteps (s : State) : List Act :=
  each s.core.gq.length s.performable .globalAccessPerform ++ each s.core.gq.length s.returnable .globalLoadReturn ++
    one s.fenceDone .fenceComplete ++
    each 8 (fun q => !(vget s.ctx.streams q Stream.off).push.isEmpty) .streamPushWrite ++
    each 8 s.streamReads .streamReadAhead

/-- Steps of the Kiln (R147 to R152, R350). -/
def State.kilnSteps (s : State) : List Act :=
  let n := s.core.kq.length
  each n (fun k => !s.pkg.frozen && s.startable k) .kilnCommandStart ++ one (s.core.kq.any (·.chooses)) .kestSelection ++
    one (s.nextPass.any fun x => s.passMayStart s.core.idx x.2.2 x.2.1.isF64) .slicePassGrant ++
    one (s.core.kq.any fun c => c.passOver s.core.cyc) .slicePassComplete ++ each n s.completable .kilnCommandComplete ++
    one (n != 0 && s.cl.arb.start + 64 ≤ s.core.cyc) .kilnBudgetWindow

/-- Steps of the copy engine (R252, R260 to R266). -/
def State.copySteps (s : State) : List Act :=
  let n := s.cl.jobs.length
  let p := fun (g : Job → Bool) (i : Nat) => (s.job i).any g
  each s.cl.queues.length (fun q => !s.pkg.frozen && s.slotReady q) .packetRead ++
    each n (fun j => !s.pkg.frozen && s.jobStartable j) .copyJobStart ++ each n s.jobMoving .copyBurst ++
    each n (p Job.owesMessage) .clipMessage ++ each n s.stampable .stampWrite ++
    each n (p fun j => j.stampDone && j.goesOn) .linkPacketRead

/-- Steps of the sequencer and the slices (R278 to R292). -/
def State.orderSteps (s : State) : List Act :=
  let q := s.pkg.seq
  one s.submitting (.sequencerSubmission s.ctx.tx.key s.ctx.tx.tiles) ++
    ((q.batch.map (·.1.beat)).filter s.beatOver).map .beatEnd ++
    ((q.closed.map (·.1)).filter s.mergeable).map .orderMerged ++
    each q.reqs.length s.grantable .sliceGrant ++ one s.grantComing .grantDelivery ++
    (match s.orphan with | some k => [.releasePerform k] | none => [])

/-- The controller acts at a boundary (R346); what it decides where nothing outside has said it is free. -/
def State.ownInterval (s : State) : Act :=
  let x := Config.ceilings s.tick
  .controlInterval x.1 x.2.1 x.2.2.1 x.2.2.2.1 x.2.2.2.2

/-- Steps of the partition: records, tasks, supersteps, messages and gears. The barriers of a partition of more than one cluster
release when the outside says so. -/
def State.phaseSteps (s : State) : List Act :=
  let alone := s.cl.part.size ≤ 1
  one s.sagOver .sagHoldEnd ++ one s.intervalDue s.ownInterval ++ one (s.liftable true) (.gearLift true) ++ one (s.liftable false) (.gearLift false) ++
    one s.gearDue (.railHandover s.requiredGear) ++
    one (s.cl.launchQ.length < 256 && !s.cl.overflow.isEmpty) .overflowReturn ++ one s.dispatchable .taskDispatch ++
    one (s.pkg.launches.any (·.over)) .launchComplete ++
    one s.transferDue .exchangeTransferStart ++
    each s.cl.xeng.flying.length (fun k => (s.cl.xeng.flying[k]?).any fun t => t.due ≤ s.pkg.cycle || s.underway t) .exchangeLanding ++
    one (alone && s.computeOver) .computeBarrierRelease ++ one (alone && s.exchangeOver) .exchangeBarrierRelease ++
    one s.phaseDue .computePhaseStart ++
    (match s.ownMessage with | some m => [.messageDelivery m.2.1.toNat m.2.2] | none => []) ++
    one s.deliverable .recordDelivery ++
    (match s.nextReservation with | some x => [.recordReservation x.2.2] | none => []) ++
    (match s.nextMigration with | some x => [.gangMigration x.1.all x.2.1] | none => [])

/-- Every step that is possible now beside the core's own, in the order in which the machine tries them. -/
def State.steps (s : State) : List Act :=
  one s.watchdogDue .watchdogExpiry ++ one s.saveDue .trapEntry ++
    s.refreshesDue.map (fun c => .dramRefresh c.1 c.2) ++
    (s.pkg.blocked.filter fun b => b.2.2 ≤ s.pkg.cycle).map (fun b => .refreshEnd b.1 b.2.1) ++
    s.phaseSteps ++ s.orderSteps ++ s.accessSteps ++ s.copySteps ++ s.kilnSteps ++ one s.wakeable .waitWake ++
    (List.range s.outside.length).map fun k => .globalAccessPerform (s.core.gq.length + k)

/-- A step changes more than the counter of the free values. -/
def moves (s : State) (a : Act) : Bool :=
  match runAct a s with
  | .next t => decide ({ t with tick := s.tick } ≠ s)
  | _ => true

/-- The next step of an agent or of the core: what `turns` says, and with none left the first step that does something. -/
def agentStep (s : State) : Result :=
  match s.turns with
  | [] => (match s.steps.find? (moves s) with | some a => runAct a s | none => coreStep s)
  | n :: rest =>
    let s := { s with turns := rest }
    match n with
    | 0 => coreStep s
    | n + 1 => (match s.steps[n]? with | some a => runAct a s | none => coreStep s)

/-- One step of the machine: the consumer of a prefix that has been fetched, an event of the outside, or an agent's step. -/
def oneStep (s : State) : Result :=
  if !s.pkg.power then
    (match s.agenda with
     | .coldBoot image :: rest => execColdBoot image { s with agenda := rest }
     | .warmReboot :: rest => execWarmReboot { s with agenda := rest }
     | _ => .fault .powerLost)
  else if s.core.pre.isSome then fetchAndRun (s.ctx.pc + 12) s
  else match s.agenda with
  | i :: rest => exec i { s with agenda := rest }
  | [] => agentStep s

/-! ### Placing an instruction -/

/-- The bytes of a word at the core's pc, as its store and its fetch see them. -/
def State.placeWord (w : Nat) (s : State) : State :=
  let a := s.ctx.pc.toNat
  let m := s.own.store a 12 w
  { s with
    core := { s.core with ifetch := s.core.ifetch.store a 12 w }
    cl := { s.cl with stores := vset s.cl.stores s.core.idx m } }

end Sys2Proof.Machine
end

