-- ==== Sys2Proof/Machine/Step.lean ====
section
/-! DEFINITION. One step of the machine, and the placing of an instruction where the next step fetches. -/

namespace Sys2Proof.Machine

/-- One step: of the core, of an engine or controller, or of the outside. -/
def step (s : State) : Host.Outcome State Fault Refusal := oneStep s

/-- The machine with an instruction word at its pc, a context running on the core with nothing pending, and the next turn the core's
where another step is possible (log entry 4): it stands for the loading and the dispatch of a task. -/
def State.withFetchWord (s : State) (_nbits w : Nat) : State :=
  let s := s.placeWord w
  let s := { s with
    ctx := { s.ctx with rep := none }
    core := { s.core with run := .running, pre := none, wait := none, chain := none, reqs := Requests.none }
    agenda := [], turns := [] }
  { s with turns := if s.steps.isEmpty then [] else [0] }

end Sys2Proof.Machine
end

