-- ==== Sys2Proof/Safety.lean ====
section
/-! DEFINITION. What a safe state and a safe run are, and when an instruction issues with its effect, in the words that claims
use. -/

namespace Sys2Proof.Machine

/-- Every memory of the machine keeps its canonical form: global memory and the other memories of the package, those of the cluster,
those of the context, and what the core has fetched. -/
def State.memoriesWf (s : State) : Bool :=
  s.pkg.mem.wf && s.pkg.ready.wf && s.pkg.flash.wf && s.pkg.beside.wf && s.pkg.hostMail.wf && s.cl.stores.all Memory.wf &&
    s.cl.spad.wf && s.cl.bstore.wf && s.cl.snaps.wf && s.ctx.tiles.acc.wf && s.ctx.cb2.wf && s.ctx.mq8.wf && s.core.ifetch.wf

/-- A control core always runs in kernel mode (R355). -/
def State.modeOk (s : State) : Bool := !s.core.control || s.core.k

/-- The machine stops at no fault and no refusal within `n` steps. -/
def safeFor : Nat → State → Bool
  | 0, _ => true
  | n + 1, s => match step s with | .next t => safeFor n t | _ => false

/-- The machine with the turns that are left once the first has been taken. -/
def State.onTurn (rest : List Nat) (s : State) : State := { s with turns := rest }

/-- The machine takes the core's turn, and the core issues: it has power, no prefix waits for its consumer, no step of the outside
comes first, no handover is due and no request intervenes, and the core leads or is in no chain. -/
def State.takesTurn (s : State) (rest : List Nat) : Prop :=
  s.pkg.power = true ∧ s.core.pre = none ∧ s.agenda = [] ∧ s.turns = 0 :: rest ∧ s.cl.gear.handover = none ∧
    (s.onTurn rest).gearDue = false ∧ (s.onTurn rest).async.isNone = true ∧ (s.onTurn rest).issues = true ∧ s.core.chain.all (·.leads) = true

/-- The instruction issues, and nothing before its effect stops it: the machine has power, no wait of the core has been served, no
outstanding access will write a register that it names (R81), no check of R34 fails, its guard holds (R18), and no register
or other word of its context that it reads holds an uncorrectable error (R207, R399). -/
def State.ready (s : State) (i : Instr) (f : Fields) : Bool :=
  s.pkg.power && !s.waitServed && !s.awaits (i.names f s) && (i.checks f (s.atIssue i f)).isNone &&
    f.guard (s.atIssue i f) && ((s.atIssue i f).badSource i f).isNone

/-- The machine after an instruction that falls through, where `t` is what its effect has left. -/
def State.after (s : State) (i : Instr) (f : Fields) (t : State) : State :=
  ((s.atIssue i f).completed i f t).retire f ((s.atIssue i f).ctx.pc + (s.atIssue i f).len) .seq

/-- The machine after an instruction that transfers to `pc`, where `t` is what its effect has left. -/
def State.afterJump (s : State) (i : Instr) (f : Fields) (pc : Word) (t : State) : State :=
  (((s.atIssue i f).heal i f t).refetch i).retire f pc .taken

/-- A vector source delivers `x` and leaves `t` (R28, R29): a stream's element is popped. -/
def State.delivers (s : State) (w : Nat) (o : Operand) (t : State) (x : Vec) : Prop :=
  match o.stream with
  | some q => s.pop q = .ok t x
  | none => t = s ∧ x = s.vsrc w o

/-- A vector destination takes the lanes `mask` of `x` after `lat` cycles, or interlocked, and leaves `t` (R29, R80, R109): a
stream's element is pushed. -/
def State.accepts (s : State) (lat : Option Nat) (o : Operand) (mask x : Vec) (t : State) : Prop :=
  match o.stream with
  | some q => ∃ y, s.push q mask x = .ok t y
  | none => t = (match lat with
    | some l => s.put l (.v (o.num.toNat - 64) mask x)
    | none => s.putLocked o.num (.v (o.num.toNat - 64) mask x))

/-- The wait of an instruction that its place has served with `v` (R247). -/
def State.servedWith (s : State) (v : Word) : Prop := s.pkg.power = true ∧ ∃ k g, s.core.wait = some ⟨k, some v, g⟩

/-- What every register holds once every issued instruction has completed (R20). -/
def State.settled (s : State) : Ctx := s.landAll.ctx

/-- The machine after an instruction whose wait its place had served with what its effect has left, `t` (R247). -/
def ended (i : Instr) (f : Fields) (s t : State) : State :=
  (s.completed i f t).retire f (s.ctx.pc + s.len) .seq

/-- A station accepts the access that `find` translates to `r`, once earlier pushes have been written (R14, R81, R149, R362): there
is room among the 16 outstanding accesses for one that returns data, every home is ready, and no earlier command has still to
read the bytes that the access may write: from each part on its own, and at least `span` (0 for a read). -/
def accepted (u : State) (returns : Bool) (span : Nat) (find : State → Except Trap Reached) (r : Reached) : Prop :=
  (returns = true → u.outstanding < 16) ∧ find u.drainStreams = .ok r ∧ u.drainStreams.homes r.homes = none ∧
    (span ≠ 0 → ∀ p ∈ r.parts, u.drainStreams.globalHeld p.pa (max p.n span) = false)

/-- The machine at its station: earlier pushes are written, and the station may keep the entries that it used. -/
def atStation (u : State) (r : Reached) : State := u.drainStreams.keep r.kept

/-- A global access that a station has accepted and no home has performed. -/
def access (s : State) (va : Word) (kind : GKind) (r : Reached) (ty : Option (BitVec 5)) (lw : Nat) (dest : Dest)
    (table : Memory) : GAccess :=
  { va, kind, parts := r.parts, ty, fmt := r.fmt, top := s.top, lw, rm := s.rmode, dest, table, next := 0, performed := false, got := []
    value := 0, flags := 0, bad := false }

end Sys2Proof.Machine
end

