-- ==== Sys2Proof/Certificates/Slice0/Obligations.lean ====
section
/-! DEFINITION. The statements for the provers. Most follow one pattern: an instruction that is ready (`State.ready`: it issues and
no check, wait or guard stops it) answers a next state, which the statement gives whole in the words of the shared
operations, so that it is a statement of the result, of the frame, and of completion at once. `s.atIssue i f` is the state in
which the instruction takes its effect: the machine itself, but for the time of an interlock or a bank cycle. -/

open Sys2Proof Sys2Proof.Machine

namespace Sys2Proof.Claims

/-- The instructions of Table 5-3 with their operations and result latencies (none: interlocked). -/
def intRows : List ((Fields → Instr) × AluOp × Option Nat) :=
  [(Instr.add, .add, some 1), (Instr.sub, .sub, some 1), (Instr.mul, .mul, some 3), (Instr.mulh, .mulh, some 3),
   (Instr.mulhu, .mulhu, some 3), (Instr.div, .div, none), (Instr.divu, .divu, none), (Instr.rem, .rem, none),
   (Instr.remu, .remu, none), (Instr.andOp, .and, some 1), (Instr.orOp, .or, some 1), (Instr.xor, .xor, some 1),
   (Instr.andn, .andn, some 1), (Instr.shl, .shl, some 1), (Instr.shr, .shr, some 1), (Instr.sar, .sar, some 1),
   (Instr.rotl, .rotl, some 1), (Instr.clz, .clz, some 1), (Instr.ctz, .ctz, some 1), (Instr.popc, .popc, some 1),
   (Instr.min, .min, some 1), (Instr.max, .max, some 1), (Instr.minu, .minu, some 1), (Instr.maxu, .maxu, some 1),
   (Instr.abs, .abs, some 1), (Instr.neg, .neg, some 1)]

/-- The float instructions that round once, with their operations and latencies. -/
def floatRows : List ((Fields → Instr) × FOp × Option Nat) :=
  [(Instr.fadd, .add, some 4), (Instr.fsub, .sub, some 4), (Instr.fmul, .mul, some 4), (Instr.ffma, .fma, some 4),
   (Instr.fdiv, .div, none), (Instr.fsqrt, .sqrt, none)]

/-- The vector integer instructions of Table 6-2. -/
def vectorRows : List ((Fields → Instr) × AluOp × Nat) :=
  [(Instr.vadd, .add, 1), (Instr.vsub, .sub, 1), (Instr.vmul, .mul, 3), (Instr.vmulh, .mulh, 3), (Instr.vmin, .min, 1),
   (Instr.vmax, .max, 1), (Instr.vand, .and, 1), (Instr.vor, .or, 1), (Instr.vxor, .xor, 1), (Instr.vshl, .shl, 1),
   (Instr.vshr, .shr, 1), (Instr.vsar, .sar, 1), (Instr.vabs, .abs, 1), (Instr.vneg, .neg, 1)]

/-- The vector float instructions of Table 6-3 that round once. -/
def vectorFloatRows : List ((Fields → Instr) × FOp × Option Nat) :=
  [(Instr.vfadd, .add, some 4), (Instr.vfsub, .sub, some 4), (Instr.vfmul, .mul, some 4), (Instr.vfma, .fma, some 4),
   (Instr.vfdiv, .div, none), (Instr.vfsqrt, .sqrt, none), (Instr.vfrsq, .rsqrt, none), (Instr.vfexp2, .exp2, none),
   (Instr.vflog2, .log2, none)]

/-- The atomics of Table 12-2. -/
def atomicRows : List ((Fields → Instr) × AtomOp) :=
  [(Instr.aadd, .add), (Instr.aand, .and), (Instr.aor, .or), (Instr.axor, .xor), (Instr.amin, .min), (Instr.amax, .max),
   (Instr.aminu, .minu), (Instr.amaxu, .maxu), (Instr.afadd, .fadd), (Instr.afmin, .fmin), (Instr.afmax, .fmax),
   (Instr.aswp, .swp), (Instr.acas, .cas)]

/-- The fields of an unguarded instruction without marks or stall. -/
def plain (sel : BitVec 2) (d a b : Operand) : Fields := ⟨false, 7, 0, false, false, false, false, sel, d, a, b⟩

/-- The step of an event from `s` to what it makes of it, `t`; a write that satisfies a watched word serves its wait (R241). -/
def happens (i : Instr) (s t : State) : Prop := exec i s = .next { t.latch with tick := t.tick + 1 }

end Sys2Proof.Claims

open Sys2Proof.Claims

/-! ### Encoding -/

/-- Words written out from Tables 2-1, 2-4, 2-6 and 2-8 decode to the instructions that they stand for: CMP, MWAIT, POST, GEAR.F,
STINV.VA, TRAP and KEST with register, immediate and control-word operands; an opcode that Table 2-8 does not assign gives
nothing. -/
def Obligations.DecodeWords : Prop :=
  decodeTableWord 96 0x085C01400022000001000002 = some (.cmp (plain 1 (.imm 0x22) (.reg 1) (.reg 2))) ∧
  decodeTableWord 96 0x9C1C00000003000015000009 = some (.mwait (plain 0 (.reg 3) (.reg 21) (.reg 9))) ∧
  decodeTableWord 96 0xC41C00000000402000000000 = some (.post (plain 0 (.reg 0) (.imm 0x2000) (.reg 0))) ∧
  decodeTableWord 96 0xC61C00000003000000000000 = some (.gearF (plain 0 (.reg 3) (.reg 0) (.reg 0))) ∧
  decodeTableWord 96 0xCDDC00000000000004000005 = some (.stinvVa (plain 0 (.reg 0) (.reg 4) (.reg 5))) ∧
  decodeTableWord 96 0xCC9C0000000040000D000005 = some (.trap (plain 0 (.reg 0) (.imm 0xD) (.reg 5))) ∧
  decodeTableWord 96 0x845C00000000000005000006 = some (.kest (plain 0 (.reg 0) (.reg 5) (.reg 6))) ∧
  decodeTableWord 96 0x08DC00000000000000000000 = none

/-- Decoding the word of a well-formed instruction gives that instruction, with every operand. -/
def Obligations.DecodeEncode : Prop := ∀ (i : Instr) (w : IWord), i.wf = true → encode i = some w → decodeWord w = .ok i

/-- Encoding what a word decodes to gives that word: no bit of a word is dropped. -/
def Obligations.EncodeDecode : Prop := ∀ (w : IWord) (i : Instr), decodeWord w = .ok i → encode i = some w

/-! ### The step -/

/-- When the machine takes the core's turn, its step is the core's instruction: where the bytes at the pc decode to an instruction
the step is that instruction's meaning, and where their opcode is reserved trap 0x01 is taken with the opcode (R35). -/
def Obligations.StepRunsDecoded : Prop :=
  ∀ (s : State) (rest : List Nat) (w : IWord), s.takesTurn rest → (s.onTurn rest).fetch s.ctx.pc = .ok w →
    (∀ i, decodeWord w = .ok i → step s = exec i (s.onTurn rest)) ∧
    (∀ op, decodeWord w = .error (.reserved op) → step s = .next ((s.onTurn rest).trap (0x01, op.zeroExtend 64)))

/-- A prefix that has been fetched is followed by its consumer: the word 12 bytes on decodes and runs, and nothing comes between
(R30, R31). PFX itself latches its fields and issues nothing, with no prefix before it and a word after it that can be fetched. -/
def Obligations.Prefixes : Prop :=
  (∀ (s : State) (p : Pfx) (w : IWord) (i : Instr),
    s.pkg.power = true → s.core.pre = some p → s.fetch (s.ctx.pc + 12) = .ok w → decodeWord w = .ok i → step s = exec i s) ∧
  (∀ (p : Pfx) (s : State) (w : IWord), s.pkg.power = true → s.core.pre = none → s.fetch (s.ctx.pc + 12) = .ok w →
    exec (.pfx p) s = .next { s with core := { s.core with pre := some p } })

/-- A fetch of a word that is misaligned, lies outside local store or, in user mode, reaches the kernel's bytes traps at the word's
address, 0x08 or 0x05: at pc in a step, and at pc + 12 for the word after a PFX; TRAPPC names the first word. Any other fetch gives
the 12 bytes of the core's own local store, where neither the repeat buffer, bytes written since the latest transfer nor a running copy
job serve it (R103, R17), and a word of zeros is `(p0) ADD.D s0, s0, s0` (R16). -/
def Obligations.FetchTraps : Prop :=
  (∀ s : State,
    let faults := fun (a : Word) (t : Trap) => (a.toNat % 4 ≠ 0 ∧ t = (0x08, a)) ∨
      (a.toNat % 4 = 0 ∧ (0x20000 < a.toNat + 12 ∨ s.core.k = false ∧ 0x1E000 < a.toNat + 12) ∧ t = (0x05, a))
    (∀ rest t, s.takesTurn rest → faults s.ctx.pc t → step s = .next ((s.onTurn rest).trap t)) ∧
    (∀ p t, s.pkg.power = true → s.core.pre = none → faults (s.ctx.pc + 12) t → exec (.pfx p) s = .next (s.trap t)) ∧
    (∀ (a : Word) (t : Trap), faults a t → (s.core.k && !s.core.saved) = false →
      (s.trap t).ctx.trap.pc = s.ctx.pc.extractLsb' 0 22) ∧
    (∀ a : Word, a.toNat % 4 = 0 → a.toNat + 12 ≤ (if s.core.k then 0x20000 else 0x1E000) →
      s.localBad .store a.toNat 12 = false → s.ctx.rep = none → s.core.ifetch = s.own →
      (∀ j ∈ s.cl.jobs, j.started = true → j.finished = true) →
      s.fetch a = .ok (BitVec.ofNat 96 (s.own.load a.toNat 12)))) ∧
  decodeTableWord 96 0 = some (.add { plain 0 (.reg 0) (.reg 0) (.reg 0) with pred := 0 })

/-! ### Reset and whole-machine rules -/

/-- What the rules state for reset: FMODE, RETIRED and CYCLE 0, HANDLER 0x01_E000, SUB 1 with gear F, the Kiln's configuration
and status 0, RAMP 128, KVLIM and KVFLOOR, LSCALE (INTERVAL 1000, EMAX 24, EMIN 0, E 16), KWGT, untagged cells, empty lines, full zeroed slices, STATE idle, no
context, readiness unknown. -/
def Obligations.ResetValues : Prop :=
  let s := State.reset
  s.sysRead 1 = 0 ∧ s.sysRead 2 = 0 ∧ s.sysRead 3 = 0 ∧ s.sysRead 4 = 0x100 ∧ s.sysRead 5 = 0 ∧ s.sysRead 0x0A = 0 ∧
    s.sysRead 0x0B = 0 ∧ s.sysRead 0x0C = 0 ∧ s.sysRead 0x0D = 0 ∧ s.sysRead 0x0E = 0 ∧ s.sysRead 0x0F = 0x3D800000 ∧
    s.sysRead 0x10 = 0x00800000 ∧ s.sysRead 0x11 = 0 ∧ s.sysRead 0x12 = 0x20000 ∧ s.sysRead 0x13 = 0 ∧ s.sysRead 0x14 = 0 ∧
    s.sysRead 0x15 = 0 ∧ s.sysRead 0x16 = 0x3E8180010 ∧ s.sysRead 0x17 = 0 ∧ s.sysRead 0x18 = 0x404 ∧ s.sysRead 0x101 = 0 ∧ s.sysRead 0x102 = 0 ∧
    s.sysRead 0x103 = 0 ∧ s.sysRead 0x104 = 0 ∧ s.sysRead 0x105 = 0 ∧ s.sysRead 0x106 = 0x1E000 ∧ s.sysRead 0x107 = 0 ∧ s.sysRead 0x108 = 0 ∧
    s.sysRead 0x109 = 0 ∧ s.sysRead 0x10A = 0 ∧ s.sysRead 0x10B = 0 ∧ s.sysRead 0x10C = 0 ∧ s.kilnStatus = 0 ∧
    s.ctx.tiles.cfg = 0 ∧ s.cl.tags = [] ∧ s.pkg.mem = [] ∧ s.pkg.empty = [] ∧ s.ctx.tx.status = 0 ∧ s.pkg.ready = [] ∧
    s.cl.bars = Vector.replicate 16 ⟨0, 0, 0⟩ ∧ s.cl.events = Vector.replicate 32 ⟨0, false, []⟩ ∧ s.core.run = .free

/-- The registers that the model gives a value at reset where the spec states none (log entry 1): zeros, but the stack pointer
and the masks of R107. -/
def Obligations.ResetRegisters : Prop :=
  (∀ n : BitVec 7, n ≠ 61 → n.toNat < 64 → State.reset.ctx.regs.scalar n = 0) ∧ State.reset.ctx.regs.scalar 61 = 0x1E000 ∧
    (∀ n : BitVec 7, 104 ≤ n.toNat → n.toNat ≤ 111 → State.reset.ctx.regs.scalar n = BitVec.allOnes 64) ∧
    State.reset.ctx.regs.pred 7 = true ∧ State.reset.memoriesWf = true ∧ State.reset.modeOk = true

/-- Every step keeps every memory in its canonical form. -/
def Obligations.StepKeepsMemories : Prop := ∀ s t : State, s.memoriesWf = true → step s = .next t → t.memoriesWf = true

/-- A control core stays in kernel mode, and no step changes what kind of core it is or its fused identity (R355, R106). -/
def Obligations.StepKeepsMode : Prop :=
  ∀ s t : State, s.modeOk = true → step s = .next t →
    t.modeOk = true ∧ t.core.control = s.core.control ∧ t.core.idx = s.core.idx ∧ t.core.die = s.core.die ∧ t.core.pcore = s.core.pcore

/-- The zero register reads zero, and a write of it changes nothing; p7 reads true, and a write of it is discarded (R26, R27,
R79). -/
def Obligations.HardWiredRegisters : Prop :=
  ∀ (s : State) (lat : Nat) (x : Word) (b : Bool),
    s.ctx.regs.scalar 112 = 0 ∧ s.putS lat 112 x = s ∧ s.putSLocked 112 x = s ∧ s.ctx.regs.pred 7 = true ∧
      s.ctx.land (.p 7 b) = s.ctx

/-- A byte of memory reads as it was last written, multi-byte values are little-endian, and a store leaves every byte outside
it (R2). -/
def Obligations.StoresReadBack : Prop :=
  ∀ (s : State) (pa n x : Nat), s.pkg.mem.wf = true → s.pkg.poison = [] →
    (s.homeStore pa n x).pkg.mem.load pa n = x % 256 ^ n ∧
      (∀ a, a < pa ∨ pa + n ≤ a → (s.homeStore pa n x).pkg.mem.read a = s.pkg.mem.read a) ∧
      (s.homeStore pa n x).pkg.mem.wf = true

/-! ### Exceptions -/

/-- Trap entry outside the double-trap case (R372): the issued instructions have completed; TRAPC, TRAPPC, TRAPVAL and PRIV.PK
are saved, the mode is kernel, the pc is HANDLER; with an uncorrectable error among the outstanding loads the trap is 0x11. -/
def Obligations.TrapEntry : Prop :=
  ∀ (s : State) (c val pc : Word), (s.core.k && !s.core.saved) = false →
    let t := s.enterTrap c val pc
    t.ctx.trap.pk = s.core.k ∧ t.ctx.trap.pc = pc.extractLsb' 0 22 ∧ t.core.k = true ∧
      t.ctx.pc = s.core.handler.zeroExtend 64 ∧ t.core.saved = false ∧ t.core.gq = [] ∧ t.core.pend = [] ∧
      (s.settle.2 = none → t.ctx.trap.c = c ∧ t.ctx.trap.val = val) ∧
      (∀ va, s.settle.2 = some va → t.ctx.trap.c = 0x11 ∧ t.ctx.trap.val = va) ∧
      t.ctx.retired = s.ctx.retired ∧ t.ctx.sys.pid = s.ctx.sys.pid ∧ t.core.handler = s.core.handler

/-- A trap in kernel mode before CTXSV has executed since the last trap entry is a double trap (R375). On a compute core it freezes the core
in place, with its state as the issued instructions have left it and the trap registers as they were, and the latest sherd record is of
kind 2; no handler runs, and it waits for Mboith. On a control core it is a kernel crash of reason 1: the domain's partitions are frozen, the
core is reset, and the latest sherd record is of kind 5. After CTXSV, a handler that traps enters HANDLER again. -/
def Obligations.DoubleTrap : Prop :=
  ∀ (s : State) (c val pc : Word),
    let t := s.enterTrap c val pc
    let last := t.pkg.sherd.getLast?.map fun e => (e.w.extractLsb' 56 8, e.w.extractLsb' 0 44)
    (s.core.k = true → s.core.saved = false → s.core.control = false →
      t.core.run = .frozen ∧ t.ctx.trap = s.ctx.trap ∧ t.ctx.pc = s.ctx.pc ∧ t.ctx = s.settle.1.withdraw.ctx ∧
        t.core = { s.settle.1.withdraw.core with run := .frozen, pre := none } ∧ last = some (2, pc.extractLsb' 0 44)) ∧
    (s.core.k = true → s.core.saved = false → s.core.control = true →
      t.pkg.frozen = true ∧ t.core.run = .free ∧ t.core.k = true ∧ t.ctx = Ctx.reset ∧ last = some (5, 1)) ∧
    (s.core.saved = true → t.ctx.pc = s.core.handler.zeroExtend 64 ∧ t.core.run = s.core.run)

/-- SYSC and BRK take trap 0x14 and 0x13 with the immediate in TRAPVAL, and TRAP a software trap with B's value (R369, R393,
R394): their entry is their effect, and as control transfers they order what is fetched after them (R17). -/
def Obligations.SoftwareTraps : Prop :=
  ∀ (f : Fields) (s : State),
    (s.ready (.sysc f) f = true → let u := s.atIssue (.sysc f) f
      exec (.sysc f) s = .next ((u.refetch (.sysc f)).trap (0x14, ((u.val f.opA).extractLsb' 0 16).zeroExtend 64))) ∧
    (s.ready (.brk f) f = true → let u := s.atIssue (.brk f) f
      exec (.brk f) s = .next ((u.refetch (.brk f)).trap (0x13, ((u.val f.opA).extractLsb' 0 16).zeroExtend 64))) ∧
    (s.ready (.trap f) f = true → let u := s.atIssue (.trap f) f
      (u.val f.opA).toNat ≠ 0x11 ∨ u.core.control = false ∨ u.core.k = false →
      exec (.trap f) s = .next ((u.refetch (.trap f)).trap (0x100 + (u.val f.opA).toNat, u.val f.opB)))

/-- ERET retires, counted in RETIRED, and restores the pc and the mode as one effect: pc := TRAPPC, K := PRIV.PK, and the step is armed
when STEP is 1; in user mode it raises the privilege trap 0x04 (R395). That K stays 1 on a control core is R355 as log entry 19 reads it
(DEDUCED): the model's reading, not R395's words. -/
def Obligations.ReturnFromTrap : Prop :=
  ∀ (f : Fields) (s : State),
    (s.ready (.eret f) f = true → ∃ t, exec (.eret f) s = .next t ∧ t.ctx.retired = s.ctx.retired + 1 ∧
      t.ctx.pc = s.ctx.trap.pc.zeroExtend 64 ∧ t.core.k = (s.ctx.trap.pk || s.core.control) ∧
      t.core.armed = s.core.dbgStep ∧ t.ctx.trap.pk = s.ctx.trap.pk ∧ t.ctx.trap.c = s.ctx.trap.c ∧ t.ctx.trap.val = s.ctx.trap.val) ∧
    (s.pkg.power = true → s.waitServed = false → s.awaits ((Instr.eret f).names f s) = false → s.core.k = false → s.core.pre = none →
      (Instr.eret f).badField f (s.atIssue (.eret f) f) = none →
      exec (.eret f) s = .next ((s.atIssue (.eret f) f).trap (0x04, 0x334)))

/-- In user mode ERET, CTXSV, CTXSV.CL, CTXLD, CTXLD.CL, STINV.VA, STINV.PID and STINV.ALL, and MFS and MTS of a system register of
0x100 to 0x1FF, take trap 0x04 and have no other effect, when no earlier check fails: with the opcode in TRAPVAL, and the number of
the system register above it; alone, and after a PFX that they admit and consume (R32, R355, R106). -/
def Obligations.PrivilegeTraps : Prop :=
  ∀ (i : Instr) (f : Fields) (s : State), i.fields = some f → s.pkg.power = true → s.waitServed = false →
    s.awaits (i.names f s) = false → s.core.k = false → let u := s.atIssue i f
      i.badField f u = none → (∀ p, s.core.pre = some p → p.check i.spec f = none ∧ p.consumed i.spec f = true) →
      (∀ op : BitVec 10, (i, op) ∈ [(Instr.eret f, 0x334#10), (Instr.ctxsv f, 0x335#10), (Instr.ctxsvCl f, 0x335#10),
          (Instr.ctxld f, 0x336#10), (Instr.ctxldCl f, 0x336#10), (Instr.stinvVa f, 0x337#10), (Instr.stinvPid f, 0x337#10),
          (Instr.stinvAll f, 0x337#10)] → exec i s = .next (u.trap (0x04, op.zeroExtend 64))) ∧
      (∀ n : BitVec 22, 0x100 ≤ n.toNat → n.toNat ≤ 0x1FF →
        (i = .mfs f → f.opA = .imm n → exec i s = .next (u.trap (0x04, (n.zeroExtend 64 <<< 20) ||| 0x330))) ∧
        (i ∈ [Instr.mts f, Instr.mtsRetired f, Instr.mtsCycle f, Instr.sensinjWrite f] → f.opD = .imm n →
          exec i s = .next (u.trap (0x04, (n.zeroExtend 64 <<< 20) ||| 0x331))))

/-- An instruction that is guarded off, by a predicate that is not held bad, has no effect but that it retires, and its encoding
checks are made all the same (R33): every instruction with fields, which is every one but PFX and the events of other agents. -/
def Obligations.GuardedOff : Prop :=
  ∀ (i : Instr) (f : Fields) (s : State), i.fields = some f → s.pkg.power = true → s.waitServed = false →
    s.awaits (i.names f s) = false → let u := s.atIssue i f
      (i.checks f u = none → f.guard u = false → u.badReg [predNum f.pred] = none →
        exec i s = .next (u.retire f (u.ctx.pc + u.len) .seq)) ∧
      (∀ t, i.checks f u = some t → exec i s = .next (u.trap t))

/-- What retiring does: RETIRED rises by one, the pc goes on, the prefix is spent, and of the registers nothing but what was due
is written; the trap registers, HANDLER, the mode, the system registers of the context but the watchdog and the stall counter that
time moves (LSCALE, LSSTAT, KSTEP, KZTH, PID, CTXBUF and the rest), the tiles, the CB2 and MQ8 tables, the transaction, the mailbox,
the streams and the claims keep their values. -/
def Obligations.RetireFrame : Prop :=
  ∀ (f : Fields) (pc : Word) (flow : Flow) (s : State),
    let t := s.retire f pc flow
    t.ctx.retired = s.ctx.retired + 1 ∧ t.core.pre = none ∧ (s.ctx.rep = none → t.ctx.pc = pc) ∧
      t.settled.regs = s.settled.regs ∧ t.settled.fmode = s.settled.fmode ∧ t.core.k = s.core.k ∧ t.ctx.trap = s.ctx.trap ∧
      t.ctx.tiles = s.ctx.tiles ∧ t.ctx.tx = s.ctx.tx ∧ t.ctx.mailbox = s.ctx.mailbox ∧ t.ctx.streams = s.ctx.streams ∧
      t.ctx.claims = s.ctx.claims ∧ t.ctx.cb2 = s.ctx.cb2 ∧ t.ctx.mq8 = s.ctx.mq8 ∧ t.core.handler = s.core.handler ∧
      t.ctx.sys = { s.ctx.sys with wdog := t.ctx.sys.wdog, stalls := t.ctx.sys.stalls } ∧ t.core.gq = s.core.gq ∧ t.core.kq = s.core.kq ∧ t.cl.spad = s.cl.spad ∧
      t.cl.bstore = s.cl.bstore ∧ t.cl.bars = s.cl.bars ∧ t.cl.mutexes = s.cl.mutexes ∧ t.cl.events = s.cl.events ∧
      t.pkg.mem = (s.countRetired f).pkg.mem ∧ t.cl.stores = (s.countRetired f).cl.stores

/-! ### Scalar instructions -/

/-- The instructions of Table 5-3 write their operation's result at the selector's width, zero-extended, after their latency (R84):
for every divisor but 0 of those that divide. -/
def Obligations.IntegerResults : Prop :=
  ∀ row ∈ intRows, ∀ (f : Fields) (s : State), s.ready (row.1 f) f = true →
    let u := s.atIssue (row.1 f) f
    let w := selWidth f.sel
    let a := (u.val f.opA).toNat % 2 ^ w
    let b := (u.val f.opB).toNat % 2 ^ w
    ¬(row.2.1.divides = true ∧ b = 0) →
      exec (row.1 f) s = .next (s.after (row.1 f) f
        (u.setS row.2.2 f.opD (BitVec.ofNat 64 (row.2.1.result u.sat w a b (u.val f.opB).toNat))))

/-- A zero divisor raises trap 0x0D with TRAPVAL = a, zero-extended, whether or not S is set, and nothing is written (R85). -/
def Obligations.DivisionByZero : Prop :=
  ∀ mk ∈ [Instr.div, Instr.divu, Instr.rem, Instr.remu], ∀ (f : Fields) (s : State), s.ready (mk f) f = true →
    let u := s.atIssue (mk f) f
    (u.val f.opB).toNat % 2 ^ selWidth f.sel = 0 →
      exec (mk f) s = .next (u.trap (0x0D, BitVec.ofNat 64 ((u.val f.opA).toNat % 2 ^ selWidth f.sel)))

/-- The operations of Table 5-3 on `w`-bit operands, without S, are the operations on bit vectors: sums, differences and products
modulo 2^w, the high halves of signed and unsigned products, quotients toward zero with their remainders, bitwise operations,
shifts and rotations, and signed and unsigned extrema. The conditions of Table 5-5 are equality and the two orders. -/
def Obligations.IntegerOperations : Prop :=
  (∀ (w : Nat) (a b : BitVec w) (k : Nat), 0 < w →
    let r := fun (op : AluOp) => op.result false w a.toNat b.toNat k
    r .add = (a + b).toNat ∧ r .sub = (a - b).toNat ∧ r .mul = (a * b).toNat ∧
      r .mulhu = a.toNat * b.toNat / 2 ^ w ∧ r .mulh = lowBits w (a.toInt * b.toInt / 2 ^ w) ∧
      r .and = (a &&& b).toNat ∧ r .or = (a ||| b).toNat ∧ r .xor = (a ^^^ b).toNat ∧ r .andn = (a &&& ~~~b).toNat ∧
      r .shl = (a <<< k).toNat ∧ r .shr = (a >>> k).toNat ∧ r .sar = (a.sshiftRight k).toNat ∧ r .rotl = (a.rotateLeft k).toNat ∧
      r .neg = (-a).toNat ∧ r .abs = a.abs.toNat ∧ r .min = (if a.slt b then a else b).toNat ∧
      r .max = (if a.slt b then b else a).toNat ∧ r .minu = min a.toNat b.toNat ∧ r .maxu = max a.toNat b.toNat ∧
      (b ≠ 0 → r .div = (a.sdiv b).toNat ∧ r .rem = (a.srem b).toNat ∧ r .divu = (a / b).toNat ∧ r .remu = (a % b).toNat)) ∧
  (∀ (w : Nat) (a b : BitVec w), 0 < w →
    let c := fun (code : Nat) => icond code w a.toNat b.toNat
    c 0 = (a == b) ∧ c 1 = (a != b) ∧ c 2 = a.slt b ∧ c 3 = !a.slt b ∧ c 4 = a.sle b ∧ c 5 = !a.sle b ∧ c 6 = a.ult b ∧
      c 7 = !a.ult b ∧ c 8 = a.ule b ∧ c 9 = !a.ule b)

/-- Under S the results of ADD, SUB, MUL, ABS, NEG and DIV are clamped to the signed range of the width: the exact value where it
fits, and else the nearer end. -/
def Obligations.SaturatedResults : Prop :=
  ∀ (op : AluOp) (w a b k : Nat), 0 < w → op.saturates = true →
    let x := op.exact w a b k
    let y := sx w (op.result true w a b k)
    (-(2 ^ (w - 1)) ≤ x → x ≤ 2 ^ (w - 1) - 1 → y = x) ∧ (x < -(2 ^ (w - 1)) → y = -(2 ^ (w - 1))) ∧
      (2 ^ (w - 1) - 1 < x → y = 2 ^ (w - 1) - 1)

/-- SEXT, ZEXT, BFX, BFI, LEA, MOV and SEL write their results (R86 to R88) after 1 cycle; LEA scales B by the selector's size in
bytes, and SEL chooses by the predicate that the selector names. CMP and PLOG write the predicate that D's control word names, by
its condition or truth table and its combine field, after 1 cycle (R89, R90). -/
def Obligations.ScalarMoves : Prop :=
  (∀ (f : Fields) (s : State),
    let done := fun (i : Instr) (x : State → Word) =>
      s.ready i f = true → exec i s = .next (s.after i f ((s.atIssue i f).setS (some 1) f.opD (x (s.atIssue i f))))
    let low := fun (u : State) => (u.val f.opA).toNat % 2 ^ selWidth f.sel
    done (.sext f) (fun u => BitVec.ofInt 64 (sx (selWidth f.sel) (low u))) ∧
    done (.zext f) (fun u => BitVec.ofNat 64 (low u)) ∧
    done (.bfx f) (fun u => bfxResult (u.val f.opA) (u.val f.opB)) ∧
    done (.bfi f) (fun u => bfiResult (u.val f.opD) (u.val f.opA) (u.val f.opB)) ∧
    done (.lea f) (fun u => u.val f.opA + u.val f.opB * BitVec.ofNat 64 (selWidth f.sel / 8)) ∧
    done (.mov f) (fun u => BitVec.ofNat 64 (low u)) ∧
    done (.sel f) (fun u => if u.ctx.regs.pred f.sel.toNat then u.val f.opA else u.val f.opB)) ∧
  (∀ (f : Fields) (s : State),
    (s.ready (.cmp f) f = true →
      let u := s.atIssue (.cmp f) f
      let c := u.val f.opD
      let w := selWidth f.sel
      exec (.cmp f) s = .next (s.after (.cmp f) f (u.setPred 1 c
        (icond (c.extractLsb' 4 4).toNat w ((u.val f.opA).toNat % 2 ^ w) ((u.val f.opB).toNat % 2 ^ w))))) ∧
    (s.ready (.plog f) f = true →
      let u := s.atIssue (.plog f) f
      let c := u.val f.opD
      exec (.plog f) s = .next (s.after (.plog f) f (u.setPred 1 c ((c.extractLsb' 4 4).getLsbD
        ((if u.ctx.regs.pred f.opA.num.toNat then 2 else 0) + (if u.ctx.regs.pred f.opB.num.toNat then 1 else 0)))))))

/-- The float instructions that round once: with no raised flag enabled, D holds the rounded result after the latency and the
flags are ORed into FMODE (R91, R68, R82); with one enabled, trap 0x0E is raised with the flags in TRAPVAL and nothing is
written. -/
def Obligations.FloatResults : Prop :=
  ∀ row ∈ floatRows, ∀ (f : Fields) (s : State), s.ready (row.1 f) f = true →
    let u := s.atIssue (row.1 f) f
    let r := row.2.1.result (fmtOfSel f.sel) u.mode u.sat (u.val f.opA).toNat (u.val f.opB).toNat (u.val f.opD).toNat
    (r.2 &&& u.enables = 0 → exec (row.1 f) s =
      .next (s.after (row.1 f) f ((u.setS row.2.2 f.opD (BitVec.ofNat 64 r.1)).raiseFlags row.2.2 r.2))) ∧
    (r.2 &&& u.enables ≠ 0 → exec (row.1 f) s = .next (u.trap (0x0E, r.2.zeroExtend 64)))

/-- FMIN, FMAX, FCVT, FCVTI, ICVTF and FCMP with no raised flag enabled (R92 to R95, R68); FCLASS writes one bit of ten, FABS clears
the sign bit and FNEG inverts it, without flags, after 1 cycle (R96). -/
def Obligations.FloatConversions : Prop :=
  (∀ (f : Fields) (s : State),
    let F := fmtOfSel f.sel
    let done := fun (i : Instr) (lat : Nat) (r : State → Nat × Flags) => s.ready i f = true →
      (r (s.atIssue i f)).2 &&& (s.atIssue i f).enables = 0 →
        exec i s = .next (s.after i f
          (((s.atIssue i f).setS (some lat) f.opD (BitVec.ofNat 64 (r (s.atIssue i f)).1)).raiseFlags (some lat) (r (s.atIssue i f)).2))
    done (.fmin f) 2 (fun u => F.minmax false false ((u.val f.opA).toNat % 2 ^ F.w) ((u.val f.opB).toNat % 2 ^ F.w)) ∧
    done (.fmax f) 2 (fun u => F.minmax false true ((u.val f.opA).toNat % 2 ^ F.w) ((u.val f.opB).toNat % 2 ^ F.w)) ∧
    done (.fcvt f) 3 (fun u => convertFloat ((u.val f.opB).extractLsb' 0 5).toNat ((u.val f.opB).extractLsb' 8 5).toNat u.top
      u.mode u.sat (u.val f.opA).toNat) ∧
    done (.fcvti f) 3 (fun u => let r := toInt u.mode (u.val f.opB).toNat (F.decode false (u.val f.opA).toNat)
      (lowBits 64 r.1, r.2)) ∧
    done (.icvtf f) 3 (fun u => F.deliver false u.mode false (exInt (readInt (u.val f.opB).toNat (u.val f.opA).toNat))) ∧
    (s.ready (.fcmp f) f = true →
      let u := s.atIssue (.fcmp f) f
      let c := u.val f.opD
      let r := fcond (c.extractLsb' 4 4).toNat (F.decode false (u.val f.opA).toNat) (F.decode false (u.val f.opB).toNat)
      r.2 &&& u.enables = 0 →
        exec (.fcmp f) s = .next (s.after (.fcmp f) f ((u.setPred 2 c r.1).raiseFlags (some 2) r.2)))) ∧
  (∀ (f : Fields) (s : State),
    let F := fmtOfSel f.sel
    let done := fun (i : Instr) (x : State → Nat) =>
      s.ready i f = true → exec i s =
        .next (s.after i f ((s.atIssue i f).setS (some 1) f.opD (BitVec.ofNat 64 (x (s.atIssue i f)))))
    done (.fclass f) (fun u => 2 ^ F.classBit (u.val f.opA).toNat) ∧
    done (.fabs f) (fun u => (u.val f.opA).toNat % 2 ^ (F.w - 1)) ∧
    done (.fneg f) (fun u => (u.val f.opA).toNat % 2 ^ F.w ^^^ 2 ^ (F.w - 1)))

/-- What a scalar instruction that completes leaves: every register but D as it will stand once all that issued before has
completed, the trap registers, the mode, the streams, accumulators and other registers of the context, and, without a B mark,
every byte of memory; what a B mark writes is its counter and its record, at some cycle. It holds for the integer instructions,
the float ones and MFS; MFS of MBXS leaves them as they are once the earlier loads have been performed. That it completes is said
by RETIRED, which a control core's crash (R400) leaves 0. -/
def Obligations.ScalarFrame : Prop :=
  ∀ (f : Fields) (s t : State) (mk : Fields → Instr),
    mk ∈ intRows.map (·.1) ++ floatRows.map (·.1) ++ [Instr.sext, Instr.zext, Instr.bfx, Instr.bfi, Instr.lea, Instr.mov,
      Instr.sel, Instr.fmin, Instr.fmax, Instr.fcvt, Instr.fcvti, Instr.icvtf, Instr.fclass, Instr.fabs, Instr.fneg, Instr.mfs] →
    s.ready (mk f) f = true → exec (mk f) s = .next t → t.ctx.retired = s.ctx.retired + 1 →
      (s.core.control = true → s.ctx.retired + 1 ≠ 0) →
      let u := s.atIssue (mk f) f
      let mbxs := mk f = .mfs f ∧ (u.val f.opA).toNat = 0x13
      let a := if mbxs then u.caughtUp else s
      (∀ n : BitVec 7, f.opD.num ≠ n → t.settled.regs.scalar n = a.settled.regs.scalar n) ∧
      t.settled.regs.v = a.settled.regs.v ∧ (∀ n, t.settled.regs.pred n = a.settled.regs.pred n) ∧
      (∀ i : Nat, i < 8 ∨ 12 < i → t.settled.fmode.getLsbD i = a.settled.fmode.getLsbD i) ∧
      t.ctx.trap = a.ctx.trap ∧ t.core.k = a.core.k ∧ t.core.handler = a.core.handler ∧ t.ctx.streams = a.ctx.streams ∧
      t.ctx.tiles = a.ctx.tiles ∧ t.ctx.tx = a.ctx.tx ∧ t.ctx.mailbox = a.ctx.mailbox ∧ t.ctx.sys.pid = a.ctx.sys.pid ∧
      t.ctx.sys.ctxbuf = a.ctx.sys.ctxbuf ∧ t.cl.spad = a.cl.spad ∧ t.cl.bstore = a.cl.bstore ∧
      (a.marksBlock f = false → t.pkg.mem = a.pkg.mem ∧ t.cl.stores = a.cl.stores) ∧
      ∃ c : Nat, let b := if mbxs then a else u
        let r := ({ b with pkg := { b.pkg with cycle := c } } : State).countRetired f
        t.pkg.mem = r.pkg.mem ∧ t.cl.stores = r.cl.stores


/-! ### Memory and transfers -/

/-- LDL from local store, scratchpad, mailbox window or readiness map writes the little-endian value of its bytes, zero-extended,
after 3 cycles, 6 cycles or interlocked (R98), once the buffered pushes are written (R133) and what reads before is performed. -/
def Obligations.LocalLoads : Prop :=
  ∀ (f : Fields) (s : State) (pl : LPlace), s.ready (.ldl f) f = true →
    let u := s.atIssue (.ldl f) f
    let ea := u.val f.opA + u.val f.opB
    let m := u.caughtUp
    u.localAccess ea (selBytes f.sel) false = .ok pl → pl ≠ .event → pl ≠ .spad ∨ m.isShadow = false →
      exec (.ldl f) s = .next (s.after (.ldl f) f
        (m.setS (loadLatency pl) f.opD
          (BitVec.ofNat 64 (m.lread pl ea.toNat (selBytes f.sel)))))

/-- STL stores the low bytes of D at A + B (R98), and every other byte of every local store and of the scratchpad reads as before;
global memory, the registers and the event unit are unchanged. -/
def Obligations.LocalStores : Prop :=
  ∀ (f : Fields) (s : State) (pl : LPlace), s.ready (.stl f) f = true →
    let u := s.atIssue (.stl f) f
    let ea := u.val f.opA + u.val f.opB
    let n := selBytes f.sel
    let m := u.caughtUp
    let w := m.dataWrite pl ea.toNat n ((u.val f.opD).toNat % 2 ^ (8 * n))
    u.localAccess ea n true = .ok pl → pl ≠ .event → m.storeHeld pl ea.toNat n = false →
      exec (.stl f) s = .next (s.after (.stl f) f w) ∧
      (m.isShadow = false → m.memoriesWf = true → m.core.idx < 8 →
        (if pl = .store then w.own else w.cl.spad).load ea.toNat n = (u.val f.opD).toNat % 2 ^ (8 * n)) ∧
      (m.memoriesWf = true → ∀ (c a : Nat), (pl ≠ .store ∨ c ≠ m.core.idx ∨ a < ea.toNat ∨ ea.toNat + n ≤ a) →
        (vget w.cl.stores c []).read a = (vget m.cl.stores c []).read a) ∧
      (m.memoriesWf = true → ∀ a : Nat, (pl ≠ .spad ∨ a < ea.toNat ∨ ea.toNat + n ≤ a) → w.cl.spad.read a = m.cl.spad.read a) ∧
      w.pkg = m.pkg ∧ w.ctx.regs = m.ctx.regs ∧ w.ctx.fmode = m.ctx.fmode ∧ w.cl.bars = m.cl.bars ∧
      w.cl.mutexes = m.cl.mutexes ∧ w.cl.events = m.cl.events ∧ w.cl.bstore = m.cl.bstore

/-- LDG and STG (R99): a load that its station accepts joins the outstanding accesses, with its destination; a store's data are
encoded, its flags checked and ORed, and it joins them as well. -/
def Obligations.ScalarGlobal : Prop :=
  ∀ (f : Fields) (s : State) (r : Reached),
    (s.ready (.ldg f) f = true →
      let u := s.atIssue (.ldg f) f
      let ea := u.val f.opA + (u.globalOffset f.opB).1
      let typed := (u.globalOffset f.opB).2
      let ty := if typed then some (selType f.sel) else none
      let v := atStation u r
      accepted u true 0 (scalarReached .read f ea typed) r → v.isShadow = false →
        (v.enables = 0 ∨ typed = false ∨ r.fmt = 0x1F ∨ r.fmt = selType f.sel) →
        exec (.ldg f) s = .next (s.after (.ldg f) f
          (v.enqueue (access v ea .load r ty 64 (scalarDest f.opD) (v.tableFor r.fmt))))) ∧
    (s.ready (.stg f) f = true →
      let u := s.atIssue (.stg f) f
      let ea := u.val f.opA + (u.globalOffset f.opB).1
      let typed := (u.globalOffset f.opB).2
      let ty := if typed then some (selType f.sel) else none
      let x := (u.val f.opD).toNat % 2 ^ (if typed then 64 else 8 * selBytes f.sel)
      let v := atStation u r
      let d := storeParts ty r.fmt v.top v.rmode (fun _ => x) r.parts
      accepted u false 1 (scalarReached .write f ea typed) r → d.2 &&& v.enables = 0 →
        exec (.stg f) s = .next (s.after (.stg f) f ((acceptStore ea d.1 v).raiseFlags (some 1) d.2)))

/-- BR, CALL, RET, JMP and LOOP (R101, R102): a transfer goes to its target, an immediate one counted from the instruction's first
word; CALL leaves pc + 12 in s62, and LOOP falls through when its decremented count is 0. A register's target at or above
0x40_0000 traps 0x05. -/
def Obligations.Transfers : Prop :=
  ∀ (f : Fields) (s : State),
    (s.ready (.br f) f = true → let u := s.atIssue (.br f) f
      exec (.br f) s = .next (s.afterJump (.br f) f (u.target f.opA) u)) ∧
    (s.ready (.call f) f = true → let u := s.atIssue (.call f) f
      ((∀ n, f.opA ≠ .reg n) ∨ (u.target f.opA).toNat < 0x400000 →
        exec (.call f) s = .next (s.afterJump (.call f) f (u.target f.opA) (u.put 1 (.s 62 (u.ctx.pc + 12))))) ∧
      (∀ n, f.opA = .reg n → 0x400000 ≤ (u.val f.opA).toNat → exec (.call f) s = .next (u.trap (0x05, u.val f.opA)))) ∧
    (s.ready (.ret f) f = true → let u := s.atIssue (.ret f) f
      let t := u.ctx.regs.scalar 62
      (t.toNat < 0x400000 → exec (.ret f) s = .next (s.afterJump (.ret f) f t u)) ∧
      (0x400000 ≤ t.toNat → exec (.ret f) s = .next (u.trap (0x05, t)))) ∧
    (s.ready (.jmp f) f = true → let u := s.atIssue (.jmp f) f
      let t := u.target f.opA
      (t.toNat < 0x400000 → exec (.jmp f) s = .next (s.afterJump (.jmp f) f t u)) ∧
      (0x400000 ≤ t.toNat → exec (.jmp f) s = .next (u.trap (0x05, t)))) ∧
    (s.ready (.loop f) f = true → let u := s.atIssue (.loop f) f
      let w := selWidth f.sel
      let d := ((u.val f.opD).toNat % 2 ^ w + (2 ^ w - 1)) % 2 ^ w
      let v := u.setS (some 1) f.opD (BitVec.ofNat 64 d)
      (d = 0 → exec (.loop f) s = .next (s.after (.loop f) f v)) ∧
      (d ≠ 0 → exec (.loop f) s = .next (s.afterJump (.loop f) f (u.target f.opA) v)))

/-- REP fetches its body whole, and enters it with its count, or goes on after it with a count of 0 (R103); a follower is forwarded
the body, and repeats its leader's count (R322). Two clauses rest on the model's own readings: that a count of 0 goes on as a taken transfer
is log entry 26 (DEDUCED), and that a follower's count is a free value and its body its own words is log entry 20 (DEDUCED). NOP has no effect (R105), and PREF none but that its station may keep the
translation (R100). -/
def Obligations.RepeatAndIdle : Prop :=
  ∀ (f : Fields) (s : State),
    (s.ready (.rep f) f = true → ∀ ws,
      let u := s.atIssue (.rep f) f
      let body := u.ctx.pc + 12
      let n := (u.val f.opB).toNat
      let repeated := fun (count : BitVec 32) (ws : List IWord) =>
        (count = 0 → exec (.rep f) s = .next (s.afterJump (.rep f) f (body + 12 * BitVec.ofNat 64 ws.length) u)) ∧
        (count ≠ 0 → exec (.rep f) s = .next
          ((State.refetch (.rep f) { u with ctx := { u.ctx with rep := some ⟨body.extractLsb' 0 22, 0, count, n, ws⟩ } }).retire f
            (u.ctx.pc + u.len) .enter))
      (u.follows = false → u.repWords n body = .ok ws → repeated ((u.val f.opA).extractLsb' 0 32) ws) ∧
        (u.follows = true → repeated (Config.forwardedCount u.tick) (u.own.bodyWords n body.toNat))) ∧
    (s.ready (.nop f) f = true → exec (.nop f) s = .next (s.after (.nop f) f (s.atIssue (.nop f) f))) ∧
    (s.ready (.pref f) f = true → ∃ ks, exec (.pref f) s = .next (s.after (.pref f) f ((s.atIssue (.pref f) f).keep ks)))

/-! ### Vector instructions -/

/-- The integer instructions of Table 6-2 write Table 5-3's operation in every active lane, the count being B's lane (R111); what a
lane of the result holds is that number, and an inactive lane keeps its bits (R109). VCMP, VSEL and VCLAMP (R112, R113). -/
def Obligations.VectorIntegers : Prop :=
  (∀ row ∈ vectorRows, ∀ (f : Fields) (s v m t : State) (x y : Vec), s.ready (row.1 f) f = true →
    let u := s.atIssue (row.1 f) f
    let w := selWidth f.sel
    u.delivers w f.opA v x → v.delivers w f.opB m y →
      m.accepts (some row.2.2) f.opD (laneMask w (u.act f))
        (ofLanes w fun i => row.2.1.result u.sat w (lane x i w) (lane y i w) (lane y i w)) t →
      exec (row.1 f) s = .next (s.after (row.1 f) f t)) ∧
  (∀ (f : Fields) (s v m t : State) (x y : Vec), let w := selWidth f.sel
    (s.ready (.vcmp f) f = true → let u := s.atIssue (.vcmp f) f
      let c := u.val f.opD
      u.delivers w f.opA v x → v.delivers w f.opB m y →
        exec (.vcmp f) s = .next (s.after (.vcmp f) f (m.setMask 1 c (512 / w) (u.act f) fun i =>
          icond (c.extractLsb' 4 4).toNat w (lane x i w) (lane y i w)))) ∧
    (s.ready (.vsel f) f = true → let u := s.atIssue (.vsel f) f
      u.delivers w f.opB m y → f.opD.stream = none →
        m.accepts (some 1) f.opD (laneMask w fun i => u.act f i && (u.val f.opA).getLsbD i) y t →
        exec (.vsel f) s = .next (s.after (.vsel f) f t)) ∧
    (s.ready (.vclamp f) f = true → let u := s.atIssue (.vclamp f) f
      u.delivers w f.opA v x → v.delivers w f.opB m y → f.opD.stream = none →
        m.accepts (some 1) f.opD (laneMask w (u.act f)) (ofLanes w fun i => lowBits w
          (min (max (sx w (lane (u.vold f.opD) i w)) (sx w (lane x i w))) (sx w (lane y i w)))) t →
        exec (.vclamp f) s = .next (s.after (.vclamp f) f t)))

/-- Lanes: lane i of a vector made of lanes is what was put there, a mask of lanes keeps the others, and there are 512 / w of them
(Table 2-9, R109). -/
def Obligations.LaneResults : Prop :=
  ∀ w ∈ [8, 16, 32, 64], ∀ (g : Nat → Nat) (act : Nat → Bool) (old : Vec) (i : Nat), i < 512 / w →
    lane (ofLanes w g) i w = g i % 2 ^ w ∧
      lane ((old &&& ~~~(laneMask w act)) ||| (ofLanes w g &&& laneMask w act)) i w =
        if act i then g i % 2 ^ w else lane old i w

/-- The float instructions of Table 6-3, VFMIN, VFMAX and VFCMP in the active lanes, with their flags merged, when no raised flag
is enabled (R109, R114, R115, R68). -/
def Obligations.VectorFloats : Prop :=
  (∀ row ∈ vectorFloatRows, ∀ (f : Fields) (s v m t : State) (x y : Vec), s.ready (row.1 f) f = true →
    let u := s.atIssue (row.1 f) f
    let F := fmtOfSel f.sel
    let r := flagLanes F.w (u.act f) fun i =>
      row.2.1.result F u.mode u.sat (lane x i F.w) (lane y i F.w) (lane (u.vold f.opD) i F.w)
    u.delivers F.w f.opA v x → v.delivers F.w f.opB m y → (row.2.1 = .fma → f.opD.stream = none) → r.2 &&& m.enables = 0 →
      m.accepts row.2.2 f.opD (laneMask F.w (u.act f)) r.1 t →
      exec (row.1 f) s = .next (s.after (row.1 f) f (t.raiseFlags row.2.2 r.2))) ∧
  (∀ row ∈ [(Instr.vfmin, false), (Instr.vfmax, true)], ∀ (f : Fields) (s v m t : State) (x y : Vec), s.ready (row.1 f) f = true →
    let u := s.atIssue (row.1 f) f
    let F := fmtOfSel f.sel
    let r := flagLanes F.w (u.act f) fun i => F.minmax false row.2 (lane x i F.w) (lane y i F.w)
    u.delivers F.w f.opA v x → v.delivers F.w f.opB m y → r.2 &&& m.enables = 0 →
      m.accepts (some 2) f.opD (laneMask F.w (u.act f)) r.1 t →
      exec (row.1 f) s = .next (s.after (row.1 f) f (t.raiseFlags (some 2) r.2))) ∧
  (∀ (f : Fields) (s v m : State) (x y : Vec), s.ready (.vfcmp f) f = true →
    let u := s.atIssue (.vfcmp f) f
    let F := fmtOfSel f.sel
    let c := u.val f.opD
    let r := fun i => fcond (c.extractLsb' 4 4).toNat (F.decode false (lane x i F.w)) (F.decode false (lane y i F.w))
    let fl := (flagLanes F.w (u.act f) fun i => (0, (r i).2)).2
    u.delivers F.w f.opA v x → v.delivers F.w f.opB m y → fl &&& u.enables = 0 →
      exec (.vfcmp f) s = .next (s.after (.vfcmp f) f
        ((m.setMask 2 c (512 / F.w) (u.act f) fun i => (r i).1).raiseFlags (some 2) fl)))

/-- VCVT, VPACK, VUNPK, VSHUF, VBCAST, VEXTR and VINS (R116 to R118). -/
def Obligations.VectorMoves : Prop :=
  ∀ (f : Fields) (s v m t : State) (x y : Vec), let w := selWidth f.sel
    (s.ready (.vcvt f) f = true → let u := s.atIssue (.vcvt f) f
      let c := u.val f.opB
      let src := c.extractLsb' 0 5
      let dst := c.extractLsb' 8 5
      let h := (c.extractLsb' 16 3).toNat
      let n := 512 / max (codeWidth src) (codeWidth dst)
      let narrows := codeWidth dst < codeWidth src
      let act := fun i => u.act f i && if narrows then h * n ≤ i && i < h * n + n else i < n
      let r := flagLanes (codeWidth dst) act fun i => convertElem src dst u.top u.mode u.sat
        (lane x (if narrows then i - h * n else if codeWidth src < codeWidth dst then h * n + i else i) (codeWidth src))
      u.delivers (codeWidth src) f.opA v x → v.delivers (codeWidth src) f.opB m y → f.opD.stream = none → r.2 &&& m.enables = 0 →
        m.accepts (some 3) f.opD (laneMask (codeWidth dst) act) r.1 t →
        exec (.vcvt f) s = .next (s.after (.vcvt f) f (t.raiseFlags (some 3) r.2))) ∧
    (s.ready (.vpack f) f = true → let u := s.atIssue (.vpack f) f
      let half := 512 / w / 2
      u.delivers (2 * w) f.opA v x → v.delivers (2 * w) f.opB m y →
        m.accepts (some 1) f.opD (laneMask w (u.act f)) (ofLanes w fun j =>
          let e := if j < half then lane x j (2 * w) else lane y (j - half) (2 * w)
          lowBits w (if u.sat then satInt w (sx (2 * w) e) else (e : Int))) t →
        exec (.vpack f) s = .next (s.after (.vpack f) f t)) ∧
    (s.ready (.vunpk f) f = true → let u := s.atIssue (.vunpk f) f
      let b := u.val f.opB
      let h := if b.getLsbD 0 then 512 / w else 0
      u.delivers (w / 2) f.opA v x → v.delivers (w / 2) f.opB m y →
        m.accepts (some 1) f.opD (laneMask w (u.act f)) (ofLanes w fun j =>
          if b.getLsbD 1 then lane x (h + j) (w / 2) else lowBits w (sx (w / 2) (lane x (h + j) (w / 2)))) t →
        exec (.vunpk f) s = .next (s.after (.vunpk f) f t)) ∧
    (s.ready (.vshuf f) f = true → let u := s.atIssue (.vshuf f) f
      u.delivers w f.opA v x → v.delivers w f.opB m y →
        m.accepts (some 2) f.opD (laneMask w (u.act f))
          (ofLanes w fun i => if lane y i w < 512 / w then lane x (lane y i w) w else 0) t →
        exec (.vshuf f) s = .next (s.after (.vshuf f) f t)) ∧
    (s.ready (.vbcast f) f = true → let u := s.atIssue (.vbcast f) f
      u.delivers w f.opA m x → m.accepts (some 1) f.opD (laneMask w (u.act f)) (ofLanes w fun _ => lane x (u.index f) w) t →
        exec (.vbcast f) s = .next (s.after (.vbcast f) f t)) ∧
    (s.ready (.vextr f) f = true → let u := s.atIssue (.vextr f) f
      u.delivers w f.opA m x →
        exec (.vextr f) s = .next (s.after (.vextr f) f (m.setS (some 1) f.opD (BitVec.ofNat 64 (lane x (u.index f) w))))) ∧
    (s.ready (.vins f) f = true → let u := s.atIssue (.vins f) f
      u.accepts (some 1) f.opD (laneMask w fun i => i == u.index f && u.act f i) (broadcast w (u.val f.opA)) t →
        exec (.vins f) s = .next (s.after (.vins f) f t))

/-- VRED writes the tree's result, interlocked, and VSCAN the prefix combinations in lane order (R119); VQNT, VDQNT, VCBD and VCBD.LT
(R120, R121), and LSUPD, which writes LSCALE, LSSTAT and KSTEP with its result (R123). -/
def Obligations.ReductionsAndTables : Prop :=
  ∀ (f : Fields) (s m t : State) (x : Vec),
    (s.ready (.vred f) f = true → let u := s.atIssue (.vred f) f
      let r := redTree (redCombine (redOpWidth f u).1 f u.mode) 6 (redLanes f u x) 0
      u.delivers (redOpWidth f u).2 f.opA m x → r.2 &&& u.enables = 0 →
        let v := m.setS none f.opD (BitVec.ofNat 64 r.1)
        exec (.vred f) s = .next (s.after (.vred f) f (if 8 ≤ (redOpWidth f u).1 then v.raiseFlags none r.2 else v))) ∧
    (s.ready (.vscan f) f = true → let u := s.atIssue (.vscan f) f
      let w := (redOpWidth f u).2
      let xs := redLanes f u x
      let r := scanFrom (redCombine (redOpWidth f u).1 f u.mode) (xs.headD 0) xs.tail
      let y := ofLanes w fun i => ((xs.headD 0 :: r.1)[i]?).getD 0
      u.delivers w f.opA m x → r.2 &&& m.enables = 0 →
        m.accepts none f.opD (laneMask w (u.act f)) y t →
        exec (.vscan f) s = .next (s.after (.vscan f) f (if 8 ≤ (redOpWidth f u).1 then t.raiseFlags none r.2 else t))) ∧
    (s.ready (.vqnt f) f = true → let u := s.atIssue (.vqnt f) f
      let q := f.sel.toNat
      let act := fun i => u.act f i && 16 * q ≤ i && i < 16 * q + 16
      let r := flagLanes 8 act fun i => quantise u.ctx.mq8 (lane x (i - 16 * q) 32) ((u.val f.opB).toNat % 2 ^ 32)
      u.delivers 32 f.opA m x → f.opD.stream = none → r.2 &&& m.enables = 0 →
        m.accepts none f.opD (laneMask 8 act) r.1 t →
        exec (.vqnt f) s = .next (s.after (.vqnt f) f (t.raiseFlags none r.2))) ∧
    (s.ready (.vdqnt f) f = true → let u := s.atIssue (.vdqnt f) f
      let r := flagLanes 32 (u.act f) fun i => fp32.deliver false .rne false
        (exMul (codeEntry u.ctx.mq8 (lane x (16 * f.sel.toNat + i) 8)) (d32 ((u.val f.opB).toNat % 2 ^ 32)))
      u.delivers 8 f.opA m x → r.2 &&& m.enables = 0 →
        m.accepts (some 4) f.opD (laneMask 32 (u.act f)) r.1 t →
        exec (.vdqnt f) s = .next (s.after (.vdqnt f) f (t.raiseFlags (some 4) r.2))) ∧
    (s.ready (.vcbd f) f = true → let u := s.atIssue (.vcbd f) f
      let b := u.val f.opB
      let r := flagLanes 16 (u.act f) fun j =>
        let i := lane x (4 * (b.extractLsb' 16 3).toNat + j / 8) 16
        bf16.deliver false u.mode u.sat
          (cb2Ex (u.ctx.cb2.load (4 * (i / 256)) 4) i (j % 8) (bf16.decode false (b.toNat % 65536)))
      u.delivers 16 f.opA m x → r.2 &&& m.enables = 0 →
        m.accepts (some 3) f.opD (laneMask 16 (u.act f)) r.1 t →
        exec (.vcbd f) s = .next (s.after (.vcbd f) f (t.raiseFlags (some 3) r.2))) ∧
    (s.ready (.vcbdLt f) f = true → let u := s.atIssue (.vcbdLt f) f
      let n := (u.val f.opA).toNat
      let inStore := n + 1024 ≤ (if u.core.k then 0x20000 else 0x1E000)
      let pl := if inStore then LPlace.store else .spad
      n % 64 = 0 → inStore ∨ (0x100000 ≤ n ∧ n + 1024 ≤ 0x300000) → u.footprint pl n 1024 false = none →
        u.localBad pl n 1024 = false →
        let v := u.caughtUp
        let tab := (if inStore then v.own else v.cl.spad).slice n (n + 1024)
        exec (.vcbdLt f) s = .next (s.after (.vcbdLt f) f
          (if v.val f.opB = 0 then { v with ctx := { v.ctx with cb2 := tab } } else { v with ctx := { v.ctx with mq8 := tab } }))) ∧
    (s.ready (.lsupd f) f = true → let u := s.atIssue (.lsupd f) f
      let y := u.ctx.sys
      let r := lsupdate (u.val f.opA != 0) y.lscale y.lsstat y.kstep
      exec (.lsupd f) s = .next (s.after (.lsupd f) f
        (({ u with ctx := { u.ctx with sys := { y with lscale := r.1, lsstat := r.2.1, kstep := r.2.2.1 } } } : State).setS
          none f.opD r.2.2.2)))

/-- VLDL reads its active lanes when every one has passed its checks, and writes them into D: in 3 cycles from local store, in 6 where a
lane lies in the scratchpad (R124), and interlocked, in 3 or 6 + c - 1, for the transposed form with at most c lines in one bank
(R125). VSTL writes its active lanes, of a vector register, a broadcast value or a stream's element, and nothing else; a lane that
fails its checks stops both with its trap, and no lane is written (R124). Lanes are read and written in lane order, event by event
(R203, R211), and where no other agent's event can come they are what stands there, and are written as they stand. -/
def Obligations.VectorLocal : Prop :=
  ∀ (f : Fields) (s : State), let w := selWidth f.sel
    (s.ready (.vldl f) f = true → let u := s.atIssue (.vldl f) f
      let lf := u.localForm f
      let lanes := u.activeLanes f w fun i => lf.1 + BitVec.ofNat 64 i * lf.2.1
      let m := (u.caughtUp.readLanes (w / 8) lanes).1
      let x := packLanes w (u.caughtUp.readLanes (w / 8) lanes).2
      let spad := anySpad (w / 8) lanes
      let lines := ((lanes.filter fun l => 0x100000 ≤ l.2.toNat).map (·.2.toNat / 64)).eraseDups
      let write := RegWrite.v (f.opD.num.toNat - 64) x.2 x.1
      (0x400000 ≤ lf.1.toNat → exec (.vldl f) s = .next (u.trap (0x05, lf.1))) ∧
      (∀ t, lf.1.toNat < 0x400000 → u.laneChecks (w / 8) false lanes = some t → exec (.vldl f) s = .next (u.trap t)) ∧
      (lf.1.toNat < 0x400000 → u.laneChecks (w / 8) false lanes = none → spad = false ∨ m.isShadow = false →
        (u.caughtUp.alone = true → m = u.caughtUp ∧ x = packLanes w (lanes.map fun l => (l.1, m.laneRead (w / 8) l.2))) ∧
        (lf.2.2 = false → exec (.vldl f) s = .next (s.after (.vldl f) f (m.put (if spad then 6 else 3) write))) ∧
        (lf.2.2 = true → exec (.vldl f) s = .next (s.after (.vldl f) f
          (m.putIn (if spad then 6 + bankDepth lines - 1 else 3) true write))))) ∧
    (s.ready (.vstl f) f = true → let u := s.atIssue (.vstl f) f
      let lf := u.localForm f
      let lanes := u.activeLanes f w fun i => lf.1 + BitVec.ofNat 64 i * lf.2.1
      let free := fun (m : State) => (lanes.any fun l => (lplace l.2.toNat (w / 8)).any fun pl => m.storeHeld pl l.2.toNat (w / 8)) = false
      let stored := fun (m : State) (x : Vec) => m.caughtUp.writeLanes w x lanes
      (f.opD.stream = none → lf.1.toNat < 0x400000 → u.laneChecks (w / 8) true lanes = none → free u →
        exec (.vstl f) s = .next (s.after (.vstl f) f (stored u (u.vsrc w f.opD)))) ∧
      (∀ m x, u.delivers w f.opD m x → lf.1.toNat < 0x400000 → m.laneChecks (w / 8) true lanes = none → free m →
        exec (.vstl f) s = .next (s.after (.vstl f) f (stored m x))) ∧
      (∀ m x t, u.delivers w f.opD m x → lf.1.toNat < 0x400000 → m.laneChecks (w / 8) true lanes = some t →
        exec (.vstl f) s = .next (u.trap t)) ∧
      (∀ m x, m.caughtUp.alone = true →
        stored m x = lanes.foldl (fun s l => s.laneWrite (w / 8) l.2 (lane x l.1 w)) m.caughtUp) ∧
      (∀ m x (a : Nat), m.caughtUp.memoriesWf = true → m.caughtUp.alone = true → (∀ l ∈ lanes, a < l.2.toNat ∨ l.2.toNat + w / 8 ≤ a) →
        (stored m x).own.read a = m.caughtUp.own.read a ∧ (stored m x).cl.spad.read a = m.caughtUp.cl.spad.read a ∧
        (stored m x).pkg.mem = m.caughtUp.pkg.mem))

/-- VLDG, VSTG, VGATH and VSCAT (R126, R127): every active lane is translated before the station accepts; without an active lane
nothing is accessed. -/
def Obligations.VectorGlobal : Prop :=
  ∀ (f : Fields) (s m : State) (x : Vec) (idx : Vec) (m' : State) (r : Reached),
    (s.ready (.vldg f) f = true → let u := s.atIssue (.vldg f) f
      let ea := u.val f.opA + (u.globalOffset f.opB).1
      let typed := (u.globalOffset f.opB).2
      let ty := if typed then some (selType f.sel) else none
      let w := globalWidth f typed
      let v := atStation u r
      (u.noLane f w = true → exec (.vldg f) s = .next (s.after (.vldg f) f u)) ∧
      (u.noLane f w = false → accepted u true 0 (vectorReached .read f ea typed) r → v.isShadow = false →
        (v.enables = 0 ∨ typed = false ∨ r.fmt = 0x1F ∨ r.fmt = selType f.sel) →
        exec (.vldg f) s = .next (s.after (.vldg f) f
          (v.enqueue (access v ea .load r ty w (.v f.opD.num) (v.tableFor r.fmt)))))) ∧
    (s.ready (.vstg f) f = true → let u := s.atIssue (.vstg f) f
      let ea := u.val f.opA + (u.globalOffset f.opB).1
      let typed := (u.globalOffset f.opB).2
      let ty := if typed then some (selType f.sel) else none
      let w := globalWidth f typed
      let v := atStation m r
      let d := storeParts ty r.fmt v.top v.rmode (fun i => lane x i w) r.parts
      u.delivers w f.opD m x →
      (u.noLane f w = true → exec (.vstg f) s = .next (s.after (.vstg f) f m)) ∧
      (u.noLane f w = false → accepted m false 1 (vectorReached .write f ea typed) r → d.2 &&& v.enables = 0 →
        exec (.vstg f) s = .next (s.after (.vstg f) f ((acceptStore ea d.1 v).raiseFlags (some 1) d.2)))) ∧
    (s.ready (.vgath f) f = true → let u := s.atIssue (.vgath f) f
      let w := selWidth f.sel
      let base := u.val f.opA
      let lanes := u.gatherLanes f idx
      u.delivers w f.opB m idx → base.toNat % (w / 8) = 0 →
      (isLocalKind f.opA = true → m.laneChecks (w / 8) false lanes = none → let q := m.caughtUp.readLanes (w / 8) lanes
        anySpad (w / 8) lanes = false ∨ q.1.isShadow = false →
        let y := packLanes w q.2
        exec (.vgath f) s = .next (s.after (.vgath f) f
          (q.1.putLocked f.opD.num (.v (f.opD.num.toNat - 64) y.2 y.1)))) ∧
      (isLocalKind f.opA = false → lanes = [] → exec (.vgath f) s = .next (s.after (.vgath f) f m)) ∧
      (isLocalKind f.opA = false → lanes ≠ [] → accepted m true 0 (fun s => s.rawParts .read (w / 8) lanes) r →
        let v := atStation m r
        v.isShadow = false → exec (.vgath f) s = .next (s.after (.vgath f) f
          (v.enqueue (access v base .load r none w (.v f.opD.num) (v.tableFor r.fmt)))))) ∧
    (s.ready (.vscat f) f = true → let u := s.atIssue (.vscat f) f
      let w := selWidth f.sel
      let base := u.val f.opA
      let lanes := u.gatherLanes f idx
      u.delivers w f.opB m idx → m.delivers w f.opD m' x → base.toNat % (w / 8) = 0 →
      (isLocalKind f.opA = true → m'.laneChecks (w / 8) true lanes = none →
        (lanes.any fun l => (lplace l.2.toNat (w / 8)).any fun pl => m'.storeHeld pl l.2.toNat (w / 8)) = false →
        exec (.vscat f) s = .next (s.after (.vscat f) f
          (m'.caughtUp.writeLanes w x lanes))) ∧
      (isLocalKind f.opA = false → lanes = [] → exec (.vscat f) s = .next (s.after (.vscat f) f m')) ∧
      (isLocalKind f.opA = false → lanes ≠ [] → accepted m' false 1 (fun s => s.rawParts .write (w / 8) lanes) r →
        let v := atStation m' r
        let d := storeParts none r.fmt v.top v.rmode (fun i => lane x i w) r.parts
        exec (.vscat f) s = .next (s.after (.vscat f) f ((acceptStore base d.1 v).raiseFlags (some 1) d.2))))

/-- SCFG writes the pushes of its stream and binds it, off with a COUNT of 0 (R129); SSTAT reads the status, and SSTAT.DRAIN after the
pushes are written (R132). Reading ahead and writing a push are the stream's own steps (R130). -/
def Obligations.Streams : Prop :=
  ∀ (f : Fields) (s : State),
    (s.ready (.scfg f) f = true → let u := s.atIssue (.scfg f) f
      let q := f.opD.num.toNat - 96
      let a := u.val f.opA
      let d := u.val f.opB
      let count : Word := (d.extractLsb' 0 32).zeroExtend 64
      exec (.scfg f) s = .next (s.after (.scfg f) f ((u.drainPushes q).setStream q
        (if count = 0 then Stream.off else ⟨true, d, a, a, count, [], []⟩)))) ∧
    (s.ready (.sstat f) f = true → let u := s.atIssue (.sstat f) f
      exec (.sstat f) s = .next (s.after (.sstat f) f
        (u.setS (some 1) f.opD (vget u.ctx.streams (f.opA.num.toNat - 96) Stream.off).status))) ∧
    (s.ready (.sstatDrain f) f = true → let v := (s.atIssue (.sstatDrain f) f).drainPushes (f.opA.num.toNat - 96)
      exec (.sstatDrain f) s = .next (s.after (.sstatDrain f) f
        (v.setS none f.opD (vget v.ctx.streams (f.opA.num.toNat - 96) Stream.off).status))) ∧
    (s.pkg.power = true → ∀ q, happens (.streamReadAhead q) s (s.readAhead q) ∧ happens (.streamPushWrite q) s (s.writePush q))

/-! ### The Kiln -/

/-- KLDB, KMUL, KMULB, KZERO, KNORM, KNORM.REL and KEST queue their command, with what it captures at issue, when the queue has room,
the operand passes its data traps and every home is ready (R138, R139, R147, R155 to R157, R159, R183, R184). -/
def Obligations.KilnCommands : Prop :=
  ∀ (f : Fields) (s : State) (ps : List (Nat × Nat)) (ks : List Kept),
    let enters := fun (i : Instr) (x : State → Word) (op : KilnOp) (b : State → Word) (spans : TileHeader → Nat → List (Nat × Nat))
        (n : State → Nat) (d : State → Nat) (cb : Bool) => s.ready i f = true →
      let u := s.atIssue i f
      let h := tileHeader (x u)
      u.core.kq.length < 16 → u.operandPages h (spans h (n u)) = .ok (ps, ks) →
        u.homes (ps.map fun p => (BitVec.ofNat 64 (max (4096 * p.1) h.addr.toNat), p.2)) = none →
        exec i s = .next (s.after i f ((u.keep ks).enterQueue ((u.keep ks).command op (x u) (b u) (d u) cb ps)))
    let A := fun (u : State) => u.val f.opA
    let B := fun (u : State) => u.val f.opB
    let D := fun (u : State) => u.val f.opD
    enters (.kldb f) A .ldb D loadSpans (fun u => (bSpec (D u)).n) (fun _ => 0) false ∧
    enters (.kmul f) A .mul B (fun h n => rowSpans h 16 n) (fun u => (bSpec (B u)).n) (fun _ => accNum f.opD) (f.sel == 1) ∧
    enters (.kmulb f) A .mulb B (fun h n => rowSpans h (16 * n) 1) (fun u => (bSpec (B u)).n) (fun _ => accNum f.opD) (f.sel == 1) ∧
    enters (.knorm f) A .norm (fun _ => 0) (fun h n => rowSpans h 16 n) (fun u => (B u).toNat) (fun u => (B u).toNat) false ∧
    (let u := s.atIssue (.kest f) f
      let h := tileHeader (A u)
      (h.slot = 0 ∨ (u.registration h.slot.toNat).any (sameRegion h (bSpec (B u)).n) = true) →
      enters (.kest f) A .est B (fun h n => rowSpans h 16 n) (fun u => (bSpec (B u)).n) (fun _ => accNum f.opD) (f.sel == 1)) ∧
    (s.ready (.kzero f) f = true → let u := s.atIssue (.kzero f) f
      u.core.kq.length < 16 →
        exec (.kzero f) s = .next (s.after (.kzero f) f (u.enterQueue (u.command .zero 0 0 (A u).toNat false [])))) ∧
    (s.ready (.knormRel f) f = true → let u := s.atIssue (.knormRel f) f
      u.core.kq.length < 16 →
        exec (.knormRel f) s = .next (s.after (.knormRel f) f (u.enterQueue (u.command .normRel 0 0 (A u).toNat false []))))

/-- The joins, once the core's queue is empty, and the Kiln's register instructions: KMOV.R, KMOV.W, KMOV.RZ, KCFG, KSTAT, KSTAT.J,
KSTAT.JC, KSYNC, KEVAR, KSEED, KSEED.TC and KLIM (R158, R160 to R162, R185 to R187). -/
def Obligations.KilnRegisters : Prop :=
  ∀ (f : Fields) (s t : State),
    let done := fun (i : Instr) (join : Bool) (x : State → State) => s.ready i f = true →
      (join = true → (s.atIssue i f).core.kq = []) → exec i s = .next (s.after i f (x (s.atIssue i f)))
    let tile := fun (u : State) (g : Tiles → Tiles) => ({ u with ctx := { u.ctx with tiles := g u.ctx.tiles } } : State)
    let sys := fun (u : State) (g : Sys → Sys) => ({ u with ctx := { u.ctx with sys := g u.ctx.sys } } : State)
    (s.ready (.kmovR f) f = true → let u := s.atIssue (.kmovR f) f
      let a := chunkAt (accNum f.opA) (u.val f.opB)
      u.core.kq = [] → u.core.badAcc.contains (a / 64) = false →
        u.accepts none f.opD (BitVec.allOnes 512) (u.ctx.tiles.acc.vec a) t →
        exec (.kmovR f) s = .next (s.after (.kmovR f) f t)) ∧
    (s.ready (.kmovRz f) f = true → let u := s.atIssue (.kmovRz f) f
      let a := chunkAt (accNum f.opA) (u.val f.opB)
      u.core.kq = [] → u.core.badAcc.contains (a / 64) = false →
        (u.setAcc (u.ctx.tiles.acc.store a 64 0)).accepts none f.opD (BitVec.allOnes 512) (u.ctx.tiles.acc.vec a) t →
        exec (.kmovRz f) s = .next (s.after (.kmovRz f) f t)) ∧
    done (.kmovW f) true (fun u => let a := chunkAt (accNum f.opD) (u.val f.opB)
      (u.setAcc (u.ctx.tiles.acc.store a 64 (u.vold f.opA).toNat)).healAcc (· == a / 64)) ∧
    done (.kcfg f) false (fun u => tile u fun x => { x with cfg := (u.val f.opA).extractLsb' 0 2 }) ∧
    done (.kstat f) false (fun u => u.setS (some 1) f.opD u.kilnStatus) ∧
    done (.kstatJ f) true (fun u => u.setS none f.opD u.kilnStatus) ∧
    done (.kstatJc f) true (fun u => tile (u.setS none f.opD u.kilnStatus) fun x =>
      { x with status := u.ctx.tiles.status &&& 0xFFFFFFFF000000FF }) ∧
    done (.ksync f) true id ∧
    done (.kevar f) true (fun u => u.setS none f.opD (vget u.ctx.tiles.var (accNum f.opA) 0)) ∧
    done (.kseed f) false (fun u => sys u fun y => { y with kseed0 := u.val f.opA, ktc := u.val f.opB }) ∧
    done (.kseedTc f) false (fun u => sys u fun y => { y with ktc := u.val f.opA }) ∧
    done (.klim f) false (fun u => sys u fun y => { y with kvlim := u.val f.opA, kvfloor := u.val f.opB })

/-! ### The copy engine's instructions, and messages -/

/-- CPOST, CGATH and CWIN claim a slot and write their packet into it, word 0 last, with CVT, NOMSG, LINK and SER, the context's TOP,
the core and the sequence number in their fields; D holds the sequence number (R251, R269). CLINK sets NEXT and LINK of an image
(R270); CBINIT, CBGET and CBPUT configure, take and release slots (R264, R271, R272). -/
def Obligations.CopyInstructions : Prop :=
  (∀ row ∈ [(Instr.cpost, 0), (Instr.cgath, 1), (Instr.cwin, 2)], ∀ (f : Fields) (s : State) (img : Nat) (d p : Page)
      (ks ks' kept : List Kept) (pas : List Nat) (table : List Claim) (r : State × Word), s.ready (row.1 f) f = true →
    let u := s.atIssue (row.1 f) f
    let a := u.val f.opA
    let c := u.desc d.pa 0x28
    let v := u.keep (ks ++ ks')
    let q := r.1.endWait
    let i := r.2.toNat
    u.imageAt (u.val f.opB) 64 = .ok img → a.toNat % 64 = 0 → u.translate u.me .readWrite a = .ok (d, ks) →
      u.homes [(a, d.pa)] = none → u.poisoned d.pa 64 = false → tierOf d.pa = .slice → c.getLsbD 47 = true →
      c.extractLsb' 48 16 = u.ctx.sys.pid → u.translateAll .write (ringPages (u.desc d.pa 0x20) (64 * u.slots d.pa)) = .ok (pas, ks') →
      u.homes (pas.map fun pa => (a, pa)) = none → v.claimRoom a = some table → v.isShadow = false →
      v.published.claimAt d.pa = r → r.2 ≠ BitVec.allOnes 64 →
      q.translate q.me .write (q.slotOf d.pa i) = .ok (p, kept) →
      exec (row.1 f) s = .next (s.after (row.1 f) f
        ((q.writePacket p.pa (packetImage img q.core.idx row.2 q.top (i + 1))).submitted f a (q.slotOf d.pa i)
          (packetImage img q.core.idx row.2 q.top (i + 1)) i table))) ∧
  (∀ (f : Fields) (s : State),
    (∀ pl, s.ready (.clink f) f = true → let u := s.atIssue (.clink f) f
      let a := u.val f.opA
      let b := u.val f.opB
      let m := u.caughtUp
      let w0 : Word := (BitVec.ofNat 64 (m.lread pl a.toNat 8) &&& ~~~(1#64 <<< 60)) ||| (bit01 (b != 0) <<< 60)
      u.lmemCheck a 64 true = .ok pl → pl = .store ∨ pl = .spad → b.toNat % 64 = 0 → u.footprint pl a.toNat 64 true = none →
        u.storeHeld pl a.toNat 64 = false →
        exec (.clink f) s = .next (s.after (.clink f) f
          ((m.dataWrite pl (a.toNat + 56) 8 b.toNat).dataWrite pl a.toNat 8 w0.toNat))) ∧
    (s.ready (.cbinit f) f = true → let u := s.atIssue (.cbinit f) f
      let b := (u.val f.opD).toNat
      let a := u.val f.opA
      u.bufferBusy b = false →
        exec (.cbinit f) s = .next (s.after (.cbinit f) f (u.setCb b
          { init := true, config := a, free := (a.extractLsb' 40 8).toNat, fill := 0, cp := 0, ep := 0, relp := 0, done := 0
            taken := [], waiting := 0 }))) ∧
    (∀ c k, s.ready (.cbget f) f = true → let u := s.atIssue (.cbget f) f
      let b := (u.val f.opA).toNat
      (u.cb b).init = true → (u.cb b).coreTake = some (c, k) →
        exec (.cbget f) s = .next (s.after (.cbget f) f
          ((u.published.endWait.setCb b c).setS (some 1) f.opD (BitVec.ofNat 64 (c.base + c.size * k))))) ∧
    (∀ k, s.ready (.cbput f) f = true → let u := s.atIssue (.cbput f) f
      let b := (u.val f.opA).toNat
      let c := u.cb b
      c.init = true → (c.taken.find? fun k => u.val f.opB == BitVec.ofNat 64 (c.base + c.size * k)) = some k →
        exec (.cbput f) s = .next (s.after (.cbput f) f
          (u.published.setCb b (CircBuf.release c.slots { c with done := c.done ||| (1#256 <<< k), taken := c.taken.erase k })))))

/-- MBXR and MRECV, with and without .T, move the earliest message of their kind into D and free its entry, unless its narrow float
format has another TOP, which traps 0x09 and leaves it; without one the .T forms give 0 (R78, R273, R328). MSEND queues its
message with SRC, TOP and the sender in its header (R327). -/
def Obligations.Messages : Prop :=
  (∀ row ∈ [(Instr.mbxr, true, false), (Instr.mbxrT, true, true), (Instr.mrecv, false, false), (Instr.mrecvT, false, true)],
    ∀ (f : Fields) (s t : State), s.ready (row.1 f) f = true → let u := (s.atIssue (row.1 f) f).caughtUp
      (∀ m, u.firstMessage row.2.1 = some m → mismatched m.fmt m.top u.top = false →
        (State.refill 16 { u.endWait with ctx := { u.ctx with mailbox := u.ctx.mailbox.filter (·.slot != m.slot) } }).accepts none
          f.opD (BitVec.allOnes 512) m.data t → exec (row.1 f) s = .next (s.after (row.1 f) f t)) ∧
      (∀ m, u.firstMessage row.2.1 = some m → mismatched m.fmt m.top u.top = true →
        exec (row.1 f) s = .next (u.endWait.trap (0x09, (bit01 m.top <<< 8) ||| m.fmt.zeroExtend 64))) ∧
      (u.firstMessage row.2.1 = none → row.2.2 = true → u.endWait.accepts none f.opD (BitVec.allOnes 512) 0 t →
        exec (row.1 f) s = .next (s.after (row.1 f) f t))) ∧
  (∀ (f : Fields) (s : State) (img : Nat), s.ready (.msend f) f = true →
    let u := s.atIssue (.msend f) f
    let a := u.val f.opA
    let m := u.published
    let v := m.endWait.sign (u.val f.opB).toNat 64 img
    u.cl.part.member = true → m.imageAt (u.val f.opB) 64 = .ok img → reservedFmt (BitVec.ofNat 5 (img / 2 ^ 16)) = false →
      (a.extractLsb' 0 12).toNat < m.cl.part.size → m.isShadow = false → m.core.outMsgs.length < 16 →
      exec (.msend f) s = .next (s.after (.msend f) f { v with core := { v.core with
        outMsgs := v.core.outMsgs ++ [(a.extractLsb' 0 12, a.extractLsb' 12 3, messageImage m img)] } }))

/-! ### Transactions -/

/-- TDECL adds a region, and TDECL.CLR empties the set (R294); TSUB and TEND wait for the grant, open and release (R295, R296); TSUB.D
returns SSTEPN at once; TSTAT and TSTAT.W give the status word, and TSTAT.W opens (R297). -/
def Obligations.Transactions : Prop :=
  ∀ (f : Fields) (s : State),
    (∀ row ∈ [(Instr.tdeclR, false), (Instr.tdeclW, true)], s.ready (row.1 f) f = true → let u := s.atIssue (row.1 f) f
      let d := u.ctx.tx.decl ++ [⟨u.val f.opA, u.val f.opB, row.2⟩]
      u.ctx.tx.decl.length < 16 → coverCount d ≤ 1024 →
        exec (row.1 f) s = .next (s.after (row.1 f) f (u.setTx { u.ctx.tx with decl := d }))) ∧
    (s.ready (.tdeclClr f) f = true → let u := s.atIssue (.tdeclClr f) f
      exec (.tdeclClr f) s = .next (s.after (.tdeclClr f) f (u.setTx { u.ctx.tx with decl := [] }))) ∧
    (s.ready (.tsub f) f = true → let u := s.atIssue (.tsub f) f
      let x := u.ctx.tx
      x.state = 1 → x.d = false → x.granted = true → exec (.tsub f) s = .next (s.after (.tsub f) f
        ((u.endWait.setTx { x with state := 2 }).setS (some 1) f.opD (BitVec.ofNat 64 x.key.beat)))) ∧
    (∀ tiles ks, s.ready (.tsubD f) f = true → let u := s.atIssue (.tsubD f) f
      let x := u.ctx.tx
      let v := x.decl.foldl (fun s r => s.sign r.base.toNat 0 0) (u.keep ks)
      u.cl.part.member = true → x.state = 0 → x.decl ≠ [] → f.sel = 1 → u.tilesOf x.decl [] [] = .ok (tiles, ks) →
        v.isShadow = false →
        exec (.tsubD f) s = .next (s.after (.tsubD f) f
          ((v.setTx { x with
            seq := x.seq + 1, state := 1, d := true, g := false, flt := false, key := v.newKey true false (x.seq + 1)
            sstep := v.cl.part.sstep, tiles, granted := false }).endWait.setS (some 1) f.opD v.cl.part.sstep))) ∧
    (s.ready (.tend f) f = true → let u := s.atIssue (.tend f) f
      let x := u.ctx.tx
      let m := u.endWait.drainStreams
      (x.state = 0 → exec (.tend f) s = .next (s.after (.tend f) f u)) ∧
      (x.state ≠ 0 → x.g = false → u.isShadow = false → x.granted = true → m.tilesQuiet = true →
        exec (.tend f) s = .next (s.after (.tend f) f (m.release x.key).clearTx))) ∧
    (s.ready (.tendG f) f = true → let u := s.atIssue (.tendG f) f
      let x := u.ctx.tx
      let m := u.endWait.drainStreams
      let e := if m.inGangTx then m.gangEnd m.ctx.address else m
      (x.state = 0 → exec (.tendG f) s = .next (s.after (.tendG f) f u)) ∧
      (x.state ≠ 0 → x.g = true → u.isShadow = false → x.granted = true → m.tilesQuiet = true → e.inGangTx = false →
        exec (.tendG f) s = .next (s.after (.tendG f) f e.clearTx))) ∧
    (s.ready (.tstat f) f = true → let u := s.atIssue (.tstat f) f
      exec (.tstat f) s = .next (s.after (.tstat f) f (u.setS (some 1) f.opD u.ctx.tx.status))) ∧
    (s.ready (.tstatW f) f = true → let u := s.atIssue (.tstatW f) f
      let x := u.ctx.tx
      let o := if x.d then u.endWait.setTx { x with state := 2 } else u.endWait
      (x.state ≠ 1 → exec (.tstatW f) s = .next (s.after (.tstatW f) f (u.endWait.setS (some 1) f.opD x.status))) ∧
      (x.state = 1 → x.d = false ∨ x.sstep ≠ u.cl.part.sstep → x.granted = true →
        exec (.tstatW f) s = .next (s.after (.tstatW f) f (o.setS (some 1) f.opD o.ctx.tx.status))))

/-! ### Atomics and waits -/

/-- The atomics of Table 12-2, REDA and PUT join the outstanding accesses with their operation, and with D unless it is zr (R228, R229,
R231, R235, R238). -/
def Obligations.AtomicAccesses : Prop :=
  ∀ (f : Fields) (s : State) (r : Reached),
    let joins := fun (i : Instr) (span : Nat) (find : Word → State → Except Trap Reached) (kind : State → Word → Word → Word → GKind) =>
      s.ready i f = true → let u := s.atIssue i f
        let ea := u.val f.opA
        let b := u.val f.opB
        let dest := scalarDest f.opD
        let v := r.parts.foldl (fun s p => s.sign p.va.toNat p.n (b.toNat % 2 ^ (8 * p.n))) (atStation u r)
        accepted u (dest != .none) span (find ea) r → v.isShadow = false →
          exec i s = .next (s.after i f (v.enqueue (access v ea (kind (atStation u r) b (u.val f.opD) ea) r none 64 dest [])))
    (∀ row ∈ atomicRows, joins (row.1 f) 1 (atomicReached row.2) (fun v b d _ => .atomic row.2 r.fmt v.rmode b d f.sel)) ∧
    joins (.reda f) 4096 (sliceReached 64) (fun _ b d _ => .reda (d.extractLsb' 0 16) b) ∧
    joins (.put f) 1 (sliceReached 8) (fun _ b _ _ => .put b)

/-- The operations of Table 12-2 on words of 4 and 8 bytes that need no rounding are those of bit vectors; ACAS stores B where the
word equals D (R229). -/
def Obligations.AtomicOperations : Prop :=
  ∀ n ∈ [4, 8], ∀ (m b d : BitVec (8 * n)) (fmt : BitVec 5) (rm : BitVec 3),
    let r := fun (op : AtomOp) => atomicNew op fmt rm n m.toNat b.toNat d.toNat
    r .add = ((m + b).toNat, 0) ∧ r .and = ((m &&& b).toNat, 0) ∧ r .or = ((m ||| b).toNat, 0) ∧ r .xor = ((m ^^^ b).toNat, 0) ∧
      r .min = ((if m.slt b then m else b).toNat, 0) ∧ r .max = ((if m.slt b then b else m).toNat, 0) ∧
      r .minu = (min m.toNat b.toNat, 0) ∧ r .maxu = (max m.toNat b.toNat, 0) ∧ r .swp = (b.toNat, 0) ∧
      r .cas = ((if m = d then b else m).toNat, 0)

/-- TAKE and TAKE.K of a full word, MWAIT of a word that satisfies its comparison, EVWAIT, BAR and the event window, EVSIG, EVSIG.R
and BAR.G complete at once or with what their place has served (R195, R235, R241, R245 to R247); FENCE completes once every access
of the core has been performed (R218, R248). -/
def Obligations.Waits : Prop :=
  ∀ (f : Fields) (s : State),
    (∀ row ∈ [(Instr.take, false), (Instr.takeK, true)],
      (∀ r p ps v w, s.ready (row.1 f) f = true → let u := s.atIssue (row.1 f) f
        let ea := u.val f.opA
        let m := (atStation u r).performAll
        u.core.wait = none → accepted u true 0 (sliceReached 8 ea) r → r.parts = p :: ps → (atStation u r).isShadow = false →
          m.poisoned p.pa 8 = false → m.takeAt m.cl.index p.pa row.2 none = .value w v →
          exec (row.1 f) s = .next (s.after (row.1 f) f (w.setS (some 1) f.opD v))) ∧
      (∀ v, s.servedWith v → exec (row.1 f) s = .next (ended (row.1 f) f s (s.endWait.setS (some 1) f.opD v)))) ∧
    (∀ r p ps, s.ready (.mwait f) f = true → let u := s.atIssue (.mwait f) f
      let ea := u.val f.opA
      let m₀ := (atStation u r).performAll.touch (atStation u r).cl.index p.pa
      let m := (m₀.streamWord p.pa).1
      let w := BitVec.ofNat 64 (m₀.streamWord p.pa).2
      f.sel.getLsbD 1 = false → accepted u true 0 (mwaitReached ea) r → r.parts = p :: ps → (atStation u r).isShadow = false →
        (atStation u r).refreshHolds [p.pa] = false →
        m₀.poisoned p.pa 8 = false → satisfies (f.sel.getLsbD 0) w (u.val f.opB) = true →
        (w.getLsbD 59 = false ∨ w.getLsbD 60 = m.top) → (m₀.isClaim p.pa 8 = false → w = m.pkg.mem.word p.pa) ∧
        exec (.mwait f) s = .next (s.after (.mwait f) f (m.endWait.setS (some 1) f.opD w))) ∧
    (∀ pl, s.ready (.mwait f) f = true → let u := s.atIssue (.mwait f) f
      let ea := u.val f.opA
      let m := u.caughtUp
      let w := BitVec.ofNat 64 (m.lread pl ea.toNat 8)
      f.sel.getLsbD 1 = true → u.lmemCheck ea 8 false = .ok pl → pl = .store ∨ pl = .spad → u.footprint pl ea.toNat 8 false = none →
        pl = .store ∨ m.isShadow = false → satisfies (f.sel.getLsbD 0) w (u.val f.opB) = true →
        (w.getLsbD 59 = false ∨ w.getLsbD 60 = m.top) →
        exec (.mwait f) s = .next (s.after (.mwait f) f (m.endWait.setS (some 1) f.opD w))) ∧
    (∀ w v, s.ready (.evwait f) f = true → let u := s.atIssue (.evwait f) f
      u.core.wait = none → u.published.evLoad (.event (u.val f.opA).toNat) 2 = .value w v →
        exec (.evwait f) s = .next (s.after (.evwait f) f (w.setS (some 1) f.opD v))) ∧
    (∀ v, s.servedWith v → exec (.evwait f) s = .next (ended (.evwait f) f s (s.endWait.setS (some 1) f.opD v))) ∧
    (∀ w v, s.ready (.bar f) f = true → let u := s.atIssue (.bar f) f
      u.core.wait = none → u.published.evLoad (.bar (u.val f.opA).toNat) 3 = .value w v →
        exec (.bar f) s = .next (s.after (.bar f) f w)) ∧
    (∀ v, s.servedWith v → exec (.bar f) s = .next (ended (.bar f) f s s.endWait)) ∧
    (∀ l r w v, s.ready (.ldl f) f = true → let u := s.atIssue (.ldl f) f
      let ea := u.val f.opA + u.val f.opB
      u.localAccess ea (selBytes f.sel) false = .ok .event → evPlace ea.toNat = some (l, r) → u.core.wait = none →
        u.published.evLoad l r = .value w v → exec (.ldl f) s = .next (s.after (.ldl f) f (w.setS none f.opD v))) ∧
    (∀ v, s.servedWith v → exec (.ldl f) s = .next (ended (.ldl f) f s (s.endWait.setS none f.opD v))) ∧
    (∀ l r w, s.ready (.stl f) f = true → let u := s.atIssue (.stl f) f
      let ea := u.val f.opA + u.val f.opB
      u.localAccess ea (selBytes f.sel) true = .ok .event → evPlace ea.toNat = some (l, r) → u.published.evStore l r (u.val f.opD) = some w →
        exec (.stl f) s = .next (s.after (.stl f) f w)) ∧
    (s.ready (.evsig f) f = true → let u := s.atIssue (.evsig f) f
      exec (.evsig f) s = .next (s.after (.evsig f) f (u.published.eventSig (u.val f.opA).toNat 1))) ∧
    (s.ready (.evsigR f) f = true → let u := s.atIssue (.evsigR f) f
      u.cl.part.member = true → (u.val f.opB).toNat < u.cl.part.size →
        exec (.evsigR f) s = .next (s.after (.evsigR f) f
          (if (u.val f.opB).toNat = u.cl.part.pidx.toNat then u.published.eventSig (u.val f.opA).toNat 1 else u.published))) ∧
    (s.ready (.barG f) f = true → let u := s.atIssue (.barG f) f
      let m := u.published
      u.core.wait = none → m.gangAll &&& ~~~((m.cl.gangArrived ||| bit8 m.ctx.address) &&& m.gangAll) = 0 →
        m.ctx.address < 8 →
        exec (.barG f) s = .next (s.after (.barG f) f { m.endWait with cl := { m.cl with gangArrived := 0 } })) ∧
    (∀ v, s.servedWith v → exec (.barG f) s = .next (ended (.barG f) f s s.endWait)) ∧
    (s.ready (.fence f) f = true → let m := (s.atIssue (.fence f) f).drainStreams
      m.core.fence = some true ∨ m.performedAll = true →
        exec (.fence f) s = .next (s.after (.fence f) f { m with core := { m.core with fence := none } }))

/-! ### Tasks, phases and chains -/

/-- POST to the own cluster with room in its queue and to another with room in the outbound one (R304 to R306), TASKQ (R330), TEXIT
with everything drained (R310), and STOP, with code 0 where its A field is unused (R104). A member of a redundant task closes its
signature over TASKID and the exit code and compares it with its twin's (R313): that TASKID is taken with COPY 0 is log entry 39
(DEDUCED), the model's reading. -/
def Obligations.TaskInstructions : Prop :=
  ∀ (f : Fields) (s : State),
    (∀ img t, s.ready (.post f) f = true → let s₁ := s.atIssue (.post f) f
      let a := s₁.val f.opA
      let u := s₁.published
      let w := BitVec.ofNat 256 img
      let p := u.cl.part
      let target := if recHere w then p.pidx.toNat else p.target (recData w)
      let l := (u.launchHere.map (·.number)).getD 0
      let n := ((u.cl.tasks.find? (·.id == u.taskKey)).map (·.posts)).getD 0
      let r : Record := ⟨w, u.taskKey.extractLsb' 0 32, n, l, some (u.core.cyc, u.core.idx)⟩
      let counted := fun (v : State) => (v.mapTask u.taskKey fun t => { t with posts := t.posts + 1 }).mapLaunch l fun x => { x with
        outstanding := x.outstanding + 1 }
      let v := u.endWait.sign a.toNat 32 img
      s₁.cl.part.member = true → u.imageAt a 32 = .ok img → recordOk w = true → u.isShadow = false →
        (target = p.pidx.toNat → v.enqueueRecord r = some t → exec (.post f) s = .next (s.after (.post f) f
          (counted t))) ∧
        (target ≠ p.pidx.toNat → u.cl.outRecs.length < 256 → exec (.post f) s = .next (s.after (.post f) f
          (counted { v with cl := { v.cl with outRecs := v.cl.outRecs ++ [(target, r)] } })))) ∧
    (s.ready (.taskq f) f = true → let u := s.atIssue (.taskq f) f
      exec (.taskq f) s = .next (s.after (.taskq f) f (u.setS (some 1) f.opD u.taskqWord))) ∧
    (s.ready (.texit f) f = true → let u := s.atIssue (.texit f) f
      let m := u.landAll.drainStreams.drain
      let e := m.1.retire f u.ctx.pc .seq
      let code := (u.val f.opA).toNat
      m.2 = none → m.1.core.kq = [] → m.1.claimsOpen = false →
        (e.core.red = none → exec (.texit f) s = .next (e.memberEnds code)) ∧
        (∀ x, e.core.red = some x →
          let sig := crcBytes (crcBytes x.sig 8 e.taskKey.toNat) 8 code ^^^ BitVec.allOnes 64
          exec (.texit f) s = .next (State.compareTwin e.taskKey e.ctx.address code sig
            { e with core := { e.core with run := .ended code, red := some { x with sig } } }))) ∧
    (s.ready (.stop f) f = true → let u := s.atIssue (.stop f) f
      let code := match f.opA with | .imm v => v.toNat | _ => 0
      let e := (u.settle.1.retire f u.ctx.pc .seq).endTx
      u.settle.2 = none → exec (.stop f) s = .next (State.taskStopped 4
        { e with core := { e.core with run := .stopped code }, pkg := { e.pkg with reports := e.ctx.pc :: e.pkg.reports } }))

/-- SLAVE.L forms its chain when every offered core has executed SLAVE, SLAVE when a leader offers it, and DETACH leaves it (R321,
R324); XRUN arms the engine (R319), XWAIT and XWAIT.E complete with SSTEPN when their barrier has released (R320); GEAR.F and
GEAR.N request their gear, and change it where R341 requires (R343). -/
def Obligations.PhasesAndChains : Prop :=
  ∀ (f : Fields) (s : State),
    (s.ready (.slaveL f) f = true → let u := s.atIssue (.slaveL f) f
      let n := (u.val f.opA).toNat
      u.core.chain = none → u.offered n = true →
        exec (.slaveL f) s = .next (s.after (.slaveL f) f ((u.takeOffers n).endWait.joinChain true n))) ∧
    (∀ v, s.servedWith v →
      exec (.slaveL f) s = .next (ended (.slaveL f) f s (s.endWait.joinChain true (s.val f.opA).toNat)) ∧
      exec (.slave f) s = .next (ended (.slave f) f s (s.endWait.joinChain false 0)) ∧
      exec (.xwaitE f) s = .next (ended (.xwaitE f) f s (s.endWait.setS (some 1) f.opD s.endWait.cl.part.sstep))) ∧
    (∀ v, s.servedWith v → (s.endWait.cl.xeng.landed.find? fun x => mismatched x.1 x.2 s.endWait.top) = none →
      let e := s.endWait.setXeng { s.endWait.cl.xeng with landed := [] }
      exec (.xwait f) s = .next (ended (.xwait f) f s (e.setS (some 1) f.opD e.cl.part.sstep))) ∧
    (s.ready (.detach f) f = true → let u := s.atIssue (.detach f) f
      exec (.detach f) s = .next (s.after (.detach f) f { u.leaveChain with core := { u.leaveChain.core with ifetch := u.own } })) ∧
    (s.ready (.xrun f) f = true → let u := s.atIssue (.xrun f) f
      let a := u.val f.opA
      let n := (u.val f.opB).toNat
      u.cl.part.member = true → a.toNat % 16 = 0 → a.toNat + 16 * n ≤ (if u.core.k then 0x20000 else 0x1E000) →
        u.cl.part.exchange = true → u.cl.xeng.used = false →
        exec (.xrun f) s = .next (s.after (.xrun f) f (u.setXeng { u.cl.xeng with
          core := u.core.idx, top := u.top, base := a.toNat, count := n, next := 0, armed := true, used := true
          prevEnd := u.pkg.cycle }))) ∧
    (∀ row ∈ [(Instr.gearF, false), (Instr.gearN, true)], s.ready (row.1 f) f = true → let u := s.atIssue (row.1 f) f
      let v : State := { u with ctx := { u.ctx with sys := { u.ctx.sys with gearReq := row.2 } } }
      let w := if v.exchanging then v else v.handOver v.requiredGear
      exec (row.1 f) s = .next (s.after (row.1 f) f (w.setS (some 1) f.opD w.gearWord)))

/-! ### System instructions -/

/-- MFS reads a system register, FMODE once no flag is due and MBXS once the earlier loads have been performed (R82, R106, R216), and MTS writes one: registers that identify the core and those
that are RO raise the traps of steps 3 and 4, and a value that the register's description excludes the encoding trap (R106, R409,
R410). -/
def Obligations.SystemRegisters : Prop :=
  (∀ (f : Fields) (s : State), s.ready (.mfs f) f = true → let u₀ := s.atIssue (.mfs f) f
    let n := (u₀.val f.opA).toNat
    let u := if n = 0x13 then u₀.caughtUp else u₀
    (n ≠ 3 ∨ u.flagsDue = false) → exec (.mfs f) s = .next (s.after (.mfs f) f (u.setS (some 1) f.opD (u.sysRead n)))) ∧
  (∀ mk ∈ [Instr.mts, Instr.mtsRetired, Instr.mtsCycle, Instr.sensinjWrite], ∀ (f : Fields) (s : State),
    s.ready (mk f) f = true → let u := s.atIssue (mk f) f
      let n := (u.val f.opD).toNat
      let x := u.val f.opA
      let denied := (6 ≤ n ∧ n ≤ 9) ∨ (userReadOnly n = true ∧ u.core.k = false)
      (denied → exec (mk f) s = .next (u.trap (0x04, (BitVec.ofNat 64 n <<< 20) ||| 0x331))) ∧
      (¬denied → kernelReadOnly n u.core.control = true → exec (mk f) s = .next (u.trap (0x02, encodingVal 3 0x331))) ∧
      (¬denied → kernelReadOnly n u.core.control = false → sysValueOk n x = false →
        exec (mk f) s = .next (u.trap (0x02, encodingVal 4 0x331))) ∧
      (¬denied → kernelReadOnly n u.core.control = false → sysValueOk n x = true →
        exec (mk f) s = .next (s.after (mk f) f (u.sysWrite n x))))

/-- A system register that kernel privilege writes whole reads back what was written (R106); a write of RETIRED counts the MTS
itself, so that the next instruction reads the value written (R410). -/
def Obligations.SystemReadsBack : Prop :=
  ∀ (n : Nat) (x : Word) (s : State),
    (n ∈ [0x003, 0x00D, 0x00E, 0x00F, 0x010, 0x011, 0x018, 0x103, 0x105, 0x107] → (s.sysWrite n x).sysRead n = x) ∧
    (n ∈ [0x101, 0x104, 0x106] → sysValueOk n x = true → (s.sysWrite n x).sysRead n = x) ∧
    (∀ (f : Fields) (pc : Word) (flow : Flow), ((s.sysWrite 2 x).retire f pc flow).ctx.retired = x) ∧
    (∀ m ∈ [0x00D, 0x00E, 0x00F, 0x010, 0x011, 0x018, 0x103, 0x105, 0x107, 0x10B], m ≠ n → n ≠ 0x10C →
      (s.sysWrite n x).sysRead m = s.sysRead m)

/-- CTXSV, CTXSV.CL, CTXLD and CTXLD.CL save and restore their images when the Kiln commands have completed and the region passes its
checks (R378 to R383); STINV removes translations from every station once the Kiln has read through them (R370), and TMARK writes a trace record (R396). -/
def Obligations.ContextInstructions : Prop :=
  ∀ (f : Fields) (s : State),
    (s.ready (.ctxsv f) f = true → let u := s.atIssue (.ctxsv f) f
      u.core.kq = [] → u.regionCheck u.region 0x41000 = none →
        exec (.ctxsv f) s = .next (s.after (.ctxsv f) f (u.saveContext ((u.val f.opA).getLsbD 0)))) ∧
    (s.ready (.ctxld f) f = true → let u := s.atIssue (.ctxld f) f
      let m := u.published
      let size := (m.pkg.mem.word u.region).toNat
      u.core.kq = [] → u.regionCheck u.region 0x41000 = none → 0 < size → size ≤ 0x40000 →
        m.pkg.mem.word (u.region + 0xAE8) = u.ctx.sys.ctxbuf →
        exec (.ctxld f) s = .next (s.after (.ctxld f) f m.loadContext)) ∧
    (s.ready (.ctxsvCl f) f = true → let u := s.atIssue (.ctxsvCl f) f
      let a := u.val f.opA
      a.toNat % 65536 = 0 → u.kilnCmds = [] → (∀ b < 8, u.bufferBusy b = false) → u.regionCheck a.toNat clusterSize = none →
        exec (.ctxsvCl f) s = .next (s.after (.ctxsvCl f) f (u.published.saveCluster a.toNat))) ∧
    (s.ready (.ctxldCl f) f = true → let u := s.atIssue (.ctxldCl f) f
      let a := u.val f.opA
      a.toNat % 65536 = 0 → u.kilnCmds = [] → (∀ b < 8, u.bufferBusy b = false) → u.regionCheck a.toNat clusterSize = none →
        (∀ i < 8, cbBad (u.published.imageFrom a.toNat clusterSize) (0x21800 + 64 * i) = false) →
        exec (.ctxldCl f) s = .next (s.after (.ctxldCl f) f (u.published.loadCluster a.toNat))) ∧
    (s.ready (.stinvVa f) f = true → let u := s.atIssue (.stinvVa f) f
      u.unread = false → exec (.stinvVa f) s = .next (s.after (.stinvVa f) f (u.invalidate fun k =>
        k.pid == (u.val f.opB).extractLsb' 0 16 && k.vpn == (u.val f.opA).toNat / 2 ^ levelShift k.level))) ∧
    (s.ready (.stinvPid f) f = true → let u := s.atIssue (.stinvPid f) f
      u.unread = false → exec (.stinvPid f) s = .next (s.after (.stinvPid f) f (u.invalidate fun k => k.pid == (u.val f.opA).extractLsb' 0 16))) ∧
    (s.ready (.stinvAll f) f = true → let u := s.atIssue (.stinvAll f) f
      u.unread = false → exec (.stinvAll f) s = .next (s.after (.stinvAll f) f (u.invalidate fun _ => true))) ∧
    (s.ready (.tmark f) f = true → let u := s.atIssue (.tmark f) f
      exec (.tmark f) s = .next (s.after (.tmark f) f (u.trace 2 (u.val f.opA))))

/-! ### The steps of other agents -/

/-- Other cores at the event unit (R242 to R245): what a line holds after their stores and loads, and when a barrier line releases. An
event of this core itself is its instruction, and changes nothing here: that is log entry 6 (DESIGN CHOICE), and that OWNER has an
unstated value after the last unlock is log entry 27 (DEDUCED); both are the model's. -/
def Obligations.EventUnitEvents : Prop :=
  ∀ (s : State), s.pkg.power = true →
    (∀ (b : Nat) (mask : BitVec 8), b < 16 → let l := s.bar b
      happens (.barrierMaskWrite b mask) s (s.barMask b mask) ∧
        (s.barMask b mask).bar b = (if mask ≠ 0 ∧ mask &&& ~~~l.arrived = 0 then ⟨mask, l.gen + 1, 0⟩ else { l with mask })) ∧
    (∀ b core : Nat, b < 16 → core ≠ s.core.idx → let l := s.bar b
      let a := l.arrived ||| bit8 core
      happens (.barrierArrive b core) s (s.barArrive b core) ∧ happens (.barrierSync b core) s (s.barArrive b core) ∧
        (s.barArrive b core).bar b = (if l.mask.getLsbD core = false then l
          else if l.mask &&& ~~~a = 0 then { l with gen := l.gen + 1, arrived := 0 } else { l with arrived := a })) ∧
    (∀ x core : Nat, x < 16 → core ≠ s.core.idx → let l := s.mtx x
      happens (.mutexLock x core) s (s.mutexLock x core).1 ∧
        (s.mutexLock x core).1.mtx x = (if l.held = false then { l with held := true, owner := core }
          else if l.owner = core then { l with err := true } else { l with queue := l.queue ++ [core] }) ∧
      happens (.mutexTry x core) s (s.mutexTry x core).1 ∧
        (s.mutexTry x core).1.mtx x = (if l.held = false then { l with held := true, owner := core } else l) ∧
      happens (.mutexUnlock x core) s (s.mutexUnlock x core) ∧
        (s.mutexUnlock x core).mtx x = (if l.held = false ∨ l.owner ≠ core then { l with err := true } else match l.queue with
          | [] => { l with held := false, owner := (Config.noOwner s.tick).toNat }
          | c :: rest => { l with owner := c, queue := rest })) ∧
    (∀ x : Nat, x < 16 → happens (.mutexErrClear x) s (s.setMtx x { s.mtx x with err := false })) ∧
    (∀ (e : Nat) (n : BitVec 16), e < 32 → let l := s.evl e
      happens (.eventPendWrite e n) s (s.eventPend e n) ∧ happens (.eventSig e n) s (s.eventSig e n) ∧
      happens (.eventMessageLand e) s (s.eventSig e 1) ∧
      (l.queue = [] → (s.eventPend e n).evl e = { l with pend := n, sat := false } ∧
        ((s.eventSig e n).evl e).pend.toNat = min 65535 (l.pend.toNat + n.toNat) ∧
        ((s.eventSig e n).evl e).sat = (l.sat || decide (65535 < l.pend.toNat + n.toNat)))) ∧
    (∀ e core : Nat, e < 32 → core ≠ s.core.idx → let l := s.evl e
      happens (.eventWait e core) s (s.eventWait e core).1 ∧
        (s.eventWait e core).1.evl e =
          (if l.pend ≠ 0 ∧ l.queue = [] then { l with pend := l.pend - 1 } else { l with queue := l.queue ++ [core] })) ∧
    (∀ i : Instr, (∃ n, i = .barrierArrive n s.core.idx ∨ i = .barrierSync n s.core.idx ∨ i = .mutexLock n s.core.idx ∨
      i = .mutexTry n s.core.idx ∨ i = .mutexUnlock n s.core.idx ∨ i = .eventWait n s.core.idx) → happens i s s)

/-- Stations and homes (R14, R81, R204, R218, R223, R229, R232 to R238, R358, R366): an access is performed and returns when it may, and
the events of other agents act there, at the address of the cluster and of the home they name, where that home is ready. A PUT
fills its word, and a TAKE of it then has its value and empties it. That GLOBAL_ACCESS_PERFORM numbered past this core's accesses performs
the next event of an act that waits in `State.outside` is log entry 28 (DESIGN CHOICE): the model's, not the rules'. -/
def Obligations.HomeEvents : Prop :=
  (∀ (s : State), s.pkg.power = true →
    (∀ who k va, ∃ ks, happens (.stationAccept who k va) s (s.keep ks)) ∧
    (∀ who va, ∃ ks, happens (.pageWalk who va) s (s.keep ks)) ∧
    (∀ k, happens (.globalAccessPerform k) s (if s.core.gq.length ≤ k then s.outsideNth (k - s.core.gq.length)
      else if s.performable k then s.performNth k else s)) ∧
    (∀ k a, s.outside[k]? = some a → s.outsideNth k = (if s.actHeld a then s
      else { s with outside := match actRest a with | some b => s.outside.set k b | none => s.outside.eraseIdx k }.otherAct a)) ∧
    (∀ k a, s.core.gq[k]? = some a → a.performed = true → a.returns = true →
      (a.bad = true → s.core.run = .running ∧ s.waitServed = false) →
      let t : State := { s with core := { s.core with gq := s.core.gq.eraseIdx k } }
      happens (.globalLoadReturn k) s (if a.bad then t.enterTrap 0x11 a.va t.ctx.pc else t.arrive a)) ∧
    (∀ x fmt n pa b d, atomicWidth fmt = some n → s.atHome pa = true → atomFits x.op fmt = true → pa % n = 0 →
      let t := (s.waitRefresh [pa]).place x.cluster x.hint pa
      happens (.bankAluAtomic x fmt pa b d) s
        (if t.poisoned pa n then t.uncorrectable pa else (t.atomicAt x.op fmt x.rm pa b d).1.restartQueues)) ∧
    (∀ line cluster, happens (.atomicLineMove line cluster) s (s.lineMove (line / 64 * 64) cluster)) ∧
    (∀ line, happens (.atomicLineReturn ⟨line, none⟩) s (s.lineReturn (line / 64 * 64) false) ∧
      ∀ c, happens (.atomicLineReturn ⟨line, some c⟩) s (s.sendHome c (line / 64 * 64))) ∧
    (∀ x : HomeWord, tierOf x.pa = .slice → s.atHome x.pa = true →
      (∀ rank v, x.pa % 64 = 0 → happens (.redaArrival x rank v) s
        (if s.redaBad x.pa rank.toNat then s.uncorrectable x.pa else (s.redaAt x.cluster x.pa rank.toNat v).1)) ∧
      (∀ keep core, x.pa % 8 = 0 → happens (.feTakeAtHome x keep core) s (if s.poisoned x.pa 8 then s.uncorrectable x.pa
        else match s.takeAt x.cluster x.pa keep (some core) with | .value t _ => t | .queued t => t | .overflow => s)) ∧
      (∀ v, x.pa % 8 = 0 → s.poisoned x.pa 8 = false → happens (.fePutAtHome x v) s (s.putAt x.cluster x.pa v).1)) ∧
    happens .fenceComplete s (if s.fenceDone then { s with core := { s.core with fence := some true } } else s) ∧
    (∀ fn addr n, happens (.hostRead fn addr n) s (s.hostRead fn addr n)) ∧
    (∀ fn addr n v, happens (.hostWrite fn addr n v) s (s.hostWrite fn addr n v)) ∧
    (∀ pkg pa n w, happens (.remoteAccess pkg pa n w) s (s.remote pkg pa n w))) ∧
  (∀ (s : State) (c pa : Nat) (v : Word), s.pkg.mem.wf = true → s.pkg.poison = [] → (∀ d ∈ s.pkg.deferred, d.pa ≠ pa) →
    let t := (s.putAt c pa v).1
    (s.putAt c pa v).2 = bit01 (s.full pa) ∧ t.full pa = true ∧ t.pkg.mem.word pa = v ∧
      (∀ c' keep who, ∃ r, t.takeAt c' pa keep who = .value r v ∧ r.full pa = keep))

/-- The engines of the Kiln and of the copy engine (R136, R148 to R153, R171, R251, R252, R260 to R266, R350): their steps, none of
which changes anything while it may not happen; a claim of a full queue changes nothing and answers all ones, and any other
advances W. -/
def Obligations.EngineEvents : Prop :=
  ∀ (s : State), s.pkg.power = true →
    (∀ k, happens (.kilnCommandStart k) s (s.startCmd k) ∧ (s.startable k = false → (s.core.kq[k]?.any (·.started)) = false → s.startCmd k = s)) ∧
    happens .kestSelection s s.selectEst ∧ (s.core.kq.any (·.chooses) = false → s.selectEst = s) ∧
    happens .slicePassGrant s s.grantPass ∧ ((∀ x, s.nextPass = some x → s.passMayStart s.core.idx x.2.2 x.2.1.isF64 = false) → s.grantPass = s) ∧
      (∀ m f64, s.passMayStart s.core.idx m f64 = true → s.macroFree m f64 = true ∧ s.overBudget = false ∧ s.nextQueue = some s.core.idx) ∧
    happens .slicePassComplete s s.finishPass ∧ ((s.core.kq.any fun c => c.passOver s.core.cyc) = false → s.finishPass = s) ∧
    (∀ k, happens (.kilnCommandComplete k) s (s.finishCmd k) ∧ (s.completable k = false → s.finishCmd k = s) ∧
      (s.completable k = true → (s.finishCmd k).core.kq = s.core.kq.eraseIdx k)) ∧
    happens .kilnBudgetWindow s s.budgetWindow ∧ (s.core.cyc < s.cl.arb.start + 64 → s.budgetWindow = s) ∧
      (s.cl.arb.start + 64 ≤ s.core.cyc → s.budgetWindow.cl.arb.count = 0) ∧
    (∀ pa, happens (.queueClaim pa) s (s.claimAt pa).1 ∧
      (s.slots pa ≤ s.claimed pa → s.claimAt pa = (s, BitVec.allOnes 64)) ∧
      (s.claimed pa < s.slots pa → s.claimAt pa =
        (s.homeStore pa 8 (low56 (s.desc pa 0 + 1)), BitVec.ofNat 64 (low56 (s.desc pa 0))))) ∧
    (∀ pa v, happens (.queueStatWrite pa v) s (s.homeStore (pa + 0x30) 8 v.toNat).restartQueues) ∧
    (∀ q, happens (.packetRead q) s (s.readPacket q) ∧ (s.slotTurn q = false → s.readPacket q = s)) ∧
    (∀ j x, s.job j = some x →
      happens (.copyJobStart j) s (if s.jobStartable j then s.setJob j { x with started := true, old := s.oldBytes x }
        else s) ∧
      happens (.copyBurst j) s (s.burstJob j) ∧ (s.jobMoving j = false → s.burstJob j = s) ∧
      happens (.clipMessage j) s (s.clipMsg j) ∧ (x.owesMessage = false → s.clipMsg j = s) ∧
      happens (.stampWrite j) s (s.stampJob j) ∧ (s.stampable j = false → s.stampJob j = s) ∧
      happens (.linkPacketRead j) s (s.linkJob j) ∧ ((x.stampDone && x.goesOn) = false → s.linkJob j = s))

/-- The order-first sequencer and its slices (R278 to R287): a request is granted only when no earlier unreleased request of its tile
conflicts, the full grant reaches its context once, and a release takes the transaction's requests away. -/
def Obligations.OrderEvents : Prop :=
  ∀ (s : State), s.pkg.power = true →
    (∀ key tiles, happens (.sequencerSubmission key tiles) s (s.submitKey key tiles)) ∧
    (∀ b, happens (.beatEnd b) s (s.endBeat b) ∧ (s.beatOver b = false → s.endBeat b = s)) ∧
    (∀ b others, happens (.orderMerged b others) s (s.mergeOrder b others) ∧ (s.mergeable b = false → s.mergeOrder b others = s)) ∧
    (∀ k r, s.pkg.seq.reqs[k]? = some r → happens (.sliceGrant k) s (s.grantTile k) ∧
      (s.grantable k = false → s.grantTile k = s) ∧
      (s.grantable k = true → (s.grantTile k).pkg.seq.reqs[k]? = some { r with granted := true, when := s.pkg.cycle } ∧ r.queued = true ∧
        ∀ j e, j < k → s.pkg.seq.reqs[j]? = some e → e.tile = r.tile → e.write = false ∧ r.write = false)) ∧
    (happens .grantDelivery s s.deliverGrant ∧ (s.grantComing = true → s.deliverGrant.ctx.tx.granted = true) ∧
      (s.grantComing = false → s.deliverGrant = s)) ∧
    (∀ key, happens (.releasePerform key) s (s.release key) ∧ ∀ r ∈ (s.release key).pkg.seq.reqs, r.key.same key = false)

/-- Launches, tasks, phases and messages of the partition (R301 to R317, R326, R334, R353): the steps, and the conditions without
which they change nothing. Lines 16 to 22 of BARRIER_ARRIVE stand for the arrivals at the other barriers (log entry 31). -/
def Obligations.PartitionEvents : Prop :=
  ∀ (s : State), s.pkg.power = true →
    (∀ who desc pnum cs n, happens (.launch who desc pnum cs n) s (s.launch who desc pnum cs n)) ∧
    happens .overflowReturn s s.returnOverflow ∧ (s.cl.overflow = [] ∨ 256 ≤ s.cl.launchQ.length → s.returnOverflow = s) ∧
    happens .taskDispatch s s.dispatch ∧ (s.dispatchable = false → s.dispatch = s) ∧
    (∀ p, happens (.recordReservation p) s (s.reserve p) ∧ (s.nextReservation = none → s.reserve p = s) ∧
      (s.cl.part.reserved = true → s.nextReservation = none)) ∧
    (∀ cores d, happens (.gangMigration cores d) s (s.migrate cores d) ∧ (s.nextMigration = none → s.migrate cores d = s) ∧
      (s.traceMode ≠ 2 → s.headPeriods < 6 → s.nextMigration = none)) ∧
    happens .launchComplete s s.completeLaunch ∧ (s.pkg.launches.any (·.over) = false → s.completeLaunch = s) ∧
    happens .contextDiscard s s.discard ∧ (s.discardable = false → s.discard = s) ∧
    happens .computeBarrierRelease s s.openExchange ∧ (s.computeOver = false → s.openExchange = s) ∧
    (s.computeOver = true → s.openExchange.cl.part.exchange = true ∧ s.openExchange.cl.part.x0 = s.pkg.cycle) ∧
    (∀ l, happens (.exchangeTransferStart l) s (s.startTransfer l) ∧ (s.transferDue = false → s.startTransfer l = s)) ∧
    (∀ k, happens (.exchangeLanding k) s (s.landTransfer k)) ∧
    (∀ rs, happens (.exchangeBarrierRelease rs) s (s.closeExchange rs) ∧ (s.exchangeOver = false → s.closeExchange rs = s)) ∧
    happens .computePhaseStart s s.startPhase ∧ (s.phaseDue = false → s.startPhase = s) ∧
    (s.phaseDue = true → s.startPhase.cl.part.exchange = false ∧ s.startPhase.cl.part.sstep = s.cl.part.sstep + 1) ∧
    (∀ core d, happens (.messageDelivery core d) s (s.deliverMessage core d)) ∧
    happens .recordDelivery s s.deliverRecord ∧ (s.exchanging = false → s.deliverRecord = s) ∧
    (∀ core, core ≠ s.core.idx → happens (.barrierArrive 16 core) s (s.gangArrive core) ∧
      happens (.barrierArrive 17 core) s (s.otherTend core) ∧ happens (.barrierArrive 18 core) s (s.arriveStep core) ∧
      happens (.barrierArrive 20 core) s (s.otherSlave core) ∧
      happens (.barrierArrive 21 core) s (s.chainForms core) ∧ happens (.barrierArrive 22 core) s s.lead)

/-- Gears, the controller, sensors and refreshes (R205 to R208, R342 to R346, R354, R404): a handover starts only to the gear that R341
requires and ends with it, a sag doubles the clock's period for 16 cycles, and a refresh blocks its half-channel for 240 fabric
cycles. -/
def Obligations.GearEvents : Prop :=
  ∀ (s : State), s.pkg.power = true →
    (∀ on, happens (.gearLift on) s (s.liftGear on) ∧ (s.liftable on = false ∨ s.passing = true → s.liftGear on = s)) ∧
    (∀ n, happens (.railHandover n) s (if s.gearDue && n == s.requiredGear then s.startHandover n else s)) ∧
    (happens .handoverComplete s s.endHandover ∧ (s.cl.gear.handover = none → s.endHandover = s) ∧
      (∀ n due, s.cl.gear.handover = some (n, due) → s.endHandover.cl.gear.n = n ∧ s.endHandover.cl.gear.handover = none ∧
        s.endHandover.pkg.cycle = max s.pkg.cycle due)) ∧
    (∀ c t boost dly stag, happens (.controlInterval c t boost dly stag) s (s.interval c t boost dly stag)) ∧
    happens .sagStretch s (if s.cl.gear.sag = true ∨ s.cl.gear.handover ≠ none then s
      else s.setGear { s.cl.gear with sag := true, sagLeft := 16 }) ∧
    happens .sagHoldEnd s (if s.cl.gear.sag = true ∧ s.cl.gear.sagLeft = 0 then s.setGear { s.cl.gear with sag := false } else s) ∧
    (∀ d k n t, happens (.sensorReading d k n t) s (s.sensor d k n t)) ∧
    (∀ c l, happens (.dramRefresh c l) s (s.refresh c l) ∧
      (s.pkg.cycle < s.nextRefresh c l → s.refresh c l = s) ∧
      (s.nextRefresh c l ≤ s.pkg.cycle → c < 4096 → l ≤ 1 → (c, l, s.nextRefresh c l + 240) ∈ (s.refresh c l).pkg.blocked ∧
        (s.refresh c l).nextRefresh c l =
          s.nextRefresh c l + 7800 / 2 ^ (vget s.pkg.mult (2 * clusterDie (c / 8) + l) 0).toNat) ∧
      happens (.refreshEnd c l) s (s.endRefresh c l) ∧
      (∀ b ∈ (s.endRefresh c l).pkg.blocked, b.1 = c → b.2.1 = l → s.pkg.cycle < b.2.2)) ∧
    (∀ pa bad, happens (.scrub pa bad) s (s.scrubAt pa bad) ∧ (bad = false → s.scrubAt pa bad = s))

/-- Requests, halts, waits, crashes, boots, readiness and the domain (R14, R201, R207, R247, R366, R367, R373, R387 to R389, R397, R400,
R401, R408): a pending request is taken by trap entry; a frozen core has FRZ; a function has at most one of its readiness bits; the
boots need no power, and a cold boot restores it with every slice byte lost. That a cold boot keeps every DRAM and HBM byte is log entry
14 (DESIGN CHOICE): the spec is silent, and the clause is the model's. -/
def Obligations.SystemEvents : Prop :=
  (∀ (s : State), s.pkg.power = true →
    happens .dbgctlHalt s (s.haltRequest true) ∧ (s.haltRequest true).core.reqs.halt = true ∧
    happens .dbgctlStep s { s with core := { s.core with dbgStep := true } } ∧
    (∀ on, happens (.dbgctlQuiesce on) s { s with core := { s.core with dbgQuiesce := on } }) ∧
    happens .preemptionRequest s (if s.core.run = .running then s.request fun r => { r with preempt := true } else s) ∧
    happens .trapEntry s s.takeRequest ∧
    (s.saveDue = false → s.async.isNone = true → s.takeRequest = s) ∧
    happens .waitWake s s.wake ∧ (s.wakeable = false → s.wake = s) ∧
    happens .watchdogExpiry s s.expire ∧ (s.watchdogDue = false → s.expire = s) ∧
    (s.watchdogDue = true → s.core.control = false → s.expire.core.reqs.wdog = true ∧ s.expire.ctx.sys.wdog.en = false) ∧
    happens .haltTreeStop s s.haltStop ∧
    (s.core.run = .running → s.core.control = false → s.haltStop.core.reqs.stop = some 1) ∧
    happens .haltTreeFreeze s s.freezeAll ∧ s.freezeAll.pkg.frozen = true ∧
    (s.core.run = .running → s.core.control = false → s.freezeAll.core.run = .frozen ∧
      (s.memoriesWf = true → s.freezeAll.pkg.poison = [] → (s.freezeAll.pkg.mem.word s.freezeAll.saggar).getLsbD 61 = true)) ∧
    (∀ n, happens (.kernelCrash n) s (if 1 ≤ n ∧ n ≤ 4 then s.crash n else s)) ∧
    (∀ o i, happens (.selfTestPass o i) s (s.pass o i) ∧ happens (.functionFailed o i) s (s.fail o i) ∧
      (s.readyBit (o + 0x800) i = true → s.pass o i = s) ∧ (s.readyBit o i = true → s.fail o i = s)) ∧
    (∀ l, happens (.linkFailed l) s (s.failLink l)) ∧
    (∀ p i w, happens (.exportWindowNarrow p i w) s { s with pkg := { s.pkg with exports := narrowWindow p w i s.pkg.exports } }) ∧
    (∀ rank n tables, happens (.domainFormation rank n tables) s (s.form rank n tables) ∧
      (s.form rank n tables = s ∨ ((s.form rank n tables).pkg.rank = rank ∧ (s.form rank n tables).pkg.domain = n ∧ rank < n ∧ n ≤ 8)))) ∧
  (∀ s : State, exec .warmReboot s = .next s.warmReboot ∧ s.warmReboot.pkg.power = true ∧
    (∀ image, exec (.coldBoot image) s = .next (s.coldBoot image) ∧ (s.coldBoot image).pkg.power = true ∧
      (s.coldBoot image).pkg.ready = [] ∧ (s.coldBoot image).core.control = s.core.control ∧
      (∀ c ∈ (s.coldBoot image).pkg.mem, tierOf c.1 ≠ .slice) ∧
      (∀ c ∈ s.pkg.mem, tierOf c.1 ≠ .slice → c ∈ (s.coldBoot image).pkg.mem)))
end

