-- ==== Sys2Proof/Laws/Memory.lean ====
section
/-! SUPPORT. The laws of memories: reading after writing, and that every operation keeps the canonical form. -/

namespace Sys2Proof.Machine

/-- A form above a bound is one above every lower bound. -/
theorem Memory.wfFrom_mono {m : Memory} {lo lo' : Nat} (h : lo' ≤ lo) (hm : Memory.wfFrom lo m = true) :
    Memory.wfFrom lo' m = true := by
  cases m with
  | nil => rfl
  | cons c m =>
    simp only [Memory.wfFrom, Bool.and_eq_true, decide_eq_true_eq, bne_iff_ne, ne_eq] at hm ⊢
    exact ⟨⟨by omega, hm.1.2⟩, hm.2⟩

/-- A write keeps the canonical form above every bound that its address respects. -/
theorem Memory.write_wfFrom {m : Memory} {lo a : Nat} {b : Byte} (ha : lo ≤ a) (hm : Memory.wfFrom lo m = true) :
    Memory.wfFrom lo (m.write a b) = true := by
  induction m generalizing lo with
  | nil => simp only [Memory.write]; split <;> simp_all [Memory.wfFrom]
  | cons c m ih =>
    obtain ⟨x, y⟩ := c
    simp only [Memory.wfFrom, Bool.and_eq_true, decide_eq_true_eq, bne_iff_ne, ne_eq] at hm
    obtain ⟨⟨h1, h2⟩, h3⟩ := hm
    simp only [Memory.write]
    split
    · split
      · simp_all [Memory.wfFrom]
      · simp only [Memory.wfFrom, Bool.and_eq_true, decide_eq_true_eq, bne_iff_ne, ne_eq]
        exact ⟨⟨ha, by assumption⟩, ⟨by omega, h2⟩, h3⟩
    · split
      · split
        · exact Memory.wfFrom_mono (by omega) h3
        · simp only [Memory.wfFrom, Bool.and_eq_true, decide_eq_true_eq, bne_iff_ne, ne_eq]
          subst_vars
          exact ⟨⟨ha, by assumption⟩, h3⟩
      · simp only [Memory.wfFrom, Bool.and_eq_true, decide_eq_true_eq, bne_iff_ne, ne_eq]
        exact ⟨⟨h1, h2⟩, ih (by omega) h3⟩

/-- A write keeps the canonical form. -/
theorem Memory.write_wf {m : Memory} {a : Nat} {b : Byte} (hm : m.wf = true) : (m.write a b).wf = true :=
  Memory.write_wfFrom (Nat.zero_le a) hm

/-- Writing bytes keeps the canonical form. -/
theorem Memory.store_wf {m : Memory} {a n x : Nat} (hm : m.wf = true) : (m.store a n x).wf = true := by
  induction n generalizing m a x with
  | zero => exact hm
  | succ n ih => exact ih (Memory.write_wf hm)

/-- Copying bytes keeps the canonical form of the destination. -/
theorem Memory.copy_wf {dst src : Memory} {d a n : Nat} (hm : dst.wf = true) : (dst.copy d src a n).wf = true := by
  induction n generalizing dst d a with
  | zero => exact hm
  | succ n ih => exact ih (Memory.write_wf hm)

/-- Writing words keeps the canonical form. -/
theorem Memory.putWords_wf {m : Memory} {a : Nat} {ws : List Word} (hm : m.wf = true) : (m.putWords a ws).wf = true := by
  induction ws generalizing m a with
  | nil => exact hm
  | cons w ws ih => exact ih (Memory.store_wf hm)

/-- Leaving cells out keeps the canonical form. -/
theorem Memory.filter_wfFrom {m : Memory} {lo : Nat} (p : Host.Cell → Bool) (hm : Memory.wfFrom lo m = true) :
    Memory.wfFrom lo (m.filter p) = true := by
  induction m generalizing lo with
  | nil => rfl
  | cons c m ih =>
    simp only [Memory.wfFrom, Bool.and_eq_true, decide_eq_true_eq, bne_iff_ne, ne_eq] at hm
    simp only [List.filter_cons]
    split
    · simp only [Memory.wfFrom, Bool.and_eq_true, decide_eq_true_eq, bne_iff_ne, ne_eq]
      exact ⟨hm.1, ih hm.2⟩
    · exact Memory.wfFrom_mono (by omega) (ih hm.2)

/-- Leaving cells out keeps the canonical form. -/
theorem Memory.filter_wf {m : Memory} (p : Host.Cell → Bool) (hm : m.wf = true) : Memory.wf (m.filter p) = true :=
  Memory.filter_wfFrom p hm

/-- Cells above a bound, moved down by it, keep the form. -/
theorem Memory.lower_wfFrom {m : Memory} {lo d : Nat} (hd : d ≤ lo) (hm : Memory.wfFrom lo m = true) :
    Memory.wfFrom (lo - d) (m.map fun c => (c.1 - d, c.2)) = true := by
  induction m generalizing lo with
  | nil => rfl
  | cons c m ih =>
    simp only [Memory.wfFrom, Bool.and_eq_true, decide_eq_true_eq, bne_iff_ne, ne_eq] at hm
    simp only [List.map_cons, Memory.wfFrom, Bool.and_eq_true, decide_eq_true_eq, bne_iff_ne, ne_eq]
    have h := ih (lo := c.1 + 1) (by omega) hm.2
    exact ⟨⟨by omega, hm.1.2⟩, by rwa [show c.1 + 1 - d = c.1 - d + 1 by omega] at h⟩

/-- A form whose every address lies at or above a bound is one above that bound. -/
theorem Memory.wfFrom_of_le {m : Memory} {lo lo' : Nat} (h : ∀ c ∈ m, lo' ≤ c.1) (hm : Memory.wfFrom lo m = true) :
    Memory.wfFrom lo' m = true := by
  cases m with
  | nil => rfl
  | cons c m =>
    simp only [Memory.wfFrom, Bool.and_eq_true, decide_eq_true_eq, bne_iff_ne, ne_eq] at hm ⊢
    exact ⟨⟨h c (by simp), hm.1.2⟩, hm.2⟩

/-- A slice of a memory in canonical form is in canonical form. -/
theorem Memory.slice_wf {m : Memory} {lo hi : Nat} (hm : m.wf = true) : (m.slice lo hi).wf = true := by
  have h := Memory.filter_wf (fun c => lo ≤ c.1 && c.1 < hi) hm
  have h' := Memory.wfFrom_of_le (lo' := lo) (fun c hc => by simp at hc; exact hc.2.1) h
  exact Memory.wfFrom_mono (Nat.zero_le _) (Memory.lower_wfFrom (Nat.le_refl lo) h')

/-- Cells put in canonical form. -/
theorem Memory.canon_wf (m : Memory) : m.canon.wf = true := by
  unfold Memory.canon
  split
  · assumption
  · have go : ∀ (l r : Memory), r.wf = true → Memory.wf (l.foldl (fun r c => Memory.write r c.1 c.2) r) = true := by
      intro l
      induction l with
      | nil => exact fun _ h => h
      | cons c l ih => exact fun r h => ih _ (Memory.write_wf h)
    exact go m [] rfl

/-- Below every cell there is nothing listed. -/
theorem Memory.read_below {m : Memory} {lo a : Nat} (h : a < lo) (hm : Memory.wfFrom lo m = true) : m.read a = unlisted := by
  cases m with
  | nil => rfl
  | cons c m =>
    simp only [Memory.wfFrom, Bool.and_eq_true, decide_eq_true_eq, bne_iff_ne, ne_eq] at hm
    simp only [Memory.read]
    rw [if_neg (by omega), if_pos (by omega)]

/-- A byte reads after a write as the byte written, and every other byte reads as before (R2). -/
theorem Memory.read_write {m : Memory} {lo : Nat} (hm : Memory.wfFrom lo m = true) (a x : Nat) (b : Byte) :
    (m.write a b).read x = if x = a then b else m.read x := by
  induction m generalizing lo with
  | nil => simp only [Memory.write]; split <;> (simp only [Memory.read]; split <;> simp_all)
  | cons c m ih =>
    obtain ⟨y, z⟩ := c
    have hm' := hm
    simp only [Memory.wfFrom, Bool.and_eq_true, decide_eq_true_eq, bne_iff_ne, ne_eq] at hm'
    have below : ∀ q, q < y + 1 → Memory.read m q = unlisted := fun q hq => Memory.read_below hq hm'.2
    rcases Nat.lt_trichotomy a y with h | h | h
    · simp only [Memory.write, if_pos h]
      by_cases hb : b = unlisted
      · rw [if_pos hb]
        by_cases hx : x = a
        · simp [Memory.read, hx, hb, h, Nat.ne_of_lt h]
        · rw [if_neg hx]
      · rw [if_neg hb]
        simp only [Memory.read]
        by_cases hx : x = a
        · simp [hx]
        · by_cases hl : x < a
          · rw [if_neg hx, if_pos hl, if_neg hx, if_neg (by omega), if_pos (by omega)]
          · simp [hx, hl]
    · subst h
      simp only [Memory.write, Nat.lt_irrefl, if_false, if_true]
      by_cases hb : b = unlisted
      · rw [if_pos hb]
        by_cases hx : x = a
        · subst hx; simp [below x (by omega), hb]
        · by_cases hl : x < a
          · simp [Memory.read, hx, hl, below x (by omega)]
          · simp [Memory.read, hx, hl]
      · rw [if_neg hb]
        by_cases hx : x = a <;> simp [Memory.read, hx]
    · simp only [Memory.write]
      rw [if_neg (by omega), if_neg (by omega)]
      simp only [Memory.read]
      rw [ih hm'.2]
      by_cases hx : x = y
      · subst hx; rw [if_pos rfl, if_neg (by omega), if_pos rfl]
      · by_cases hl : x < y
        · rw [if_neg hx, if_pos hl, if_neg (by omega), if_neg hx, if_pos hl]
        · simp [hx, hl]

/-- Storing bytes leaves every byte outside them as it was. -/
theorem Memory.store_read {m : Memory} (hm : m.wf = true) (a n x y : Nat) (h : y < a ∨ a + n ≤ y) :
    (m.store a n x).read y = m.read y := by
  induction n generalizing m a x with
  | zero => rfl
  | succ n ih =>
    simp only [Memory.store]
    rw [ih (Memory.write_wf hm) (a + 1) (x / 256) (by omega), Memory.read_write hm, if_neg (by omega)]

/-- The bytes of a store read back, little-endian (R2). -/
theorem Memory.load_store {m : Memory} (hm : m.wf = true) (a n x : Nat) : (m.store a n x).load a n = x % 256 ^ n := by
  induction n generalizing m a x with
  | zero => simp [Memory.load, Nat.mod_one]
  | succ n ih =>
    simp only [Memory.store, Memory.load]
    rw [ih (Memory.write_wf hm), Memory.store_read (Memory.write_wf hm) _ _ _ _ (by omega), Memory.read_write hm, if_pos rfl]
    simp only [BitVec.toNat_ofNat, Nat.reducePow]
    rw [Nat.pow_succ, Nat.mul_comm (256 ^ n) 256, Nat.mod_mul]

/-- Bytes written one by one are a store of them. -/
theorem Memory.writes_store (m : Memory) (a n x : Nat) :
    (List.range n).foldl (fun m i => m.write (a + i) (BitVec.ofNat 8 (x / 2 ^ (8 * i)))) m = m.store a n x := by
  induction n generalizing m a x with
  | zero => rfl
  | succ n ih =>
    rw [List.range_succ_eq_map, List.foldl_cons, List.foldl_map, Memory.store, ← ih (m.write a (BitVec.ofNat 8 x))]
    have e : ∀ i, x / 2 ^ (8 * (i + 1)) = x / 256 / 2 ^ (8 * i) := fun i => by
      rw [Nat.div_div_eq_div_mul, show 2 ^ (8 * (i + 1)) = 256 * 2 ^ (8 * i) by rw [Nat.mul_add, Nat.pow_add]; omega]
    simp only [Nat.succ_eq_add_one, e, Nat.mul_zero, Nat.pow_zero, Nat.div_one, Nat.add_zero, Nat.add_assoc, Nat.add_comm 1]

end Sys2Proof.Machine
end

