-- ==== Sys2Proof/Laws/State.lean ====
section
/-! SUPPORT. One lemma per field for each of the small updates of the state: what it writes, and that it leaves the rest. -/

namespace Sys2Proof.Machine

@[simp] theorem State.setTx_core (t : Tx) (s : State) : (s.setTx t).core = s.core := rfl
@[simp] theorem State.setTx_cl (t : Tx) (s : State) : (s.setTx t).cl = s.cl := rfl
@[simp] theorem State.setTx_pkg (t : Tx) (s : State) : (s.setTx t).pkg = s.pkg := rfl
@[simp] theorem State.setTx_agenda (t : Tx) (s : State) : (s.setTx t).agenda = s.agenda := rfl
@[simp] theorem State.setTx_turns (t : Tx) (s : State) : (s.setTx t).turns = s.turns := rfl
@[simp] theorem State.setTx_regs (t : Tx) (s : State) : (s.setTx t).ctx.regs = s.ctx.regs := rfl
@[simp] theorem State.setTx_pc (t : Tx) (s : State) : (s.setTx t).ctx.pc = s.ctx.pc := rfl
@[simp] theorem State.setTx_fmode (t : Tx) (s : State) : (s.setTx t).ctx.fmode = s.ctx.fmode := rfl
@[simp] theorem State.setTx_retired (t : Tx) (s : State) : (s.setTx t).ctx.retired = s.ctx.retired := rfl
@[simp] theorem State.setTx_rep (t : Tx) (s : State) : (s.setTx t).ctx.rep = s.ctx.rep := rfl
@[simp] theorem State.setTx_trap (t : Tx) (s : State) : (s.setTx t).ctx.trap = s.ctx.trap := rfl
@[simp] theorem State.setTx_sys (t : Tx) (s : State) : (s.setTx t).ctx.sys = s.ctx.sys := rfl
@[simp] theorem State.setTx_tiles (t : Tx) (s : State) : (s.setTx t).ctx.tiles = s.ctx.tiles := rfl
@[simp] theorem State.setTx_cb2 (t : Tx) (s : State) : (s.setTx t).ctx.cb2 = s.ctx.cb2 := rfl
@[simp] theorem State.setTx_mq8 (t : Tx) (s : State) : (s.setTx t).ctx.mq8 = s.ctx.mq8 := rfl
@[simp] theorem State.setTx_streams (t : Tx) (s : State) : (s.setTx t).ctx.streams = s.ctx.streams := rfl
@[simp] theorem State.setTx_tx (t : Tx) (s : State) : (s.setTx t).ctx.tx = t := rfl
@[simp] theorem State.setTx_mailbox (t : Tx) (s : State) : (s.setTx t).ctx.mailbox = s.ctx.mailbox := rfl
@[simp] theorem State.setTx_spill (t : Tx) (s : State) : (s.setTx t).ctx.spill = s.ctx.spill := rfl
@[simp] theorem State.setTx_claims (t : Tx) (s : State) : (s.setTx t).ctx.claims = s.ctx.claims := rfl
@[simp] theorem State.setTx_address (t : Tx) (s : State) : (s.setTx t).ctx.address = s.ctx.address := rfl

@[simp] theorem State.setPart_ctx (p : Partition) (s : State) : (s.setPart p).ctx = s.ctx := rfl
@[simp] theorem State.setPart_core (p : Partition) (s : State) : (s.setPart p).core = s.core := rfl
@[simp] theorem State.setPart_pkg (p : Partition) (s : State) : (s.setPart p).pkg = s.pkg := rfl
@[simp] theorem State.setPart_agenda (p : Partition) (s : State) : (s.setPart p).agenda = s.agenda := rfl
@[simp] theorem State.setPart_turns (p : Partition) (s : State) : (s.setPart p).turns = s.turns := rfl
@[simp] theorem State.setPart_index (p : Partition) (s : State) : (s.setPart p).cl.index = s.cl.index := rfl
@[simp] theorem State.setPart_stores (p : Partition) (s : State) : (s.setPart p).cl.stores = s.cl.stores := rfl
@[simp] theorem State.setPart_spad (p : Partition) (s : State) : (s.setPart p).cl.spad = s.cl.spad := rfl
@[simp] theorem State.setPart_bad (p : Partition) (s : State) : (s.setPart p).cl.bad = s.cl.bad := rfl
@[simp] theorem State.setPart_phase (p : Partition) (s : State) : (s.setPart p).cl.phase = s.cl.phase := rfl
@[simp] theorem State.setPart_pointers (p : Partition) (s : State) : (s.setPart p).cl.pointers = s.cl.pointers := rfl
@[simp] theorem State.setPart_bankBusy (p : Partition) (s : State) : (s.setPart p).cl.bankBusy = s.cl.bankBusy := rfl
@[simp] theorem State.setPart_bars (p : Partition) (s : State) : (s.setPart p).cl.bars = s.cl.bars := rfl
@[simp] theorem State.setPart_mutexes (p : Partition) (s : State) : (s.setPart p).cl.mutexes = s.cl.mutexes := rfl
@[simp] theorem State.setPart_events (p : Partition) (s : State) : (s.setPart p).cl.events = s.cl.events := rfl
@[simp] theorem State.setPart_gangMembers (p : Partition) (s : State) : (s.setPart p).cl.gangMembers = s.cl.gangMembers := rfl
@[simp] theorem State.setPart_gangArrived (p : Partition) (s : State) : (s.setPart p).cl.gangArrived = s.cl.gangArrived := rfl
@[simp] theorem State.setPart_gangTx (p : Partition) (s : State) : (s.setPart p).cl.gangTx = s.cl.gangTx := rfl
@[simp] theorem State.setPart_arrivals (p : Partition) (s : State) : (s.setPart p).cl.arrivals = s.cl.arrivals := rfl
@[simp] theorem State.setPart_bstore (p : Partition) (s : State) : (s.setPart p).cl.bstore = s.cl.bstore := rfl
@[simp] theorem State.setPart_tags (p : Partition) (s : State) : (s.setPart p).cl.tags = s.cl.tags := rfl
@[simp] theorem State.setPart_snaps (p : Partition) (s : State) : (s.setPart p).cl.snaps = s.cl.snaps := rfl
@[simp] theorem State.setPart_badCells (p : Partition) (s : State) : (s.setPart p).cl.badCells = s.cl.badCells := rfl
@[simp] theorem State.setPart_cbs (p : Partition) (s : State) : (s.setPart p).cl.cbs = s.cl.cbs := rfl
@[simp] theorem State.setPart_launchQ (p : Partition) (s : State) : (s.setPart p).cl.launchQ = s.cl.launchQ := rfl
@[simp] theorem State.setPart_overflow (p : Partition) (s : State) : (s.setPart p).cl.overflow = s.cl.overflow := rfl
@[simp] theorem State.setPart_outRecs (p : Partition) (s : State) : (s.setPart p).cl.outRecs = s.cl.outRecs := rfl
@[simp] theorem State.setPart_dispatched (p : Partition) (s : State) : (s.setPart p).cl.dispatched = s.cl.dispatched := rfl
@[simp] theorem State.setPart_busy (p : Partition) (s : State) : (s.setPart p).cl.busy = s.cl.busy := rfl
@[simp] theorem State.setPart_tasks (p : Partition) (s : State) : (s.setPart p).cl.tasks = s.cl.tasks := rfl
@[simp] theorem State.setPart_slaves (p : Partition) (s : State) : (s.setPart p).cl.slaves = s.cl.slaves := rfl
@[simp] theorem State.setPart_xeng (p : Partition) (s : State) : (s.setPart p).cl.xeng = s.cl.xeng := rfl
@[simp] theorem State.setPart_part (p : Partition) (s : State) : (s.setPart p).cl.part = p := rfl
@[simp] theorem State.setPart_gear (p : Partition) (s : State) : (s.setPart p).cl.gear = s.cl.gear := rfl
@[simp] theorem State.setPart_gearReqs (p : Partition) (s : State) : (s.setPart p).cl.gearReqs = s.cl.gearReqs := rfl
@[simp] theorem State.setPart_arb (p : Partition) (s : State) : (s.setPart p).cl.arb = s.cl.arb := rfl
@[simp] theorem State.setPart_queues (p : Partition) (s : State) : (s.setPart p).cl.queues = s.cl.queues := rfl
@[simp] theorem State.setPart_jobs (p : Partition) (s : State) : (s.setPart p).cl.jobs = s.cl.jobs := rfl
@[simp] theorem State.setPart_turn (p : Partition) (s : State) : (s.setPart p).cl.turn = s.cl.turn := rfl
@[simp] theorem State.setPart_inbound (p : Partition) (s : State) : (s.setPart p).cl.inbound = s.cl.inbound := rfl
@[simp] theorem State.setPart_addrTable (p : Partition) (s : State) : (s.setPart p).cl.addrTable = s.cl.addrTable := rfl
@[simp] theorem State.setPart_others (p : Partition) (s : State) : (s.setPart p).cl.others = s.cl.others := rfl
@[simp] theorem State.setPart_addresses (p : Partition) (s : State) : (s.setPart p).cl.addresses = s.cl.addresses := rfl
@[simp] theorem State.setPart_gangs (p : Partition) (s : State) : (s.setPart p).cl.gangs = s.cl.gangs := rfl

@[simp] theorem State.setXeng_ctx (x : Exchange) (s : State) : (s.setXeng x).ctx = s.ctx := rfl
@[simp] theorem State.setXeng_core (x : Exchange) (s : State) : (s.setXeng x).core = s.core := rfl
@[simp] theorem State.setXeng_pkg (x : Exchange) (s : State) : (s.setXeng x).pkg = s.pkg := rfl
@[simp] theorem State.setXeng_agenda (x : Exchange) (s : State) : (s.setXeng x).agenda = s.agenda := rfl
@[simp] theorem State.setXeng_turns (x : Exchange) (s : State) : (s.setXeng x).turns = s.turns := rfl
@[simp] theorem State.setXeng_index (x : Exchange) (s : State) : (s.setXeng x).cl.index = s.cl.index := rfl
@[simp] theorem State.setXeng_stores (x : Exchange) (s : State) : (s.setXeng x).cl.stores = s.cl.stores := rfl
@[simp] theorem State.setXeng_spad (x : Exchange) (s : State) : (s.setXeng x).cl.spad = s.cl.spad := rfl
@[simp] theorem State.setXeng_bad (x : Exchange) (s : State) : (s.setXeng x).cl.bad = s.cl.bad := rfl
@[simp] theorem State.setXeng_phase (x : Exchange) (s : State) : (s.setXeng x).cl.phase = s.cl.phase := rfl
@[simp] theorem State.setXeng_pointers (x : Exchange) (s : State) : (s.setXeng x).cl.pointers = s.cl.pointers := rfl
@[simp] theorem State.setXeng_bankBusy (x : Exchange) (s : State) : (s.setXeng x).cl.bankBusy = s.cl.bankBusy := rfl
@[simp] theorem State.setXeng_bars (x : Exchange) (s : State) : (s.setXeng x).cl.bars = s.cl.bars := rfl
@[simp] theorem State.setXeng_mutexes (x : Exchange) (s : State) : (s.setXeng x).cl.mutexes = s.cl.mutexes := rfl
@[simp] theorem State.setXeng_events (x : Exchange) (s : State) : (s.setXeng x).cl.events = s.cl.events := rfl
@[simp] theorem State.setXeng_gangMembers (x : Exchange) (s : State) : (s.setXeng x).cl.gangMembers = s.cl.gangMembers := rfl
@[simp] theorem State.setXeng_gangArrived (x : Exchange) (s : State) : (s.setXeng x).cl.gangArrived = s.cl.gangArrived := rfl
@[simp] theorem State.setXeng_gangTx (x : Exchange) (s : State) : (s.setXeng x).cl.gangTx = s.cl.gangTx := rfl
@[simp] theorem State.setXeng_arrivals (x : Exchange) (s : State) : (s.setXeng x).cl.arrivals = s.cl.arrivals := rfl
@[simp] theorem State.setXeng_bstore (x : Exchange) (s : State) : (s.setXeng x).cl.bstore = s.cl.bstore := rfl
@[simp] theorem State.setXeng_tags (x : Exchange) (s : State) : (s.setXeng x).cl.tags = s.cl.tags := rfl
@[simp] theorem State.setXeng_snaps (x : Exchange) (s : State) : (s.setXeng x).cl.snaps = s.cl.snaps := rfl
@[simp] theorem State.setXeng_badCells (x : Exchange) (s : State) : (s.setXeng x).cl.badCells = s.cl.badCells := rfl
@[simp] theorem State.setXeng_cbs (x : Exchange) (s : State) : (s.setXeng x).cl.cbs = s.cl.cbs := rfl
@[simp] theorem State.setXeng_launchQ (x : Exchange) (s : State) : (s.setXeng x).cl.launchQ = s.cl.launchQ := rfl
@[simp] theorem State.setXeng_overflow (x : Exchange) (s : State) : (s.setXeng x).cl.overflow = s.cl.overflow := rfl
@[simp] theorem State.setXeng_outRecs (x : Exchange) (s : State) : (s.setXeng x).cl.outRecs = s.cl.outRecs := rfl
@[simp] theorem State.setXeng_dispatched (x : Exchange) (s : State) : (s.setXeng x).cl.dispatched = s.cl.dispatched := rfl
@[simp] theorem State.setXeng_busy (x : Exchange) (s : State) : (s.setXeng x).cl.busy = s.cl.busy := rfl
@[simp] theorem State.setXeng_tasks (x : Exchange) (s : State) : (s.setXeng x).cl.tasks = s.cl.tasks := rfl
@[simp] theorem State.setXeng_slaves (x : Exchange) (s : State) : (s.setXeng x).cl.slaves = s.cl.slaves := rfl
@[simp] theorem State.setXeng_xeng (x : Exchange) (s : State) : (s.setXeng x).cl.xeng = x := rfl
@[simp] theorem State.setXeng_part (x : Exchange) (s : State) : (s.setXeng x).cl.part = s.cl.part := rfl
@[simp] theorem State.setXeng_gear (x : Exchange) (s : State) : (s.setXeng x).cl.gear = s.cl.gear := rfl
@[simp] theorem State.setXeng_gearReqs (x : Exchange) (s : State) : (s.setXeng x).cl.gearReqs = s.cl.gearReqs := rfl
@[simp] theorem State.setXeng_arb (x : Exchange) (s : State) : (s.setXeng x).cl.arb = s.cl.arb := rfl
@[simp] theorem State.setXeng_queues (x : Exchange) (s : State) : (s.setXeng x).cl.queues = s.cl.queues := rfl
@[simp] theorem State.setXeng_jobs (x : Exchange) (s : State) : (s.setXeng x).cl.jobs = s.cl.jobs := rfl
@[simp] theorem State.setXeng_turn (x : Exchange) (s : State) : (s.setXeng x).cl.turn = s.cl.turn := rfl
@[simp] theorem State.setXeng_inbound (x : Exchange) (s : State) : (s.setXeng x).cl.inbound = s.cl.inbound := rfl
@[simp] theorem State.setXeng_addrTable (x : Exchange) (s : State) : (s.setXeng x).cl.addrTable = s.cl.addrTable := rfl
@[simp] theorem State.setXeng_others (x : Exchange) (s : State) : (s.setXeng x).cl.others = s.cl.others := rfl
@[simp] theorem State.setXeng_addresses (x : Exchange) (s : State) : (s.setXeng x).cl.addresses = s.cl.addresses := rfl
@[simp] theorem State.setXeng_gangs (x : Exchange) (s : State) : (s.setXeng x).cl.gangs = s.cl.gangs := rfl

@[simp] theorem State.setGear_ctx (g : Gear) (s : State) : (s.setGear g).ctx = s.ctx := rfl
@[simp] theorem State.setGear_core (g : Gear) (s : State) : (s.setGear g).core = s.core := rfl
@[simp] theorem State.setGear_pkg (g : Gear) (s : State) : (s.setGear g).pkg = s.pkg := rfl
@[simp] theorem State.setGear_agenda (g : Gear) (s : State) : (s.setGear g).agenda = s.agenda := rfl
@[simp] theorem State.setGear_turns (g : Gear) (s : State) : (s.setGear g).turns = s.turns := rfl
@[simp] theorem State.setGear_index (g : Gear) (s : State) : (s.setGear g).cl.index = s.cl.index := rfl
@[simp] theorem State.setGear_stores (g : Gear) (s : State) : (s.setGear g).cl.stores = s.cl.stores := rfl
@[simp] theorem State.setGear_spad (g : Gear) (s : State) : (s.setGear g).cl.spad = s.cl.spad := rfl
@[simp] theorem State.setGear_bad (g : Gear) (s : State) : (s.setGear g).cl.bad = s.cl.bad := rfl
@[simp] theorem State.setGear_phase (g : Gear) (s : State) : (s.setGear g).cl.phase = s.cl.phase := rfl
@[simp] theorem State.setGear_pointers (g : Gear) (s : State) : (s.setGear g).cl.pointers = s.cl.pointers := rfl
@[simp] theorem State.setGear_bankBusy (g : Gear) (s : State) : (s.setGear g).cl.bankBusy = s.cl.bankBusy := rfl
@[simp] theorem State.setGear_bars (g : Gear) (s : State) : (s.setGear g).cl.bars = s.cl.bars := rfl
@[simp] theorem State.setGear_mutexes (g : Gear) (s : State) : (s.setGear g).cl.mutexes = s.cl.mutexes := rfl
@[simp] theorem State.setGear_events (g : Gear) (s : State) : (s.setGear g).cl.events = s.cl.events := rfl
@[simp] theorem State.setGear_gangMembers (g : Gear) (s : State) : (s.setGear g).cl.gangMembers = s.cl.gangMembers := rfl
@[simp] theorem State.setGear_gangArrived (g : Gear) (s : State) : (s.setGear g).cl.gangArrived = s.cl.gangArrived := rfl
@[simp] theorem State.setGear_gangTx (g : Gear) (s : State) : (s.setGear g).cl.gangTx = s.cl.gangTx := rfl
@[simp] theorem State.setGear_arrivals (g : Gear) (s : State) : (s.setGear g).cl.arrivals = s.cl.arrivals := rfl
@[simp] theorem State.setGear_bstore (g : Gear) (s : State) : (s.setGear g).cl.bstore = s.cl.bstore := rfl
@[simp] theorem State.setGear_tags (g : Gear) (s : State) : (s.setGear g).cl.tags = s.cl.tags := rfl
@[simp] theorem State.setGear_snaps (g : Gear) (s : State) : (s.setGear g).cl.snaps = s.cl.snaps := rfl
@[simp] theorem State.setGear_badCells (g : Gear) (s : State) : (s.setGear g).cl.badCells = s.cl.badCells := rfl
@[simp] theorem State.setGear_cbs (g : Gear) (s : State) : (s.setGear g).cl.cbs = s.cl.cbs := rfl
@[simp] theorem State.setGear_launchQ (g : Gear) (s : State) : (s.setGear g).cl.launchQ = s.cl.launchQ := rfl
@[simp] theorem State.setGear_overflow (g : Gear) (s : State) : (s.setGear g).cl.overflow = s.cl.overflow := rfl
@[simp] theorem State.setGear_outRecs (g : Gear) (s : State) : (s.setGear g).cl.outRecs = s.cl.outRecs := rfl
@[simp] theorem State.setGear_dispatched (g : Gear) (s : State) : (s.setGear g).cl.dispatched = s.cl.dispatched := rfl
@[simp] theorem State.setGear_busy (g : Gear) (s : State) : (s.setGear g).cl.busy = s.cl.busy := rfl
@[simp] theorem State.setGear_tasks (g : Gear) (s : State) : (s.setGear g).cl.tasks = s.cl.tasks := rfl
@[simp] theorem State.setGear_slaves (g : Gear) (s : State) : (s.setGear g).cl.slaves = s.cl.slaves := rfl
@[simp] theorem State.setGear_xeng (g : Gear) (s : State) : (s.setGear g).cl.xeng = s.cl.xeng := rfl
@[simp] theorem State.setGear_part (g : Gear) (s : State) : (s.setGear g).cl.part = s.cl.part := rfl
@[simp] theorem State.setGear_gear (g : Gear) (s : State) : (s.setGear g).cl.gear = g := rfl
@[simp] theorem State.setGear_gearReqs (g : Gear) (s : State) : (s.setGear g).cl.gearReqs = s.cl.gearReqs := rfl
@[simp] theorem State.setGear_arb (g : Gear) (s : State) : (s.setGear g).cl.arb = s.cl.arb := rfl
@[simp] theorem State.setGear_queues (g : Gear) (s : State) : (s.setGear g).cl.queues = s.cl.queues := rfl
@[simp] theorem State.setGear_jobs (g : Gear) (s : State) : (s.setGear g).cl.jobs = s.cl.jobs := rfl
@[simp] theorem State.setGear_turn (g : Gear) (s : State) : (s.setGear g).cl.turn = s.cl.turn := rfl
@[simp] theorem State.setGear_inbound (g : Gear) (s : State) : (s.setGear g).cl.inbound = s.cl.inbound := rfl
@[simp] theorem State.setGear_addrTable (g : Gear) (s : State) : (s.setGear g).cl.addrTable = s.cl.addrTable := rfl
@[simp] theorem State.setGear_others (g : Gear) (s : State) : (s.setGear g).cl.others = s.cl.others := rfl
@[simp] theorem State.setGear_addresses (g : Gear) (s : State) : (s.setGear g).cl.addresses = s.cl.addresses := rfl
@[simp] theorem State.setGear_gangs (g : Gear) (s : State) : (s.setGear g).cl.gangs = s.cl.gangs := rfl

@[simp] theorem State.setSeq_ctx (q : Sequencer) (s : State) : (s.setSeq q).ctx = s.ctx := rfl
@[simp] theorem State.setSeq_core (q : Sequencer) (s : State) : (s.setSeq q).core = s.core := rfl
@[simp] theorem State.setSeq_cl (q : Sequencer) (s : State) : (s.setSeq q).cl = s.cl := rfl
@[simp] theorem State.setSeq_agenda (q : Sequencer) (s : State) : (s.setSeq q).agenda = s.agenda := rfl
@[simp] theorem State.setSeq_turns (q : Sequencer) (s : State) : (s.setSeq q).turns = s.turns := rfl
@[simp] theorem State.setSeq_cycle (q : Sequencer) (s : State) : (s.setSeq q).pkg.cycle = s.pkg.cycle := rfl
@[simp] theorem State.setSeq_rank (q : Sequencer) (s : State) : (s.setSeq q).pkg.rank = s.pkg.rank := rfl
@[simp] theorem State.setSeq_mem (q : Sequencer) (s : State) : (s.setSeq q).pkg.mem = s.pkg.mem := rfl
@[simp] theorem State.setSeq_empty (q : Sequencer) (s : State) : (s.setSeq q).pkg.empty = s.pkg.empty := rfl
@[simp] theorem State.setSeq_poison (q : Sequencer) (s : State) : (s.setSeq q).pkg.poison = s.pkg.poison := rfl
@[simp] theorem State.setSeq_kept (q : Sequencer) (s : State) : (s.setSeq q).pkg.kept = s.pkg.kept := rfl
@[simp] theorem State.setSeq_deferred (q : Sequencer) (s : State) : (s.setSeq q).pkg.deferred = s.pkg.deferred := rfl
@[simp] theorem State.setSeq_lines (q : Sequencer) (s : State) : (s.setSeq q).pkg.lines = s.pkg.lines := rfl
@[simp] theorem State.setSeq_stayHome (q : Sequencer) (s : State) : (s.setSeq q).pkg.stayHome = s.pkg.stayHome := rfl
@[simp] theorem State.setSeq_predictor (q : Sequencer) (s : State) : (s.setSeq q).pkg.predictor = s.pkg.predictor := rfl
@[simp] theorem State.setSeq_seq (q : Sequencer) (s : State) : (s.setSeq q).pkg.seq = q := rfl
@[simp] theorem State.setSeq_exports (q : Sequencer) (s : State) : (s.setSeq q).pkg.exports = s.pkg.exports := rfl
@[simp] theorem State.setSeq_domain (q : Sequencer) (s : State) : (s.setSeq q).pkg.domain = s.pkg.domain := rfl
@[simp] theorem State.setSeq_ready (q : Sequencer) (s : State) : (s.setSeq q).pkg.ready = s.pkg.ready := rfl
@[simp] theorem State.setSeq_linksDown (q : Sequencer) (s : State) : (s.setSeq q).pkg.linksDown = s.pkg.linksDown := rfl
@[simp] theorem State.setSeq_sensinj (q : Sequencer) (s : State) : (s.setSeq q).pkg.sensinj = s.pkg.sensinj := rfl
@[simp] theorem State.setSeq_injected (q : Sequencer) (s : State) : (s.setSeq q).pkg.injected = s.pkg.injected := rfl
@[simp] theorem State.setSeq_readings (q : Sequencer) (s : State) : (s.setSeq q).pkg.readings = s.pkg.readings := rfl
@[simp] theorem State.setSeq_mult (q : Sequencer) (s : State) : (s.setSeq q).pkg.mult = s.pkg.mult := rfl
@[simp] theorem State.setSeq_multAt (q : Sequencer) (s : State) : (s.setSeq q).pkg.multAt = s.pkg.multAt := rfl
@[simp] theorem State.setSeq_below (q : Sequencer) (s : State) : (s.setSeq q).pkg.below = s.pkg.below := rfl
@[simp] theorem State.setSeq_blocked (q : Sequencer) (s : State) : (s.setSeq q).pkg.blocked = s.pkg.blocked := rfl
@[simp] theorem State.setSeq_stage (q : Sequencer) (s : State) : (s.setSeq q).pkg.stage = s.pkg.stage := rfl
@[simp] theorem State.setSeq_hot (q : Sequencer) (s : State) : (s.setSeq q).pkg.hot = s.pkg.hot := rfl
@[simp] theorem State.setSeq_power (q : Sequencer) (s : State) : (s.setSeq q).pkg.power = s.pkg.power := rfl
@[simp] theorem State.setSeq_frozen (q : Sequencer) (s : State) : (s.setSeq q).pkg.frozen = s.pkg.frozen := rfl
@[simp] theorem State.setSeq_launches (q : Sequencer) (s : State) : (s.setSeq q).pkg.launches = s.pkg.launches := rfl
@[simp] theorem State.setSeq_sherd (q : Sequencer) (s : State) : (s.setSeq q).pkg.sherd = s.pkg.sherd := rfl
@[simp] theorem State.setSeq_flash (q : Sequencer) (s : State) : (s.setSeq q).pkg.flash = s.pkg.flash := rfl
@[simp] theorem State.setSeq_sherdCopy (q : Sequencer) (s : State) : (s.setSeq q).pkg.sherdCopy = s.pkg.sherdCopy := rfl
@[simp] theorem State.setSeq_image (q : Sequencer) (s : State) : (s.setSeq q).pkg.image = s.pkg.image := rfl
@[simp] theorem State.setSeq_booting (q : Sequencer) (s : State) : (s.setSeq q).pkg.booting = s.pkg.booting := rfl
@[simp] theorem State.setSeq_reply (q : Sequencer) (s : State) : (s.setSeq q).pkg.reply = s.pkg.reply := rfl
@[simp] theorem State.setSeq_hostFaults (q : Sequencer) (s : State) : (s.setSeq q).pkg.hostFaults = s.pkg.hostFaults := rfl
@[simp] theorem State.setSeq_dropped (q : Sequencer) (s : State) : (s.setSeq q).pkg.dropped = s.pkg.dropped := rfl
@[simp] theorem State.setSeq_corrected (q : Sequencer) (s : State) : (s.setSeq q).pkg.corrected = s.pkg.corrected := rfl
@[simp] theorem State.setSeq_reports (q : Sequencer) (s : State) : (s.setSeq q).pkg.reports = s.pkg.reports := rfl
@[simp] theorem State.setSeq_beside (q : Sequencer) (s : State) : (s.setSeq q).pkg.beside = s.pkg.beside := rfl
@[simp] theorem State.setSeq_hostMail (q : Sequencer) (s : State) : (s.setSeq q).pkg.hostMail = s.pkg.hostMail := rfl
@[simp] theorem State.setSeq_reducing (q : Sequencer) (s : State) : (s.setSeq q).pkg.reducing = s.pkg.reducing := rfl
@[simp] theorem State.setSeq_refreshes (q : Sequencer) (s : State) : (s.setSeq q).pkg.refreshes = s.pkg.refreshes := rfl
@[simp] theorem State.setSeq_intervals (q : Sequencer) (s : State) : (s.setSeq q).pkg.intervals = s.pkg.intervals := rfl
@[simp] theorem State.setSeq_hostFns (q : Sequencer) (s : State) : (s.setSeq q).pkg.hostFns = s.pkg.hostFns := rfl
@[simp] theorem State.setSeq_peer (q : Sequencer) (s : State) : (s.setSeq q).pkg.peer = s.pkg.peer := rfl
@[simp] theorem State.setSeq_descriptors (q : Sequencer) (s : State) : (s.setSeq q).pkg.descriptors = s.pkg.descriptors := rfl
@[simp] theorem State.setSeq_txs (q : Sequencer) (s : State) : (s.setSeq q).pkg.txs = s.pkg.txs := rfl

@[simp] theorem State.setStream_core (q : Nat) (st : Stream) (s : State) : (s.setStream q st).core = s.core := rfl
@[simp] theorem State.setStream_cl (q : Nat) (st : Stream) (s : State) : (s.setStream q st).cl = s.cl := rfl
@[simp] theorem State.setStream_pkg (q : Nat) (st : Stream) (s : State) : (s.setStream q st).pkg = s.pkg := rfl
@[simp] theorem State.setStream_agenda (q : Nat) (st : Stream) (s : State) : (s.setStream q st).agenda = s.agenda := rfl
@[simp] theorem State.setStream_turns (q : Nat) (st : Stream) (s : State) : (s.setStream q st).turns = s.turns := rfl
@[simp] theorem State.setStream_regs (q : Nat) (st : Stream) (s : State) : (s.setStream q st).ctx.regs = s.ctx.regs := rfl
@[simp] theorem State.setStream_pc (q : Nat) (st : Stream) (s : State) : (s.setStream q st).ctx.pc = s.ctx.pc := rfl
@[simp] theorem State.setStream_fmode (q : Nat) (st : Stream) (s : State) : (s.setStream q st).ctx.fmode = s.ctx.fmode := rfl
@[simp] theorem State.setStream_retired (q : Nat) (st : Stream) (s : State) : (s.setStream q st).ctx.retired = s.ctx.retired := rfl
@[simp] theorem State.setStream_rep (q : Nat) (st : Stream) (s : State) : (s.setStream q st).ctx.rep = s.ctx.rep := rfl
@[simp] theorem State.setStream_trap (q : Nat) (st : Stream) (s : State) : (s.setStream q st).ctx.trap = s.ctx.trap := rfl
@[simp] theorem State.setStream_sys (q : Nat) (st : Stream) (s : State) : (s.setStream q st).ctx.sys = s.ctx.sys := rfl
@[simp] theorem State.setStream_tiles (q : Nat) (st : Stream) (s : State) : (s.setStream q st).ctx.tiles = s.ctx.tiles := rfl
@[simp] theorem State.setStream_cb2 (q : Nat) (st : Stream) (s : State) : (s.setStream q st).ctx.cb2 = s.ctx.cb2 := rfl
@[simp] theorem State.setStream_mq8 (q : Nat) (st : Stream) (s : State) : (s.setStream q st).ctx.mq8 = s.ctx.mq8 := rfl
@[simp] theorem State.setStream_streams (q : Nat) (st : Stream) (s : State) : (s.setStream q st).ctx.streams = vset s.ctx.streams q st := rfl
@[simp] theorem State.setStream_tx (q : Nat) (st : Stream) (s : State) : (s.setStream q st).ctx.tx = s.ctx.tx := rfl
@[simp] theorem State.setStream_mailbox (q : Nat) (st : Stream) (s : State) : (s.setStream q st).ctx.mailbox = s.ctx.mailbox := rfl
@[simp] theorem State.setStream_spill (q : Nat) (st : Stream) (s : State) : (s.setStream q st).ctx.spill = s.ctx.spill := rfl
@[simp] theorem State.setStream_claims (q : Nat) (st : Stream) (s : State) : (s.setStream q st).ctx.claims = s.ctx.claims := rfl
@[simp] theorem State.setStream_address (q : Nat) (st : Stream) (s : State) : (s.setStream q st).ctx.address = s.ctx.address := rfl

@[simp] theorem State.setAcc_core (m : Memory) (s : State) : (s.setAcc m).core = s.core := rfl
@[simp] theorem State.setAcc_cl (m : Memory) (s : State) : (s.setAcc m).cl = s.cl := rfl
@[simp] theorem State.setAcc_pkg (m : Memory) (s : State) : (s.setAcc m).pkg = s.pkg := rfl
@[simp] theorem State.setAcc_agenda (m : Memory) (s : State) : (s.setAcc m).agenda = s.agenda := rfl
@[simp] theorem State.setAcc_turns (m : Memory) (s : State) : (s.setAcc m).turns = s.turns := rfl
@[simp] theorem State.setAcc_regs (m : Memory) (s : State) : (s.setAcc m).ctx.regs = s.ctx.regs := rfl
@[simp] theorem State.setAcc_pc (m : Memory) (s : State) : (s.setAcc m).ctx.pc = s.ctx.pc := rfl
@[simp] theorem State.setAcc_fmode (m : Memory) (s : State) : (s.setAcc m).ctx.fmode = s.ctx.fmode := rfl
@[simp] theorem State.setAcc_retired (m : Memory) (s : State) : (s.setAcc m).ctx.retired = s.ctx.retired := rfl
@[simp] theorem State.setAcc_rep (m : Memory) (s : State) : (s.setAcc m).ctx.rep = s.ctx.rep := rfl
@[simp] theorem State.setAcc_trap (m : Memory) (s : State) : (s.setAcc m).ctx.trap = s.ctx.trap := rfl
@[simp] theorem State.setAcc_sys (m : Memory) (s : State) : (s.setAcc m).ctx.sys = s.ctx.sys := rfl
@[simp] theorem State.setAcc_tiles (m : Memory) (s : State) : (s.setAcc m).ctx.tiles = { s.ctx.tiles with acc := m } := rfl
@[simp] theorem State.setAcc_cb2 (m : Memory) (s : State) : (s.setAcc m).ctx.cb2 = s.ctx.cb2 := rfl
@[simp] theorem State.setAcc_mq8 (m : Memory) (s : State) : (s.setAcc m).ctx.mq8 = s.ctx.mq8 := rfl
@[simp] theorem State.setAcc_streams (m : Memory) (s : State) : (s.setAcc m).ctx.streams = s.ctx.streams := rfl
@[simp] theorem State.setAcc_tx (m : Memory) (s : State) : (s.setAcc m).ctx.tx = s.ctx.tx := rfl
@[simp] theorem State.setAcc_mailbox (m : Memory) (s : State) : (s.setAcc m).ctx.mailbox = s.ctx.mailbox := rfl
@[simp] theorem State.setAcc_spill (m : Memory) (s : State) : (s.setAcc m).ctx.spill = s.ctx.spill := rfl
@[simp] theorem State.setAcc_claims (m : Memory) (s : State) : (s.setAcc m).ctx.claims = s.ctx.claims := rfl
@[simp] theorem State.setAcc_address (m : Memory) (s : State) : (s.setAcc m).ctx.address = s.ctx.address := rfl

@[simp] theorem State.setNorm_core (j : Nat) (z : Option NormSlot) (s : State) : (s.setNorm j z).core = s.core := rfl
@[simp] theorem State.setNorm_cl (j : Nat) (z : Option NormSlot) (s : State) : (s.setNorm j z).cl = s.cl := rfl
@[simp] theorem State.setNorm_pkg (j : Nat) (z : Option NormSlot) (s : State) : (s.setNorm j z).pkg = s.pkg := rfl
@[simp] theorem State.setNorm_agenda (j : Nat) (z : Option NormSlot) (s : State) : (s.setNorm j z).agenda = s.agenda := rfl
@[simp] theorem State.setNorm_turns (j : Nat) (z : Option NormSlot) (s : State) : (s.setNorm j z).turns = s.turns := rfl
@[simp] theorem State.setNorm_regs (j : Nat) (z : Option NormSlot) (s : State) : (s.setNorm j z).ctx.regs = s.ctx.regs := rfl
@[simp] theorem State.setNorm_pc (j : Nat) (z : Option NormSlot) (s : State) : (s.setNorm j z).ctx.pc = s.ctx.pc := rfl
@[simp] theorem State.setNorm_fmode (j : Nat) (z : Option NormSlot) (s : State) : (s.setNorm j z).ctx.fmode = s.ctx.fmode := rfl
@[simp] theorem State.setNorm_retired (j : Nat) (z : Option NormSlot) (s : State) : (s.setNorm j z).ctx.retired = s.ctx.retired := rfl
@[simp] theorem State.setNorm_rep (j : Nat) (z : Option NormSlot) (s : State) : (s.setNorm j z).ctx.rep = s.ctx.rep := rfl
@[simp] theorem State.setNorm_trap (j : Nat) (z : Option NormSlot) (s : State) : (s.setNorm j z).ctx.trap = s.ctx.trap := rfl
@[simp] theorem State.setNorm_sys (j : Nat) (z : Option NormSlot) (s : State) : (s.setNorm j z).ctx.sys = s.ctx.sys := rfl
@[simp] theorem State.setNorm_tiles (j : Nat) (z : Option NormSlot) (s : State) : (s.setNorm j z).ctx.tiles = { s.ctx.tiles with norm := vset s.ctx.tiles.norm j z } := rfl
@[simp] theorem State.setNorm_cb2 (j : Nat) (z : Option NormSlot) (s : State) : (s.setNorm j z).ctx.cb2 = s.ctx.cb2 := rfl
@[simp] theorem State.setNorm_mq8 (j : Nat) (z : Option NormSlot) (s : State) : (s.setNorm j z).ctx.mq8 = s.ctx.mq8 := rfl
@[simp] theorem State.setNorm_streams (j : Nat) (z : Option NormSlot) (s : State) : (s.setNorm j z).ctx.streams = s.ctx.streams := rfl
@[simp] theorem State.setNorm_tx (j : Nat) (z : Option NormSlot) (s : State) : (s.setNorm j z).ctx.tx = s.ctx.tx := rfl
@[simp] theorem State.setNorm_mailbox (j : Nat) (z : Option NormSlot) (s : State) : (s.setNorm j z).ctx.mailbox = s.ctx.mailbox := rfl
@[simp] theorem State.setNorm_spill (j : Nat) (z : Option NormSlot) (s : State) : (s.setNorm j z).ctx.spill = s.ctx.spill := rfl
@[simp] theorem State.setNorm_claims (j : Nat) (z : Option NormSlot) (s : State) : (s.setNorm j z).ctx.claims = s.ctx.claims := rfl
@[simp] theorem State.setNorm_address (j : Nat) (z : Option NormSlot) (s : State) : (s.setNorm j z).ctx.address = s.ctx.address := rfl

@[simp] theorem State.setSys_core (g : Sys → Sys) (s : State) : (s.setSys g).core = s.core := rfl
@[simp] theorem State.setSys_cl (g : Sys → Sys) (s : State) : (s.setSys g).cl = s.cl := rfl
@[simp] theorem State.setSys_pkg (g : Sys → Sys) (s : State) : (s.setSys g).pkg = s.pkg := rfl
@[simp] theorem State.setSys_agenda (g : Sys → Sys) (s : State) : (s.setSys g).agenda = s.agenda := rfl
@[simp] theorem State.setSys_turns (g : Sys → Sys) (s : State) : (s.setSys g).turns = s.turns := rfl
@[simp] theorem State.setSys_regs (g : Sys → Sys) (s : State) : (s.setSys g).ctx.regs = s.ctx.regs := rfl
@[simp] theorem State.setSys_pc (g : Sys → Sys) (s : State) : (s.setSys g).ctx.pc = s.ctx.pc := rfl
@[simp] theorem State.setSys_fmode (g : Sys → Sys) (s : State) : (s.setSys g).ctx.fmode = s.ctx.fmode := rfl
@[simp] theorem State.setSys_retired (g : Sys → Sys) (s : State) : (s.setSys g).ctx.retired = s.ctx.retired := rfl
@[simp] theorem State.setSys_rep (g : Sys → Sys) (s : State) : (s.setSys g).ctx.rep = s.ctx.rep := rfl
@[simp] theorem State.setSys_trap (g : Sys → Sys) (s : State) : (s.setSys g).ctx.trap = s.ctx.trap := rfl
@[simp] theorem State.setSys_sys (g : Sys → Sys) (s : State) : (s.setSys g).ctx.sys = g s.ctx.sys := rfl
@[simp] theorem State.setSys_tiles (g : Sys → Sys) (s : State) : (s.setSys g).ctx.tiles = s.ctx.tiles := rfl
@[simp] theorem State.setSys_cb2 (g : Sys → Sys) (s : State) : (s.setSys g).ctx.cb2 = s.ctx.cb2 := rfl
@[simp] theorem State.setSys_mq8 (g : Sys → Sys) (s : State) : (s.setSys g).ctx.mq8 = s.ctx.mq8 := rfl
@[simp] theorem State.setSys_streams (g : Sys → Sys) (s : State) : (s.setSys g).ctx.streams = s.ctx.streams := rfl
@[simp] theorem State.setSys_tx (g : Sys → Sys) (s : State) : (s.setSys g).ctx.tx = s.ctx.tx := rfl
@[simp] theorem State.setSys_mailbox (g : Sys → Sys) (s : State) : (s.setSys g).ctx.mailbox = s.ctx.mailbox := rfl
@[simp] theorem State.setSys_spill (g : Sys → Sys) (s : State) : (s.setSys g).ctx.spill = s.ctx.spill := rfl
@[simp] theorem State.setSys_claims (g : Sys → Sys) (s : State) : (s.setSys g).ctx.claims = s.ctx.claims := rfl
@[simp] theorem State.setSys_address (g : Sys → Sys) (s : State) : (s.setSys g).ctx.address = s.ctx.address := rfl

@[simp] theorem State.setTrap_core (g : TrapRegs → TrapRegs) (s : State) : (s.setTrap g).core = s.core := rfl
@[simp] theorem State.setTrap_cl (g : TrapRegs → TrapRegs) (s : State) : (s.setTrap g).cl = s.cl := rfl
@[simp] theorem State.setTrap_pkg (g : TrapRegs → TrapRegs) (s : State) : (s.setTrap g).pkg = s.pkg := rfl
@[simp] theorem State.setTrap_agenda (g : TrapRegs → TrapRegs) (s : State) : (s.setTrap g).agenda = s.agenda := rfl
@[simp] theorem State.setTrap_turns (g : TrapRegs → TrapRegs) (s : State) : (s.setTrap g).turns = s.turns := rfl
@[simp] theorem State.setTrap_regs (g : TrapRegs → TrapRegs) (s : State) : (s.setTrap g).ctx.regs = s.ctx.regs := rfl
@[simp] theorem State.setTrap_pc (g : TrapRegs → TrapRegs) (s : State) : (s.setTrap g).ctx.pc = s.ctx.pc := rfl
@[simp] theorem State.setTrap_fmode (g : TrapRegs → TrapRegs) (s : State) : (s.setTrap g).ctx.fmode = s.ctx.fmode := rfl
@[simp] theorem State.setTrap_retired (g : TrapRegs → TrapRegs) (s : State) : (s.setTrap g).ctx.retired = s.ctx.retired := rfl
@[simp] theorem State.setTrap_rep (g : TrapRegs → TrapRegs) (s : State) : (s.setTrap g).ctx.rep = s.ctx.rep := rfl
@[simp] theorem State.setTrap_trap (g : TrapRegs → TrapRegs) (s : State) : (s.setTrap g).ctx.trap = g s.ctx.trap := rfl
@[simp] theorem State.setTrap_sys (g : TrapRegs → TrapRegs) (s : State) : (s.setTrap g).ctx.sys = s.ctx.sys := rfl
@[simp] theorem State.setTrap_tiles (g : TrapRegs → TrapRegs) (s : State) : (s.setTrap g).ctx.tiles = s.ctx.tiles := rfl
@[simp] theorem State.setTrap_cb2 (g : TrapRegs → TrapRegs) (s : State) : (s.setTrap g).ctx.cb2 = s.ctx.cb2 := rfl
@[simp] theorem State.setTrap_mq8 (g : TrapRegs → TrapRegs) (s : State) : (s.setTrap g).ctx.mq8 = s.ctx.mq8 := rfl
@[simp] theorem State.setTrap_streams (g : TrapRegs → TrapRegs) (s : State) : (s.setTrap g).ctx.streams = s.ctx.streams := rfl
@[simp] theorem State.setTrap_tx (g : TrapRegs → TrapRegs) (s : State) : (s.setTrap g).ctx.tx = s.ctx.tx := rfl
@[simp] theorem State.setTrap_mailbox (g : TrapRegs → TrapRegs) (s : State) : (s.setTrap g).ctx.mailbox = s.ctx.mailbox := rfl
@[simp] theorem State.setTrap_spill (g : TrapRegs → TrapRegs) (s : State) : (s.setTrap g).ctx.spill = s.ctx.spill := rfl
@[simp] theorem State.setTrap_claims (g : TrapRegs → TrapRegs) (s : State) : (s.setTrap g).ctx.claims = s.ctx.claims := rfl
@[simp] theorem State.setTrap_address (g : TrapRegs → TrapRegs) (s : State) : (s.setTrap g).ctx.address = s.ctx.address := rfl

@[simp] theorem State.setBar_ctx (b : Nat) (l : BarrierLine) (s : State) : (s.setBar b l).ctx = s.ctx := rfl
@[simp] theorem State.setBar_core (b : Nat) (l : BarrierLine) (s : State) : (s.setBar b l).core = s.core := rfl
@[simp] theorem State.setBar_pkg (b : Nat) (l : BarrierLine) (s : State) : (s.setBar b l).pkg = s.pkg := rfl
@[simp] theorem State.setBar_agenda (b : Nat) (l : BarrierLine) (s : State) : (s.setBar b l).agenda = s.agenda := rfl
@[simp] theorem State.setBar_turns (b : Nat) (l : BarrierLine) (s : State) : (s.setBar b l).turns = s.turns := rfl
@[simp] theorem State.setBar_index (b : Nat) (l : BarrierLine) (s : State) : (s.setBar b l).cl.index = s.cl.index := rfl
@[simp] theorem State.setBar_stores (b : Nat) (l : BarrierLine) (s : State) : (s.setBar b l).cl.stores = s.cl.stores := rfl
@[simp] theorem State.setBar_spad (b : Nat) (l : BarrierLine) (s : State) : (s.setBar b l).cl.spad = s.cl.spad := rfl
@[simp] theorem State.setBar_bad (b : Nat) (l : BarrierLine) (s : State) : (s.setBar b l).cl.bad = s.cl.bad := rfl
@[simp] theorem State.setBar_phase (b : Nat) (l : BarrierLine) (s : State) : (s.setBar b l).cl.phase = s.cl.phase := rfl
@[simp] theorem State.setBar_pointers (b : Nat) (l : BarrierLine) (s : State) : (s.setBar b l).cl.pointers = s.cl.pointers := rfl
@[simp] theorem State.setBar_bankBusy (b : Nat) (l : BarrierLine) (s : State) : (s.setBar b l).cl.bankBusy = s.cl.bankBusy := rfl
@[simp] theorem State.setBar_bars (b : Nat) (l : BarrierLine) (s : State) : (s.setBar b l).cl.bars = vset s.cl.bars b l := rfl
@[simp] theorem State.setBar_mutexes (b : Nat) (l : BarrierLine) (s : State) : (s.setBar b l).cl.mutexes = s.cl.mutexes := rfl
@[simp] theorem State.setBar_events (b : Nat) (l : BarrierLine) (s : State) : (s.setBar b l).cl.events = s.cl.events := rfl
@[simp] theorem State.setBar_gangMembers (b : Nat) (l : BarrierLine) (s : State) : (s.setBar b l).cl.gangMembers = s.cl.gangMembers := rfl
@[simp] theorem State.setBar_gangArrived (b : Nat) (l : BarrierLine) (s : State) : (s.setBar b l).cl.gangArrived = s.cl.gangArrived := rfl
@[simp] theorem State.setBar_gangTx (b : Nat) (l : BarrierLine) (s : State) : (s.setBar b l).cl.gangTx = s.cl.gangTx := rfl
@[simp] theorem State.setBar_arrivals (b : Nat) (l : BarrierLine) (s : State) : (s.setBar b l).cl.arrivals = s.cl.arrivals := rfl
@[simp] theorem State.setBar_bstore (b : Nat) (l : BarrierLine) (s : State) : (s.setBar b l).cl.bstore = s.cl.bstore := rfl
@[simp] theorem State.setBar_tags (b : Nat) (l : BarrierLine) (s : State) : (s.setBar b l).cl.tags = s.cl.tags := rfl
@[simp] theorem State.setBar_snaps (b : Nat) (l : BarrierLine) (s : State) : (s.setBar b l).cl.snaps = s.cl.snaps := rfl
@[simp] theorem State.setBar_badCells (b : Nat) (l : BarrierLine) (s : State) : (s.setBar b l).cl.badCells = s.cl.badCells := rfl
@[simp] theorem State.setBar_cbs (b : Nat) (l : BarrierLine) (s : State) : (s.setBar b l).cl.cbs = s.cl.cbs := rfl
@[simp] theorem State.setBar_launchQ (b : Nat) (l : BarrierLine) (s : State) : (s.setBar b l).cl.launchQ = s.cl.launchQ := rfl
@[simp] theorem State.setBar_overflow (b : Nat) (l : BarrierLine) (s : State) : (s.setBar b l).cl.overflow = s.cl.overflow := rfl
@[simp] theorem State.setBar_outRecs (b : Nat) (l : BarrierLine) (s : State) : (s.setBar b l).cl.outRecs = s.cl.outRecs := rfl
@[simp] theorem State.setBar_dispatched (b : Nat) (l : BarrierLine) (s : State) : (s.setBar b l).cl.dispatched = s.cl.dispatched := rfl
@[simp] theorem State.setBar_busy (b : Nat) (l : BarrierLine) (s : State) : (s.setBar b l).cl.busy = s.cl.busy := rfl
@[simp] theorem State.setBar_tasks (b : Nat) (l : BarrierLine) (s : State) : (s.setBar b l).cl.tasks = s.cl.tasks := rfl
@[simp] theorem State.setBar_slaves (b : Nat) (l : BarrierLine) (s : State) : (s.setBar b l).cl.slaves = s.cl.slaves := rfl
@[simp] theorem State.setBar_xeng (b : Nat) (l : BarrierLine) (s : State) : (s.setBar b l).cl.xeng = s.cl.xeng := rfl
@[simp] theorem State.setBar_part (b : Nat) (l : BarrierLine) (s : State) : (s.setBar b l).cl.part = s.cl.part := rfl
@[simp] theorem State.setBar_gear (b : Nat) (l : BarrierLine) (s : State) : (s.setBar b l).cl.gear = s.cl.gear := rfl
@[simp] theorem State.setBar_gearReqs (b : Nat) (l : BarrierLine) (s : State) : (s.setBar b l).cl.gearReqs = s.cl.gearReqs := rfl
@[simp] theorem State.setBar_arb (b : Nat) (l : BarrierLine) (s : State) : (s.setBar b l).cl.arb = s.cl.arb := rfl
@[simp] theorem State.setBar_queues (b : Nat) (l : BarrierLine) (s : State) : (s.setBar b l).cl.queues = s.cl.queues := rfl
@[simp] theorem State.setBar_jobs (b : Nat) (l : BarrierLine) (s : State) : (s.setBar b l).cl.jobs = s.cl.jobs := rfl
@[simp] theorem State.setBar_turn (b : Nat) (l : BarrierLine) (s : State) : (s.setBar b l).cl.turn = s.cl.turn := rfl
@[simp] theorem State.setBar_inbound (b : Nat) (l : BarrierLine) (s : State) : (s.setBar b l).cl.inbound = s.cl.inbound := rfl
@[simp] theorem State.setBar_addrTable (b : Nat) (l : BarrierLine) (s : State) : (s.setBar b l).cl.addrTable = s.cl.addrTable := rfl
@[simp] theorem State.setBar_others (b : Nat) (l : BarrierLine) (s : State) : (s.setBar b l).cl.others = s.cl.others := rfl
@[simp] theorem State.setBar_addresses (b : Nat) (l : BarrierLine) (s : State) : (s.setBar b l).cl.addresses = s.cl.addresses := rfl
@[simp] theorem State.setBar_gangs (b : Nat) (l : BarrierLine) (s : State) : (s.setBar b l).cl.gangs = s.cl.gangs := rfl

@[simp] theorem State.setMtx_ctx (x : Nat) (l : Mutex) (s : State) : (s.setMtx x l).ctx = s.ctx := rfl
@[simp] theorem State.setMtx_core (x : Nat) (l : Mutex) (s : State) : (s.setMtx x l).core = s.core := rfl
@[simp] theorem State.setMtx_pkg (x : Nat) (l : Mutex) (s : State) : (s.setMtx x l).pkg = s.pkg := rfl
@[simp] theorem State.setMtx_agenda (x : Nat) (l : Mutex) (s : State) : (s.setMtx x l).agenda = s.agenda := rfl
@[simp] theorem State.setMtx_turns (x : Nat) (l : Mutex) (s : State) : (s.setMtx x l).turns = s.turns := rfl
@[simp] theorem State.setMtx_index (x : Nat) (l : Mutex) (s : State) : (s.setMtx x l).cl.index = s.cl.index := rfl
@[simp] theorem State.setMtx_stores (x : Nat) (l : Mutex) (s : State) : (s.setMtx x l).cl.stores = s.cl.stores := rfl
@[simp] theorem State.setMtx_spad (x : Nat) (l : Mutex) (s : State) : (s.setMtx x l).cl.spad = s.cl.spad := rfl
@[simp] theorem State.setMtx_bad (x : Nat) (l : Mutex) (s : State) : (s.setMtx x l).cl.bad = s.cl.bad := rfl
@[simp] theorem State.setMtx_phase (x : Nat) (l : Mutex) (s : State) : (s.setMtx x l).cl.phase = s.cl.phase := rfl
@[simp] theorem State.setMtx_pointers (x : Nat) (l : Mutex) (s : State) : (s.setMtx x l).cl.pointers = s.cl.pointers := rfl
@[simp] theorem State.setMtx_bankBusy (x : Nat) (l : Mutex) (s : State) : (s.setMtx x l).cl.bankBusy = s.cl.bankBusy := rfl
@[simp] theorem State.setMtx_bars (x : Nat) (l : Mutex) (s : State) : (s.setMtx x l).cl.bars = s.cl.bars := rfl
@[simp] theorem State.setMtx_mutexes (x : Nat) (l : Mutex) (s : State) : (s.setMtx x l).cl.mutexes = vset s.cl.mutexes x l := rfl
@[simp] theorem State.setMtx_events (x : Nat) (l : Mutex) (s : State) : (s.setMtx x l).cl.events = s.cl.events := rfl
@[simp] theorem State.setMtx_gangMembers (x : Nat) (l : Mutex) (s : State) : (s.setMtx x l).cl.gangMembers = s.cl.gangMembers := rfl
@[simp] theorem State.setMtx_gangArrived (x : Nat) (l : Mutex) (s : State) : (s.setMtx x l).cl.gangArrived = s.cl.gangArrived := rfl
@[simp] theorem State.setMtx_gangTx (x : Nat) (l : Mutex) (s : State) : (s.setMtx x l).cl.gangTx = s.cl.gangTx := rfl
@[simp] theorem State.setMtx_arrivals (x : Nat) (l : Mutex) (s : State) : (s.setMtx x l).cl.arrivals = s.cl.arrivals := rfl
@[simp] theorem State.setMtx_bstore (x : Nat) (l : Mutex) (s : State) : (s.setMtx x l).cl.bstore = s.cl.bstore := rfl
@[simp] theorem State.setMtx_tags (x : Nat) (l : Mutex) (s : State) : (s.setMtx x l).cl.tags = s.cl.tags := rfl
@[simp] theorem State.setMtx_snaps (x : Nat) (l : Mutex) (s : State) : (s.setMtx x l).cl.snaps = s.cl.snaps := rfl
@[simp] theorem State.setMtx_badCells (x : Nat) (l : Mutex) (s : State) : (s.setMtx x l).cl.badCells = s.cl.badCells := rfl
@[simp] theorem State.setMtx_cbs (x : Nat) (l : Mutex) (s : State) : (s.setMtx x l).cl.cbs = s.cl.cbs := rfl
@[simp] theorem State.setMtx_launchQ (x : Nat) (l : Mutex) (s : State) : (s.setMtx x l).cl.launchQ = s.cl.launchQ := rfl
@[simp] theorem State.setMtx_overflow (x : Nat) (l : Mutex) (s : State) : (s.setMtx x l).cl.overflow = s.cl.overflow := rfl
@[simp] theorem State.setMtx_outRecs (x : Nat) (l : Mutex) (s : State) : (s.setMtx x l).cl.outRecs = s.cl.outRecs := rfl
@[simp] theorem State.setMtx_dispatched (x : Nat) (l : Mutex) (s : State) : (s.setMtx x l).cl.dispatched = s.cl.dispatched := rfl
@[simp] theorem State.setMtx_busy (x : Nat) (l : Mutex) (s : State) : (s.setMtx x l).cl.busy = s.cl.busy := rfl
@[simp] theorem State.setMtx_tasks (x : Nat) (l : Mutex) (s : State) : (s.setMtx x l).cl.tasks = s.cl.tasks := rfl
@[simp] theorem State.setMtx_slaves (x : Nat) (l : Mutex) (s : State) : (s.setMtx x l).cl.slaves = s.cl.slaves := rfl
@[simp] theorem State.setMtx_xeng (x : Nat) (l : Mutex) (s : State) : (s.setMtx x l).cl.xeng = s.cl.xeng := rfl
@[simp] theorem State.setMtx_part (x : Nat) (l : Mutex) (s : State) : (s.setMtx x l).cl.part = s.cl.part := rfl
@[simp] theorem State.setMtx_gear (x : Nat) (l : Mutex) (s : State) : (s.setMtx x l).cl.gear = s.cl.gear := rfl
@[simp] theorem State.setMtx_gearReqs (x : Nat) (l : Mutex) (s : State) : (s.setMtx x l).cl.gearReqs = s.cl.gearReqs := rfl
@[simp] theorem State.setMtx_arb (x : Nat) (l : Mutex) (s : State) : (s.setMtx x l).cl.arb = s.cl.arb := rfl
@[simp] theorem State.setMtx_queues (x : Nat) (l : Mutex) (s : State) : (s.setMtx x l).cl.queues = s.cl.queues := rfl
@[simp] theorem State.setMtx_jobs (x : Nat) (l : Mutex) (s : State) : (s.setMtx x l).cl.jobs = s.cl.jobs := rfl
@[simp] theorem State.setMtx_turn (x : Nat) (l : Mutex) (s : State) : (s.setMtx x l).cl.turn = s.cl.turn := rfl
@[simp] theorem State.setMtx_inbound (x : Nat) (l : Mutex) (s : State) : (s.setMtx x l).cl.inbound = s.cl.inbound := rfl
@[simp] theorem State.setMtx_addrTable (x : Nat) (l : Mutex) (s : State) : (s.setMtx x l).cl.addrTable = s.cl.addrTable := rfl
@[simp] theorem State.setMtx_others (x : Nat) (l : Mutex) (s : State) : (s.setMtx x l).cl.others = s.cl.others := rfl
@[simp] theorem State.setMtx_addresses (x : Nat) (l : Mutex) (s : State) : (s.setMtx x l).cl.addresses = s.cl.addresses := rfl
@[simp] theorem State.setMtx_gangs (x : Nat) (l : Mutex) (s : State) : (s.setMtx x l).cl.gangs = s.cl.gangs := rfl

@[simp] theorem State.setEvl_ctx (e : Nat) (l : EventLine) (s : State) : (s.setEvl e l).ctx = s.ctx := rfl
@[simp] theorem State.setEvl_core (e : Nat) (l : EventLine) (s : State) : (s.setEvl e l).core = s.core := rfl
@[simp] theorem State.setEvl_pkg (e : Nat) (l : EventLine) (s : State) : (s.setEvl e l).pkg = s.pkg := rfl
@[simp] theorem State.setEvl_agenda (e : Nat) (l : EventLine) (s : State) : (s.setEvl e l).agenda = s.agenda := rfl
@[simp] theorem State.setEvl_turns (e : Nat) (l : EventLine) (s : State) : (s.setEvl e l).turns = s.turns := rfl
@[simp] theorem State.setEvl_index (e : Nat) (l : EventLine) (s : State) : (s.setEvl e l).cl.index = s.cl.index := rfl
@[simp] theorem State.setEvl_stores (e : Nat) (l : EventLine) (s : State) : (s.setEvl e l).cl.stores = s.cl.stores := rfl
@[simp] theorem State.setEvl_spad (e : Nat) (l : EventLine) (s : State) : (s.setEvl e l).cl.spad = s.cl.spad := rfl
@[simp] theorem State.setEvl_bad (e : Nat) (l : EventLine) (s : State) : (s.setEvl e l).cl.bad = s.cl.bad := rfl
@[simp] theorem State.setEvl_phase (e : Nat) (l : EventLine) (s : State) : (s.setEvl e l).cl.phase = s.cl.phase := rfl
@[simp] theorem State.setEvl_pointers (e : Nat) (l : EventLine) (s : State) : (s.setEvl e l).cl.pointers = s.cl.pointers := rfl
@[simp] theorem State.setEvl_bankBusy (e : Nat) (l : EventLine) (s : State) : (s.setEvl e l).cl.bankBusy = s.cl.bankBusy := rfl
@[simp] theorem State.setEvl_bars (e : Nat) (l : EventLine) (s : State) : (s.setEvl e l).cl.bars = s.cl.bars := rfl
@[simp] theorem State.setEvl_mutexes (e : Nat) (l : EventLine) (s : State) : (s.setEvl e l).cl.mutexes = s.cl.mutexes := rfl
@[simp] theorem State.setEvl_events (e : Nat) (l : EventLine) (s : State) : (s.setEvl e l).cl.events = vset s.cl.events e l := rfl
@[simp] theorem State.setEvl_gangMembers (e : Nat) (l : EventLine) (s : State) : (s.setEvl e l).cl.gangMembers = s.cl.gangMembers := rfl
@[simp] theorem State.setEvl_gangArrived (e : Nat) (l : EventLine) (s : State) : (s.setEvl e l).cl.gangArrived = s.cl.gangArrived := rfl
@[simp] theorem State.setEvl_gangTx (e : Nat) (l : EventLine) (s : State) : (s.setEvl e l).cl.gangTx = s.cl.gangTx := rfl
@[simp] theorem State.setEvl_arrivals (e : Nat) (l : EventLine) (s : State) : (s.setEvl e l).cl.arrivals = s.cl.arrivals := rfl
@[simp] theorem State.setEvl_bstore (e : Nat) (l : EventLine) (s : State) : (s.setEvl e l).cl.bstore = s.cl.bstore := rfl
@[simp] theorem State.setEvl_tags (e : Nat) (l : EventLine) (s : State) : (s.setEvl e l).cl.tags = s.cl.tags := rfl
@[simp] theorem State.setEvl_snaps (e : Nat) (l : EventLine) (s : State) : (s.setEvl e l).cl.snaps = s.cl.snaps := rfl
@[simp] theorem State.setEvl_badCells (e : Nat) (l : EventLine) (s : State) : (s.setEvl e l).cl.badCells = s.cl.badCells := rfl
@[simp] theorem State.setEvl_cbs (e : Nat) (l : EventLine) (s : State) : (s.setEvl e l).cl.cbs = s.cl.cbs := rfl
@[simp] theorem State.setEvl_launchQ (e : Nat) (l : EventLine) (s : State) : (s.setEvl e l).cl.launchQ = s.cl.launchQ := rfl
@[simp] theorem State.setEvl_overflow (e : Nat) (l : EventLine) (s : State) : (s.setEvl e l).cl.overflow = s.cl.overflow := rfl
@[simp] theorem State.setEvl_outRecs (e : Nat) (l : EventLine) (s : State) : (s.setEvl e l).cl.outRecs = s.cl.outRecs := rfl
@[simp] theorem State.setEvl_dispatched (e : Nat) (l : EventLine) (s : State) : (s.setEvl e l).cl.dispatched = s.cl.dispatched := rfl
@[simp] theorem State.setEvl_busy (e : Nat) (l : EventLine) (s : State) : (s.setEvl e l).cl.busy = s.cl.busy := rfl
@[simp] theorem State.setEvl_tasks (e : Nat) (l : EventLine) (s : State) : (s.setEvl e l).cl.tasks = s.cl.tasks := rfl
@[simp] theorem State.setEvl_slaves (e : Nat) (l : EventLine) (s : State) : (s.setEvl e l).cl.slaves = s.cl.slaves := rfl
@[simp] theorem State.setEvl_xeng (e : Nat) (l : EventLine) (s : State) : (s.setEvl e l).cl.xeng = s.cl.xeng := rfl
@[simp] theorem State.setEvl_part (e : Nat) (l : EventLine) (s : State) : (s.setEvl e l).cl.part = s.cl.part := rfl
@[simp] theorem State.setEvl_gear (e : Nat) (l : EventLine) (s : State) : (s.setEvl e l).cl.gear = s.cl.gear := rfl
@[simp] theorem State.setEvl_gearReqs (e : Nat) (l : EventLine) (s : State) : (s.setEvl e l).cl.gearReqs = s.cl.gearReqs := rfl
@[simp] theorem State.setEvl_arb (e : Nat) (l : EventLine) (s : State) : (s.setEvl e l).cl.arb = s.cl.arb := rfl
@[simp] theorem State.setEvl_queues (e : Nat) (l : EventLine) (s : State) : (s.setEvl e l).cl.queues = s.cl.queues := rfl
@[simp] theorem State.setEvl_jobs (e : Nat) (l : EventLine) (s : State) : (s.setEvl e l).cl.jobs = s.cl.jobs := rfl
@[simp] theorem State.setEvl_turn (e : Nat) (l : EventLine) (s : State) : (s.setEvl e l).cl.turn = s.cl.turn := rfl
@[simp] theorem State.setEvl_inbound (e : Nat) (l : EventLine) (s : State) : (s.setEvl e l).cl.inbound = s.cl.inbound := rfl
@[simp] theorem State.setEvl_addrTable (e : Nat) (l : EventLine) (s : State) : (s.setEvl e l).cl.addrTable = s.cl.addrTable := rfl
@[simp] theorem State.setEvl_others (e : Nat) (l : EventLine) (s : State) : (s.setEvl e l).cl.others = s.cl.others := rfl
@[simp] theorem State.setEvl_addresses (e : Nat) (l : EventLine) (s : State) : (s.setEvl e l).cl.addresses = s.cl.addresses := rfl
@[simp] theorem State.setEvl_gangs (e : Nat) (l : EventLine) (s : State) : (s.setEvl e l).cl.gangs = s.cl.gangs := rfl

@[simp] theorem State.setCb_ctx (b : Nat) (c : CircBuf) (s : State) : (s.setCb b c).ctx = s.ctx := rfl
@[simp] theorem State.setCb_core (b : Nat) (c : CircBuf) (s : State) : (s.setCb b c).core = s.core := rfl
@[simp] theorem State.setCb_pkg (b : Nat) (c : CircBuf) (s : State) : (s.setCb b c).pkg = s.pkg := rfl
@[simp] theorem State.setCb_agenda (b : Nat) (c : CircBuf) (s : State) : (s.setCb b c).agenda = s.agenda := rfl
@[simp] theorem State.setCb_turns (b : Nat) (c : CircBuf) (s : State) : (s.setCb b c).turns = s.turns := rfl
@[simp] theorem State.setCb_index (b : Nat) (c : CircBuf) (s : State) : (s.setCb b c).cl.index = s.cl.index := rfl
@[simp] theorem State.setCb_stores (b : Nat) (c : CircBuf) (s : State) : (s.setCb b c).cl.stores = s.cl.stores := rfl
@[simp] theorem State.setCb_spad (b : Nat) (c : CircBuf) (s : State) : (s.setCb b c).cl.spad = s.cl.spad := rfl
@[simp] theorem State.setCb_bad (b : Nat) (c : CircBuf) (s : State) : (s.setCb b c).cl.bad = s.cl.bad := rfl
@[simp] theorem State.setCb_phase (b : Nat) (c : CircBuf) (s : State) : (s.setCb b c).cl.phase = s.cl.phase := rfl
@[simp] theorem State.setCb_pointers (b : Nat) (c : CircBuf) (s : State) : (s.setCb b c).cl.pointers = s.cl.pointers := rfl
@[simp] theorem State.setCb_bankBusy (b : Nat) (c : CircBuf) (s : State) : (s.setCb b c).cl.bankBusy = s.cl.bankBusy := rfl
@[simp] theorem State.setCb_bars (b : Nat) (c : CircBuf) (s : State) : (s.setCb b c).cl.bars = s.cl.bars := rfl
@[simp] theorem State.setCb_mutexes (b : Nat) (c : CircBuf) (s : State) : (s.setCb b c).cl.mutexes = s.cl.mutexes := rfl
@[simp] theorem State.setCb_events (b : Nat) (c : CircBuf) (s : State) : (s.setCb b c).cl.events = s.cl.events := rfl
@[simp] theorem State.setCb_gangMembers (b : Nat) (c : CircBuf) (s : State) : (s.setCb b c).cl.gangMembers = s.cl.gangMembers := rfl
@[simp] theorem State.setCb_gangArrived (b : Nat) (c : CircBuf) (s : State) : (s.setCb b c).cl.gangArrived = s.cl.gangArrived := rfl
@[simp] theorem State.setCb_gangTx (b : Nat) (c : CircBuf) (s : State) : (s.setCb b c).cl.gangTx = s.cl.gangTx := rfl
@[simp] theorem State.setCb_arrivals (b : Nat) (c : CircBuf) (s : State) : (s.setCb b c).cl.arrivals = s.cl.arrivals := rfl
@[simp] theorem State.setCb_bstore (b : Nat) (c : CircBuf) (s : State) : (s.setCb b c).cl.bstore = s.cl.bstore := rfl
@[simp] theorem State.setCb_tags (b : Nat) (c : CircBuf) (s : State) : (s.setCb b c).cl.tags = s.cl.tags := rfl
@[simp] theorem State.setCb_snaps (b : Nat) (c : CircBuf) (s : State) : (s.setCb b c).cl.snaps = s.cl.snaps := rfl
@[simp] theorem State.setCb_badCells (b : Nat) (c : CircBuf) (s : State) : (s.setCb b c).cl.badCells = s.cl.badCells := rfl
@[simp] theorem State.setCb_cbs (b : Nat) (c : CircBuf) (s : State) : (s.setCb b c).cl.cbs = vset s.cl.cbs b c := rfl
@[simp] theorem State.setCb_launchQ (b : Nat) (c : CircBuf) (s : State) : (s.setCb b c).cl.launchQ = s.cl.launchQ := rfl
@[simp] theorem State.setCb_overflow (b : Nat) (c : CircBuf) (s : State) : (s.setCb b c).cl.overflow = s.cl.overflow := rfl
@[simp] theorem State.setCb_outRecs (b : Nat) (c : CircBuf) (s : State) : (s.setCb b c).cl.outRecs = s.cl.outRecs := rfl
@[simp] theorem State.setCb_dispatched (b : Nat) (c : CircBuf) (s : State) : (s.setCb b c).cl.dispatched = s.cl.dispatched := rfl
@[simp] theorem State.setCb_busy (b : Nat) (c : CircBuf) (s : State) : (s.setCb b c).cl.busy = s.cl.busy := rfl
@[simp] theorem State.setCb_tasks (b : Nat) (c : CircBuf) (s : State) : (s.setCb b c).cl.tasks = s.cl.tasks := rfl
@[simp] theorem State.setCb_slaves (b : Nat) (c : CircBuf) (s : State) : (s.setCb b c).cl.slaves = s.cl.slaves := rfl
@[simp] theorem State.setCb_xeng (b : Nat) (c : CircBuf) (s : State) : (s.setCb b c).cl.xeng = s.cl.xeng := rfl
@[simp] theorem State.setCb_part (b : Nat) (c : CircBuf) (s : State) : (s.setCb b c).cl.part = s.cl.part := rfl
@[simp] theorem State.setCb_gear (b : Nat) (c : CircBuf) (s : State) : (s.setCb b c).cl.gear = s.cl.gear := rfl
@[simp] theorem State.setCb_gearReqs (b : Nat) (c : CircBuf) (s : State) : (s.setCb b c).cl.gearReqs = s.cl.gearReqs := rfl
@[simp] theorem State.setCb_arb (b : Nat) (c : CircBuf) (s : State) : (s.setCb b c).cl.arb = s.cl.arb := rfl
@[simp] theorem State.setCb_queues (b : Nat) (c : CircBuf) (s : State) : (s.setCb b c).cl.queues = s.cl.queues := rfl
@[simp] theorem State.setCb_jobs (b : Nat) (c : CircBuf) (s : State) : (s.setCb b c).cl.jobs = s.cl.jobs := rfl
@[simp] theorem State.setCb_turn (b : Nat) (c : CircBuf) (s : State) : (s.setCb b c).cl.turn = s.cl.turn := rfl
@[simp] theorem State.setCb_inbound (b : Nat) (c : CircBuf) (s : State) : (s.setCb b c).cl.inbound = s.cl.inbound := rfl
@[simp] theorem State.setCb_addrTable (b : Nat) (c : CircBuf) (s : State) : (s.setCb b c).cl.addrTable = s.cl.addrTable := rfl
@[simp] theorem State.setCb_others (b : Nat) (c : CircBuf) (s : State) : (s.setCb b c).cl.others = s.cl.others := rfl
@[simp] theorem State.setCb_addresses (b : Nat) (c : CircBuf) (s : State) : (s.setCb b c).cl.addresses = s.cl.addresses := rfl
@[simp] theorem State.setCb_gangs (b : Nat) (c : CircBuf) (s : State) : (s.setCb b c).cl.gangs = s.cl.gangs := rfl

@[simp] theorem State.setJob_ctx (i : Nat) (j : Job) (s : State) : (s.setJob i j).ctx = s.ctx := rfl
@[simp] theorem State.setJob_core (i : Nat) (j : Job) (s : State) : (s.setJob i j).core = s.core := rfl
@[simp] theorem State.setJob_pkg (i : Nat) (j : Job) (s : State) : (s.setJob i j).pkg = s.pkg := rfl
@[simp] theorem State.setJob_agenda (i : Nat) (j : Job) (s : State) : (s.setJob i j).agenda = s.agenda := rfl
@[simp] theorem State.setJob_turns (i : Nat) (j : Job) (s : State) : (s.setJob i j).turns = s.turns := rfl
@[simp] theorem State.setJob_index (i : Nat) (j : Job) (s : State) : (s.setJob i j).cl.index = s.cl.index := rfl
@[simp] theorem State.setJob_stores (i : Nat) (j : Job) (s : State) : (s.setJob i j).cl.stores = s.cl.stores := rfl
@[simp] theorem State.setJob_spad (i : Nat) (j : Job) (s : State) : (s.setJob i j).cl.spad = s.cl.spad := rfl
@[simp] theorem State.setJob_bad (i : Nat) (j : Job) (s : State) : (s.setJob i j).cl.bad = s.cl.bad := rfl
@[simp] theorem State.setJob_phase (i : Nat) (j : Job) (s : State) : (s.setJob i j).cl.phase = s.cl.phase := rfl
@[simp] theorem State.setJob_pointers (i : Nat) (j : Job) (s : State) : (s.setJob i j).cl.pointers = s.cl.pointers := rfl
@[simp] theorem State.setJob_bankBusy (i : Nat) (j : Job) (s : State) : (s.setJob i j).cl.bankBusy = s.cl.bankBusy := rfl
@[simp] theorem State.setJob_bars (i : Nat) (j : Job) (s : State) : (s.setJob i j).cl.bars = s.cl.bars := rfl
@[simp] theorem State.setJob_mutexes (i : Nat) (j : Job) (s : State) : (s.setJob i j).cl.mutexes = s.cl.mutexes := rfl
@[simp] theorem State.setJob_events (i : Nat) (j : Job) (s : State) : (s.setJob i j).cl.events = s.cl.events := rfl
@[simp] theorem State.setJob_gangMembers (i : Nat) (j : Job) (s : State) : (s.setJob i j).cl.gangMembers = s.cl.gangMembers := rfl
@[simp] theorem State.setJob_gangArrived (i : Nat) (j : Job) (s : State) : (s.setJob i j).cl.gangArrived = s.cl.gangArrived := rfl
@[simp] theorem State.setJob_gangTx (i : Nat) (j : Job) (s : State) : (s.setJob i j).cl.gangTx = s.cl.gangTx := rfl
@[simp] theorem State.setJob_arrivals (i : Nat) (j : Job) (s : State) : (s.setJob i j).cl.arrivals = s.cl.arrivals := rfl
@[simp] theorem State.setJob_bstore (i : Nat) (j : Job) (s : State) : (s.setJob i j).cl.bstore = s.cl.bstore := rfl
@[simp] theorem State.setJob_tags (i : Nat) (j : Job) (s : State) : (s.setJob i j).cl.tags = s.cl.tags := rfl
@[simp] theorem State.setJob_snaps (i : Nat) (j : Job) (s : State) : (s.setJob i j).cl.snaps = s.cl.snaps := rfl
@[simp] theorem State.setJob_badCells (i : Nat) (j : Job) (s : State) : (s.setJob i j).cl.badCells = s.cl.badCells := rfl
@[simp] theorem State.setJob_cbs (i : Nat) (j : Job) (s : State) : (s.setJob i j).cl.cbs = s.cl.cbs := rfl
@[simp] theorem State.setJob_launchQ (i : Nat) (j : Job) (s : State) : (s.setJob i j).cl.launchQ = s.cl.launchQ := rfl
@[simp] theorem State.setJob_overflow (i : Nat) (j : Job) (s : State) : (s.setJob i j).cl.overflow = s.cl.overflow := rfl
@[simp] theorem State.setJob_outRecs (i : Nat) (j : Job) (s : State) : (s.setJob i j).cl.outRecs = s.cl.outRecs := rfl
@[simp] theorem State.setJob_dispatched (i : Nat) (j : Job) (s : State) : (s.setJob i j).cl.dispatched = s.cl.dispatched := rfl
@[simp] theorem State.setJob_busy (i : Nat) (j : Job) (s : State) : (s.setJob i j).cl.busy = s.cl.busy := rfl
@[simp] theorem State.setJob_tasks (i : Nat) (j : Job) (s : State) : (s.setJob i j).cl.tasks = s.cl.tasks := rfl
@[simp] theorem State.setJob_slaves (i : Nat) (j : Job) (s : State) : (s.setJob i j).cl.slaves = s.cl.slaves := rfl
@[simp] theorem State.setJob_xeng (i : Nat) (j : Job) (s : State) : (s.setJob i j).cl.xeng = s.cl.xeng := rfl
@[simp] theorem State.setJob_part (i : Nat) (j : Job) (s : State) : (s.setJob i j).cl.part = s.cl.part := rfl
@[simp] theorem State.setJob_gear (i : Nat) (j : Job) (s : State) : (s.setJob i j).cl.gear = s.cl.gear := rfl
@[simp] theorem State.setJob_gearReqs (i : Nat) (j : Job) (s : State) : (s.setJob i j).cl.gearReqs = s.cl.gearReqs := rfl
@[simp] theorem State.setJob_arb (i : Nat) (j : Job) (s : State) : (s.setJob i j).cl.arb = s.cl.arb := rfl
@[simp] theorem State.setJob_queues (i : Nat) (j : Job) (s : State) : (s.setJob i j).cl.queues = s.cl.queues := rfl
@[simp] theorem State.setJob_jobs (i : Nat) (j : Job) (s : State) : (s.setJob i j).cl.jobs = s.cl.jobs.set i j := rfl
@[simp] theorem State.setJob_turn (i : Nat) (j : Job) (s : State) : (s.setJob i j).cl.turn = s.cl.turn := rfl
@[simp] theorem State.setJob_inbound (i : Nat) (j : Job) (s : State) : (s.setJob i j).cl.inbound = s.cl.inbound := rfl
@[simp] theorem State.setJob_addrTable (i : Nat) (j : Job) (s : State) : (s.setJob i j).cl.addrTable = s.cl.addrTable := rfl
@[simp] theorem State.setJob_others (i : Nat) (j : Job) (s : State) : (s.setJob i j).cl.others = s.cl.others := rfl
@[simp] theorem State.setJob_addresses (i : Nat) (j : Job) (s : State) : (s.setJob i j).cl.addresses = s.cl.addresses := rfl
@[simp] theorem State.setJob_gangs (i : Nat) (j : Job) (s : State) : (s.setJob i j).cl.gangs = s.cl.gangs := rfl

@[simp] theorem State.setCmd_ctx (k : Nat) (c : KilnCmd) (s : State) : (s.setCmd k c).ctx = s.ctx := rfl
@[simp] theorem State.setCmd_cl (k : Nat) (c : KilnCmd) (s : State) : (s.setCmd k c).cl = s.cl := rfl
@[simp] theorem State.setCmd_pkg (k : Nat) (c : KilnCmd) (s : State) : (s.setCmd k c).pkg = s.pkg := rfl
@[simp] theorem State.setCmd_agenda (k : Nat) (c : KilnCmd) (s : State) : (s.setCmd k c).agenda = s.agenda := rfl
@[simp] theorem State.setCmd_turns (k : Nat) (c : KilnCmd) (s : State) : (s.setCmd k c).turns = s.turns := rfl
@[simp] theorem State.setCmd_control (k : Nat) (c : KilnCmd) (s : State) : (s.setCmd k c).core.control = s.core.control := rfl
@[simp] theorem State.setCmd_idx (k : Nat) (c : KilnCmd) (s : State) : (s.setCmd k c).core.idx = s.core.idx := rfl
@[simp] theorem State.setCmd_die (k : Nat) (c : KilnCmd) (s : State) : (s.setCmd k c).core.die = s.core.die := rfl
@[simp] theorem State.setCmd_pcore (k : Nat) (c : KilnCmd) (s : State) : (s.setCmd k c).core.pcore = s.core.pcore := rfl
@[simp] theorem State.setCmd_run (k : Nat) (c : KilnCmd) (s : State) : (s.setCmd k c).core.run = s.core.run := rfl
@[simp] theorem State.setCmd_k (k : Nat) (c : KilnCmd) (s : State) : (s.setCmd k c).core.k = s.core.k := rfl
@[simp] theorem State.setCmd_handler (k : Nat) (c : KilnCmd) (s : State) : (s.setCmd k c).core.handler = s.core.handler := rfl
@[simp] theorem State.setCmd_trctl (k : Nat) (c : KilnCmd) (s : State) : (s.setCmd k c).core.trctl = s.core.trctl := rfl
@[simp] theorem State.setCmd_trn (k : Nat) (c : KilnCmd) (s : State) : (s.setCmd k c).core.trn = s.core.trn := rfl
@[simp] theorem State.setCmd_dbgHalt (k : Nat) (c : KilnCmd) (s : State) : (s.setCmd k c).core.dbgHalt = s.core.dbgHalt := rfl
@[simp] theorem State.setCmd_dbgStep (k : Nat) (c : KilnCmd) (s : State) : (s.setCmd k c).core.dbgStep = s.core.dbgStep := rfl
@[simp] theorem State.setCmd_dbgQuiesce (k : Nat) (c : KilnCmd) (s : State) : (s.setCmd k c).core.dbgQuiesce = s.core.dbgQuiesce := rfl
@[simp] theorem State.setCmd_halted (k : Nat) (c : KilnCmd) (s : State) : (s.setCmd k c).core.halted = s.core.halted := rfl
@[simp] theorem State.setCmd_armed (k : Nat) (c : KilnCmd) (s : State) : (s.setCmd k c).core.armed = s.core.armed := rfl
@[simp] theorem State.setCmd_saved (k : Nat) (c : KilnCmd) (s : State) : (s.setCmd k c).core.saved = s.core.saved := rfl
@[simp] theorem State.setCmd_cyc (k : Nat) (c : KilnCmd) (s : State) : (s.setCmd k c).core.cyc = s.core.cyc := rfl
@[simp] theorem State.setCmd_frac (k : Nat) (c : KilnCmd) (s : State) : (s.setCmd k c).core.frac = s.core.frac := rfl
@[simp] theorem State.setCmd_pend (k : Nat) (c : KilnCmd) (s : State) : (s.setCmd k c).core.pend = s.core.pend := rfl
@[simp] theorem State.setCmd_locked (k : Nat) (c : KilnCmd) (s : State) : (s.setCmd k c).core.locked = s.core.locked := rfl
@[simp] theorem State.setCmd_pre (k : Nat) (c : KilnCmd) (s : State) : (s.setCmd k c).core.pre = s.core.pre := rfl
@[simp] theorem State.setCmd_ifetch (k : Nat) (c : KilnCmd) (s : State) : (s.setCmd k c).core.ifetch = s.core.ifetch := rfl
@[simp] theorem State.setCmd_gq (k : Nat) (c : KilnCmd) (s : State) : (s.setCmd k c).core.gq = s.core.gq := rfl
@[simp] theorem State.setCmd_wait (k : Nat) (c : KilnCmd) (s : State) : (s.setCmd k c).core.wait = s.core.wait := rfl
@[simp] theorem State.setCmd_fence (k : Nat) (c : KilnCmd) (s : State) : (s.setCmd k c).core.fence = s.core.fence := rfl
@[simp] theorem State.setCmd_reqs (k : Nat) (c : KilnCmd) (s : State) : (s.setCmd k c).core.reqs = s.core.reqs := rfl
@[simp] theorem State.setCmd_kq (k : Nat) (c : KilnCmd) (s : State) : (s.setCmd k c).core.kq = s.core.kq.set k c := rfl
@[simp] theorem State.setCmd_outMsgs (k : Nat) (c : KilnCmd) (s : State) : (s.setCmd k c).core.outMsgs = s.core.outMsgs := rfl
@[simp] theorem State.setCmd_chain (k : Nat) (c : KilnCmd) (s : State) : (s.setCmd k c).core.chain = s.core.chain := rfl
@[simp] theorem State.setCmd_red (k : Nat) (c : KilnCmd) (s : State) : (s.setCmd k c).core.red = s.core.red := rfl
@[simp] theorem State.setCmd_badRegs (k : Nat) (c : KilnCmd) (s : State) : (s.setCmd k c).core.badRegs = s.core.badRegs := rfl
@[simp] theorem State.setCmd_badAcc (k : Nat) (c : KilnCmd) (s : State) : (s.setCmd k c).core.badAcc = s.core.badAcc := rfl
@[simp] theorem State.setCmd_badCtx (k : Nat) (c : KilnCmd) (s : State) : (s.setCmd k c).core.badCtx = s.core.badCtx := rfl

@[simp] theorem State.enqueue_ctx (a : GAccess) (s : State) : (s.enqueue a).ctx = s.ctx := rfl
@[simp] theorem State.enqueue_cl (a : GAccess) (s : State) : (s.enqueue a).cl = s.cl := rfl
@[simp] theorem State.enqueue_pkg (a : GAccess) (s : State) : (s.enqueue a).pkg = s.pkg := rfl
@[simp] theorem State.enqueue_agenda (a : GAccess) (s : State) : (s.enqueue a).agenda = s.agenda := rfl
@[simp] theorem State.enqueue_turns (a : GAccess) (s : State) : (s.enqueue a).turns = s.turns := rfl
@[simp] theorem State.enqueue_control (a : GAccess) (s : State) : (s.enqueue a).core.control = s.core.control := rfl
@[simp] theorem State.enqueue_idx (a : GAccess) (s : State) : (s.enqueue a).core.idx = s.core.idx := rfl
@[simp] theorem State.enqueue_die (a : GAccess) (s : State) : (s.enqueue a).core.die = s.core.die := rfl
@[simp] theorem State.enqueue_pcore (a : GAccess) (s : State) : (s.enqueue a).core.pcore = s.core.pcore := rfl
@[simp] theorem State.enqueue_run (a : GAccess) (s : State) : (s.enqueue a).core.run = s.core.run := rfl
@[simp] theorem State.enqueue_k (a : GAccess) (s : State) : (s.enqueue a).core.k = s.core.k := rfl
@[simp] theorem State.enqueue_handler (a : GAccess) (s : State) : (s.enqueue a).core.handler = s.core.handler := rfl
@[simp] theorem State.enqueue_trctl (a : GAccess) (s : State) : (s.enqueue a).core.trctl = s.core.trctl := rfl
@[simp] theorem State.enqueue_trn (a : GAccess) (s : State) : (s.enqueue a).core.trn = s.core.trn := rfl
@[simp] theorem State.enqueue_dbgHalt (a : GAccess) (s : State) : (s.enqueue a).core.dbgHalt = s.core.dbgHalt := rfl
@[simp] theorem State.enqueue_dbgStep (a : GAccess) (s : State) : (s.enqueue a).core.dbgStep = s.core.dbgStep := rfl
@[simp] theorem State.enqueue_dbgQuiesce (a : GAccess) (s : State) : (s.enqueue a).core.dbgQuiesce = s.core.dbgQuiesce := rfl
@[simp] theorem State.enqueue_halted (a : GAccess) (s : State) : (s.enqueue a).core.halted = s.core.halted := rfl
@[simp] theorem State.enqueue_armed (a : GAccess) (s : State) : (s.enqueue a).core.armed = s.core.armed := rfl
@[simp] theorem State.enqueue_saved (a : GAccess) (s : State) : (s.enqueue a).core.saved = s.core.saved := rfl
@[simp] theorem State.enqueue_cyc (a : GAccess) (s : State) : (s.enqueue a).core.cyc = s.core.cyc := rfl
@[simp] theorem State.enqueue_frac (a : GAccess) (s : State) : (s.enqueue a).core.frac = s.core.frac := rfl
@[simp] theorem State.enqueue_pend (a : GAccess) (s : State) : (s.enqueue a).core.pend = s.core.pend := rfl
@[simp] theorem State.enqueue_locked (a : GAccess) (s : State) : (s.enqueue a).core.locked = s.core.locked := rfl
@[simp] theorem State.enqueue_pre (a : GAccess) (s : State) : (s.enqueue a).core.pre = s.core.pre := rfl
@[simp] theorem State.enqueue_ifetch (a : GAccess) (s : State) : (s.enqueue a).core.ifetch = s.core.ifetch := rfl
@[simp] theorem State.enqueue_gq (a : GAccess) (s : State) : (s.enqueue a).core.gq = s.core.gq ++ [a] := rfl
@[simp] theorem State.enqueue_wait (a : GAccess) (s : State) : (s.enqueue a).core.wait = s.core.wait := rfl
@[simp] theorem State.enqueue_fence (a : GAccess) (s : State) : (s.enqueue a).core.fence = s.core.fence := rfl
@[simp] theorem State.enqueue_reqs (a : GAccess) (s : State) : (s.enqueue a).core.reqs = s.core.reqs := rfl
@[simp] theorem State.enqueue_kq (a : GAccess) (s : State) : (s.enqueue a).core.kq = s.core.kq := rfl
@[simp] theorem State.enqueue_outMsgs (a : GAccess) (s : State) : (s.enqueue a).core.outMsgs = s.core.outMsgs := rfl
@[simp] theorem State.enqueue_chain (a : GAccess) (s : State) : (s.enqueue a).core.chain = s.core.chain := rfl
@[simp] theorem State.enqueue_red (a : GAccess) (s : State) : (s.enqueue a).core.red = s.core.red := rfl
@[simp] theorem State.enqueue_badRegs (a : GAccess) (s : State) : (s.enqueue a).core.badRegs = s.core.badRegs := rfl
@[simp] theorem State.enqueue_badAcc (a : GAccess) (s : State) : (s.enqueue a).core.badAcc = s.core.badAcc := rfl
@[simp] theorem State.enqueue_badCtx (a : GAccess) (s : State) : (s.enqueue a).core.badCtx = s.core.badCtx := rfl

@[simp] theorem State.waitFor_ctx (k : WaitKind) (s : State) : (s.waitFor k).ctx = s.ctx := rfl
@[simp] theorem State.waitFor_cl (k : WaitKind) (s : State) : (s.waitFor k).cl = s.cl := rfl
@[simp] theorem State.waitFor_pkg (k : WaitKind) (s : State) : (s.waitFor k).pkg = s.pkg := rfl
@[simp] theorem State.waitFor_agenda (k : WaitKind) (s : State) : (s.waitFor k).agenda = s.agenda := rfl
@[simp] theorem State.waitFor_turns (k : WaitKind) (s : State) : (s.waitFor k).turns = s.turns := rfl
@[simp] theorem State.waitFor_control (k : WaitKind) (s : State) : (s.waitFor k).core.control = s.core.control := rfl
@[simp] theorem State.waitFor_idx (k : WaitKind) (s : State) : (s.waitFor k).core.idx = s.core.idx := rfl
@[simp] theorem State.waitFor_die (k : WaitKind) (s : State) : (s.waitFor k).core.die = s.core.die := rfl
@[simp] theorem State.waitFor_pcore (k : WaitKind) (s : State) : (s.waitFor k).core.pcore = s.core.pcore := rfl
@[simp] theorem State.waitFor_run (k : WaitKind) (s : State) : (s.waitFor k).core.run = s.core.run := rfl
@[simp] theorem State.waitFor_k (k : WaitKind) (s : State) : (s.waitFor k).core.k = s.core.k := rfl
@[simp] theorem State.waitFor_handler (k : WaitKind) (s : State) : (s.waitFor k).core.handler = s.core.handler := rfl
@[simp] theorem State.waitFor_trctl (k : WaitKind) (s : State) : (s.waitFor k).core.trctl = s.core.trctl := rfl
@[simp] theorem State.waitFor_trn (k : WaitKind) (s : State) : (s.waitFor k).core.trn = s.core.trn := rfl
@[simp] theorem State.waitFor_dbgHalt (k : WaitKind) (s : State) : (s.waitFor k).core.dbgHalt = s.core.dbgHalt := rfl
@[simp] theorem State.waitFor_dbgStep (k : WaitKind) (s : State) : (s.waitFor k).core.dbgStep = s.core.dbgStep := rfl
@[simp] theorem State.waitFor_dbgQuiesce (k : WaitKind) (s : State) : (s.waitFor k).core.dbgQuiesce = s.core.dbgQuiesce := rfl
@[simp] theorem State.waitFor_halted (k : WaitKind) (s : State) : (s.waitFor k).core.halted = s.core.halted := rfl
@[simp] theorem State.waitFor_armed (k : WaitKind) (s : State) : (s.waitFor k).core.armed = s.core.armed := rfl
@[simp] theorem State.waitFor_saved (k : WaitKind) (s : State) : (s.waitFor k).core.saved = s.core.saved := rfl
@[simp] theorem State.waitFor_cyc (k : WaitKind) (s : State) : (s.waitFor k).core.cyc = s.core.cyc := rfl
@[simp] theorem State.waitFor_frac (k : WaitKind) (s : State) : (s.waitFor k).core.frac = s.core.frac := rfl
@[simp] theorem State.waitFor_pend (k : WaitKind) (s : State) : (s.waitFor k).core.pend = s.core.pend := rfl
@[simp] theorem State.waitFor_locked (k : WaitKind) (s : State) : (s.waitFor k).core.locked = s.core.locked := rfl
@[simp] theorem State.waitFor_pre (k : WaitKind) (s : State) : (s.waitFor k).core.pre = s.core.pre := rfl
@[simp] theorem State.waitFor_ifetch (k : WaitKind) (s : State) : (s.waitFor k).core.ifetch = s.core.ifetch := rfl
@[simp] theorem State.waitFor_gq (k : WaitKind) (s : State) : (s.waitFor k).core.gq = s.core.gq := rfl
@[simp] theorem State.waitFor_wait (k : WaitKind) (s : State) : (s.waitFor k).core.wait = some ⟨k, none, true⟩ := rfl
@[simp] theorem State.waitFor_fence (k : WaitKind) (s : State) : (s.waitFor k).core.fence = s.core.fence := rfl
@[simp] theorem State.waitFor_reqs (k : WaitKind) (s : State) : (s.waitFor k).core.reqs = s.core.reqs := rfl
@[simp] theorem State.waitFor_kq (k : WaitKind) (s : State) : (s.waitFor k).core.kq = s.core.kq := rfl
@[simp] theorem State.waitFor_outMsgs (k : WaitKind) (s : State) : (s.waitFor k).core.outMsgs = s.core.outMsgs := rfl
@[simp] theorem State.waitFor_chain (k : WaitKind) (s : State) : (s.waitFor k).core.chain = s.core.chain := rfl
@[simp] theorem State.waitFor_red (k : WaitKind) (s : State) : (s.waitFor k).core.red = s.core.red := rfl
@[simp] theorem State.waitFor_badRegs (k : WaitKind) (s : State) : (s.waitFor k).core.badRegs = s.core.badRegs := rfl
@[simp] theorem State.waitFor_badAcc (k : WaitKind) (s : State) : (s.waitFor k).core.badAcc = s.core.badAcc := rfl
@[simp] theorem State.waitFor_badCtx (k : WaitKind) (s : State) : (s.waitFor k).core.badCtx = s.core.badCtx := rfl

@[simp] theorem State.endWait_ctx (s : State) : (s.endWait).ctx = s.ctx := rfl
@[simp] theorem State.endWait_cl (s : State) : (s.endWait).cl = s.cl := rfl
@[simp] theorem State.endWait_pkg (s : State) : (s.endWait).pkg = s.pkg := rfl
@[simp] theorem State.endWait_agenda (s : State) : (s.endWait).agenda = s.agenda := rfl
@[simp] theorem State.endWait_turns (s : State) : (s.endWait).turns = s.turns := rfl
@[simp] theorem State.endWait_control (s : State) : (s.endWait).core.control = s.core.control := rfl
@[simp] theorem State.endWait_idx (s : State) : (s.endWait).core.idx = s.core.idx := rfl
@[simp] theorem State.endWait_die (s : State) : (s.endWait).core.die = s.core.die := rfl
@[simp] theorem State.endWait_pcore (s : State) : (s.endWait).core.pcore = s.core.pcore := rfl
@[simp] theorem State.endWait_run (s : State) : (s.endWait).core.run = s.core.run := rfl
@[simp] theorem State.endWait_k (s : State) : (s.endWait).core.k = s.core.k := rfl
@[simp] theorem State.endWait_handler (s : State) : (s.endWait).core.handler = s.core.handler := rfl
@[simp] theorem State.endWait_trctl (s : State) : (s.endWait).core.trctl = s.core.trctl := rfl
@[simp] theorem State.endWait_trn (s : State) : (s.endWait).core.trn = s.core.trn := rfl
@[simp] theorem State.endWait_dbgHalt (s : State) : (s.endWait).core.dbgHalt = s.core.dbgHalt := rfl
@[simp] theorem State.endWait_dbgStep (s : State) : (s.endWait).core.dbgStep = s.core.dbgStep := rfl
@[simp] theorem State.endWait_dbgQuiesce (s : State) : (s.endWait).core.dbgQuiesce = s.core.dbgQuiesce := rfl
@[simp] theorem State.endWait_halted (s : State) : (s.endWait).core.halted = s.core.halted := rfl
@[simp] theorem State.endWait_armed (s : State) : (s.endWait).core.armed = s.core.armed := rfl
@[simp] theorem State.endWait_saved (s : State) : (s.endWait).core.saved = s.core.saved := rfl
@[simp] theorem State.endWait_cyc (s : State) : (s.endWait).core.cyc = s.core.cyc := rfl
@[simp] theorem State.endWait_frac (s : State) : (s.endWait).core.frac = s.core.frac := rfl
@[simp] theorem State.endWait_pend (s : State) : (s.endWait).core.pend = s.core.pend := rfl
@[simp] theorem State.endWait_locked (s : State) : (s.endWait).core.locked = s.core.locked := rfl
@[simp] theorem State.endWait_pre (s : State) : (s.endWait).core.pre = s.core.pre := rfl
@[simp] theorem State.endWait_ifetch (s : State) : (s.endWait).core.ifetch = s.core.ifetch := rfl
@[simp] theorem State.endWait_gq (s : State) : (s.endWait).core.gq = s.core.gq := rfl
@[simp] theorem State.endWait_wait (s : State) : (s.endWait).core.wait = none := rfl
@[simp] theorem State.endWait_fence (s : State) : (s.endWait).core.fence = s.core.fence := rfl
@[simp] theorem State.endWait_reqs (s : State) : (s.endWait).core.reqs = s.core.reqs := rfl
@[simp] theorem State.endWait_kq (s : State) : (s.endWait).core.kq = s.core.kq := rfl
@[simp] theorem State.endWait_outMsgs (s : State) : (s.endWait).core.outMsgs = s.core.outMsgs := rfl
@[simp] theorem State.endWait_chain (s : State) : (s.endWait).core.chain = s.core.chain := rfl
@[simp] theorem State.endWait_red (s : State) : (s.endWait).core.red = s.core.red := rfl
@[simp] theorem State.endWait_badRegs (s : State) : (s.endWait).core.badRegs = s.core.badRegs := rfl
@[simp] theorem State.endWait_badAcc (s : State) : (s.endWait).core.badAcc = s.core.badAcc := rfl
@[simp] theorem State.endWait_badCtx (s : State) : (s.endWait).core.badCtx = s.core.badCtx := rfl

@[simp] theorem State.setFull_ctx (pa : Nat) (b : Bool) (s : State) : (s.setFull pa b).ctx = s.ctx := rfl
@[simp] theorem State.setFull_core (pa : Nat) (b : Bool) (s : State) : (s.setFull pa b).core = s.core := rfl
@[simp] theorem State.setFull_cl (pa : Nat) (b : Bool) (s : State) : (s.setFull pa b).cl = s.cl := rfl
@[simp] theorem State.setFull_agenda (pa : Nat) (b : Bool) (s : State) : (s.setFull pa b).agenda = s.agenda := rfl
@[simp] theorem State.setFull_turns (pa : Nat) (b : Bool) (s : State) : (s.setFull pa b).turns = s.turns := rfl
@[simp] theorem State.setFull_cycle (pa : Nat) (b : Bool) (s : State) : (s.setFull pa b).pkg.cycle = s.pkg.cycle := rfl
@[simp] theorem State.setFull_rank (pa : Nat) (b : Bool) (s : State) : (s.setFull pa b).pkg.rank = s.pkg.rank := rfl
@[simp] theorem State.setFull_mem (pa : Nat) (b : Bool) (s : State) : (s.setFull pa b).pkg.mem = s.pkg.mem := rfl
@[simp] theorem State.setFull_empty (pa : Nat) (b : Bool) (s : State) : (s.setFull pa b).pkg.empty = if b then s.pkg.empty.filter (· != pa) else insertNat pa s.pkg.empty := rfl
@[simp] theorem State.setFull_poison (pa : Nat) (b : Bool) (s : State) : (s.setFull pa b).pkg.poison = s.pkg.poison := rfl
@[simp] theorem State.setFull_kept (pa : Nat) (b : Bool) (s : State) : (s.setFull pa b).pkg.kept = s.pkg.kept := rfl
@[simp] theorem State.setFull_deferred (pa : Nat) (b : Bool) (s : State) : (s.setFull pa b).pkg.deferred = s.pkg.deferred := rfl
@[simp] theorem State.setFull_lines (pa : Nat) (b : Bool) (s : State) : (s.setFull pa b).pkg.lines = s.pkg.lines := rfl
@[simp] theorem State.setFull_stayHome (pa : Nat) (b : Bool) (s : State) : (s.setFull pa b).pkg.stayHome = s.pkg.stayHome := rfl
@[simp] theorem State.setFull_predictor (pa : Nat) (b : Bool) (s : State) : (s.setFull pa b).pkg.predictor = s.pkg.predictor := rfl
@[simp] theorem State.setFull_seq (pa : Nat) (b : Bool) (s : State) : (s.setFull pa b).pkg.seq = s.pkg.seq := rfl
@[simp] theorem State.setFull_exports (pa : Nat) (b : Bool) (s : State) : (s.setFull pa b).pkg.exports = s.pkg.exports := rfl
@[simp] theorem State.setFull_domain (pa : Nat) (b : Bool) (s : State) : (s.setFull pa b).pkg.domain = s.pkg.domain := rfl
@[simp] theorem State.setFull_ready (pa : Nat) (b : Bool) (s : State) : (s.setFull pa b).pkg.ready = s.pkg.ready := rfl
@[simp] theorem State.setFull_linksDown (pa : Nat) (b : Bool) (s : State) : (s.setFull pa b).pkg.linksDown = s.pkg.linksDown := rfl
@[simp] theorem State.setFull_sensinj (pa : Nat) (b : Bool) (s : State) : (s.setFull pa b).pkg.sensinj = s.pkg.sensinj := rfl
@[simp] theorem State.setFull_injected (pa : Nat) (b : Bool) (s : State) : (s.setFull pa b).pkg.injected = s.pkg.injected := rfl
@[simp] theorem State.setFull_readings (pa : Nat) (b : Bool) (s : State) : (s.setFull pa b).pkg.readings = s.pkg.readings := rfl
@[simp] theorem State.setFull_mult (pa : Nat) (b : Bool) (s : State) : (s.setFull pa b).pkg.mult = s.pkg.mult := rfl
@[simp] theorem State.setFull_multAt (pa : Nat) (b : Bool) (s : State) : (s.setFull pa b).pkg.multAt = s.pkg.multAt := rfl
@[simp] theorem State.setFull_below (pa : Nat) (b : Bool) (s : State) : (s.setFull pa b).pkg.below = s.pkg.below := rfl
@[simp] theorem State.setFull_blocked (pa : Nat) (b : Bool) (s : State) : (s.setFull pa b).pkg.blocked = s.pkg.blocked := rfl
@[simp] theorem State.setFull_stage (pa : Nat) (b : Bool) (s : State) : (s.setFull pa b).pkg.stage = s.pkg.stage := rfl
@[simp] theorem State.setFull_hot (pa : Nat) (b : Bool) (s : State) : (s.setFull pa b).pkg.hot = s.pkg.hot := rfl
@[simp] theorem State.setFull_power (pa : Nat) (b : Bool) (s : State) : (s.setFull pa b).pkg.power = s.pkg.power := rfl
@[simp] theorem State.setFull_frozen (pa : Nat) (b : Bool) (s : State) : (s.setFull pa b).pkg.frozen = s.pkg.frozen := rfl
@[simp] theorem State.setFull_launches (pa : Nat) (b : Bool) (s : State) : (s.setFull pa b).pkg.launches = s.pkg.launches := rfl
@[simp] theorem State.setFull_sherd (pa : Nat) (b : Bool) (s : State) : (s.setFull pa b).pkg.sherd = s.pkg.sherd := rfl
@[simp] theorem State.setFull_flash (pa : Nat) (b : Bool) (s : State) : (s.setFull pa b).pkg.flash = s.pkg.flash := rfl
@[simp] theorem State.setFull_sherdCopy (pa : Nat) (b : Bool) (s : State) : (s.setFull pa b).pkg.sherdCopy = s.pkg.sherdCopy := rfl
@[simp] theorem State.setFull_image (pa : Nat) (b : Bool) (s : State) : (s.setFull pa b).pkg.image = s.pkg.image := rfl
@[simp] theorem State.setFull_booting (pa : Nat) (b : Bool) (s : State) : (s.setFull pa b).pkg.booting = s.pkg.booting := rfl
@[simp] theorem State.setFull_reply (pa : Nat) (b : Bool) (s : State) : (s.setFull pa b).pkg.reply = s.pkg.reply := rfl
@[simp] theorem State.setFull_hostFaults (pa : Nat) (b : Bool) (s : State) : (s.setFull pa b).pkg.hostFaults = s.pkg.hostFaults := rfl
@[simp] theorem State.setFull_dropped (pa : Nat) (b : Bool) (s : State) : (s.setFull pa b).pkg.dropped = s.pkg.dropped := rfl
@[simp] theorem State.setFull_corrected (pa : Nat) (b : Bool) (s : State) : (s.setFull pa b).pkg.corrected = s.pkg.corrected := rfl
@[simp] theorem State.setFull_reports (pa : Nat) (b : Bool) (s : State) : (s.setFull pa b).pkg.reports = s.pkg.reports := rfl
@[simp] theorem State.setFull_beside (pa : Nat) (b : Bool) (s : State) : (s.setFull pa b).pkg.beside = s.pkg.beside := rfl
@[simp] theorem State.setFull_hostMail (pa : Nat) (b : Bool) (s : State) : (s.setFull pa b).pkg.hostMail = s.pkg.hostMail := rfl
@[simp] theorem State.setFull_reducing (pa : Nat) (b : Bool) (s : State) : (s.setFull pa b).pkg.reducing = s.pkg.reducing := rfl
@[simp] theorem State.setFull_refreshes (pa : Nat) (b : Bool) (s : State) : (s.setFull pa b).pkg.refreshes = s.pkg.refreshes := rfl
@[simp] theorem State.setFull_intervals (pa : Nat) (b : Bool) (s : State) : (s.setFull pa b).pkg.intervals = s.pkg.intervals := rfl
@[simp] theorem State.setFull_hostFns (pa : Nat) (b : Bool) (s : State) : (s.setFull pa b).pkg.hostFns = s.pkg.hostFns := rfl
@[simp] theorem State.setFull_peer (pa : Nat) (b : Bool) (s : State) : (s.setFull pa b).pkg.peer = s.pkg.peer := rfl
@[simp] theorem State.setFull_descriptors (pa : Nat) (b : Bool) (s : State) : (s.setFull pa b).pkg.descriptors = s.pkg.descriptors := rfl
@[simp] theorem State.setFull_txs (pa : Nat) (b : Bool) (s : State) : (s.setFull pa b).pkg.txs = s.pkg.txs := rfl

@[simp] theorem State.setReqs_ctx (g : Requests → Requests) (s : State) : (s.setReqs g).ctx = s.ctx := rfl
@[simp] theorem State.setReqs_cl (g : Requests → Requests) (s : State) : (s.setReqs g).cl = s.cl := rfl
@[simp] theorem State.setReqs_pkg (g : Requests → Requests) (s : State) : (s.setReqs g).pkg = s.pkg := rfl
@[simp] theorem State.setReqs_agenda (g : Requests → Requests) (s : State) : (s.setReqs g).agenda = s.agenda := rfl
@[simp] theorem State.setReqs_turns (g : Requests → Requests) (s : State) : (s.setReqs g).turns = s.turns := rfl
@[simp] theorem State.setReqs_control (g : Requests → Requests) (s : State) : (s.setReqs g).core.control = s.core.control := rfl
@[simp] theorem State.setReqs_idx (g : Requests → Requests) (s : State) : (s.setReqs g).core.idx = s.core.idx := rfl
@[simp] theorem State.setReqs_die (g : Requests → Requests) (s : State) : (s.setReqs g).core.die = s.core.die := rfl
@[simp] theorem State.setReqs_pcore (g : Requests → Requests) (s : State) : (s.setReqs g).core.pcore = s.core.pcore := rfl
@[simp] theorem State.setReqs_run (g : Requests → Requests) (s : State) : (s.setReqs g).core.run = s.core.run := rfl
@[simp] theorem State.setReqs_k (g : Requests → Requests) (s : State) : (s.setReqs g).core.k = s.core.k := rfl
@[simp] theorem State.setReqs_handler (g : Requests → Requests) (s : State) : (s.setReqs g).core.handler = s.core.handler := rfl
@[simp] theorem State.setReqs_trctl (g : Requests → Requests) (s : State) : (s.setReqs g).core.trctl = s.core.trctl := rfl
@[simp] theorem State.setReqs_trn (g : Requests → Requests) (s : State) : (s.setReqs g).core.trn = s.core.trn := rfl
@[simp] theorem State.setReqs_dbgHalt (g : Requests → Requests) (s : State) : (s.setReqs g).core.dbgHalt = s.core.dbgHalt := rfl
@[simp] theorem State.setReqs_dbgStep (g : Requests → Requests) (s : State) : (s.setReqs g).core.dbgStep = s.core.dbgStep := rfl
@[simp] theorem State.setReqs_dbgQuiesce (g : Requests → Requests) (s : State) : (s.setReqs g).core.dbgQuiesce = s.core.dbgQuiesce := rfl
@[simp] theorem State.setReqs_halted (g : Requests → Requests) (s : State) : (s.setReqs g).core.halted = s.core.halted := rfl
@[simp] theorem State.setReqs_armed (g : Requests → Requests) (s : State) : (s.setReqs g).core.armed = s.core.armed := rfl
@[simp] theorem State.setReqs_saved (g : Requests → Requests) (s : State) : (s.setReqs g).core.saved = s.core.saved := rfl
@[simp] theorem State.setReqs_cyc (g : Requests → Requests) (s : State) : (s.setReqs g).core.cyc = s.core.cyc := rfl
@[simp] theorem State.setReqs_frac (g : Requests → Requests) (s : State) : (s.setReqs g).core.frac = s.core.frac := rfl
@[simp] theorem State.setReqs_pend (g : Requests → Requests) (s : State) : (s.setReqs g).core.pend = s.core.pend := rfl
@[simp] theorem State.setReqs_locked (g : Requests → Requests) (s : State) : (s.setReqs g).core.locked = s.core.locked := rfl
@[simp] theorem State.setReqs_pre (g : Requests → Requests) (s : State) : (s.setReqs g).core.pre = s.core.pre := rfl
@[simp] theorem State.setReqs_ifetch (g : Requests → Requests) (s : State) : (s.setReqs g).core.ifetch = s.core.ifetch := rfl
@[simp] theorem State.setReqs_gq (g : Requests → Requests) (s : State) : (s.setReqs g).core.gq = s.core.gq := rfl
@[simp] theorem State.setReqs_wait (g : Requests → Requests) (s : State) : (s.setReqs g).core.wait = s.core.wait := rfl
@[simp] theorem State.setReqs_fence (g : Requests → Requests) (s : State) : (s.setReqs g).core.fence = s.core.fence := rfl
@[simp] theorem State.setReqs_reqs (g : Requests → Requests) (s : State) : (s.setReqs g).core.reqs = g s.core.reqs := rfl
@[simp] theorem State.setReqs_kq (g : Requests → Requests) (s : State) : (s.setReqs g).core.kq = s.core.kq := rfl
@[simp] theorem State.setReqs_outMsgs (g : Requests → Requests) (s : State) : (s.setReqs g).core.outMsgs = s.core.outMsgs := rfl
@[simp] theorem State.setReqs_chain (g : Requests → Requests) (s : State) : (s.setReqs g).core.chain = s.core.chain := rfl
@[simp] theorem State.setReqs_red (g : Requests → Requests) (s : State) : (s.setReqs g).core.red = s.core.red := rfl
@[simp] theorem State.setReqs_badRegs (g : Requests → Requests) (s : State) : (s.setReqs g).core.badRegs = s.core.badRegs := rfl
@[simp] theorem State.setReqs_badAcc (g : Requests → Requests) (s : State) : (s.setReqs g).core.badAcc = s.core.badAcc := rfl
@[simp] theorem State.setReqs_badCtx (g : Requests → Requests) (s : State) : (s.setReqs g).core.badCtx = s.core.badCtx := rfl

@[simp] theorem State.keep_ctx (ks : List Kept) (s : State) : (s.keep ks).ctx = s.ctx := rfl
@[simp] theorem State.keep_core (ks : List Kept) (s : State) : (s.keep ks).core = s.core := rfl
@[simp] theorem State.keep_cl (ks : List Kept) (s : State) : (s.keep ks).cl = s.cl := rfl
@[simp] theorem State.keep_agenda (ks : List Kept) (s : State) : (s.keep ks).agenda = s.agenda := rfl
@[simp] theorem State.keep_turns (ks : List Kept) (s : State) : (s.keep ks).turns = s.turns := rfl
@[simp] theorem State.keep_cycle (ks : List Kept) (s : State) : (s.keep ks).pkg.cycle = s.pkg.cycle := rfl
@[simp] theorem State.keep_rank (ks : List Kept) (s : State) : (s.keep ks).pkg.rank = s.pkg.rank := rfl
@[simp] theorem State.keep_mem (ks : List Kept) (s : State) : (s.keep ks).pkg.mem = s.pkg.mem := rfl
@[simp] theorem State.keep_empty (ks : List Kept) (s : State) : (s.keep ks).pkg.empty = s.pkg.empty := rfl
@[simp] theorem State.keep_poison (ks : List Kept) (s : State) : (s.keep ks).pkg.poison = s.pkg.poison := rfl
@[simp] theorem State.keep_deferred (ks : List Kept) (s : State) : (s.keep ks).pkg.deferred = s.pkg.deferred := rfl
@[simp] theorem State.keep_lines (ks : List Kept) (s : State) : (s.keep ks).pkg.lines = s.pkg.lines := rfl
@[simp] theorem State.keep_stayHome (ks : List Kept) (s : State) : (s.keep ks).pkg.stayHome = s.pkg.stayHome := rfl
@[simp] theorem State.keep_predictor (ks : List Kept) (s : State) : (s.keep ks).pkg.predictor = s.pkg.predictor := rfl
@[simp] theorem State.keep_seq (ks : List Kept) (s : State) : (s.keep ks).pkg.seq = s.pkg.seq := rfl
@[simp] theorem State.keep_exports (ks : List Kept) (s : State) : (s.keep ks).pkg.exports = s.pkg.exports := rfl
@[simp] theorem State.keep_domain (ks : List Kept) (s : State) : (s.keep ks).pkg.domain = s.pkg.domain := rfl
@[simp] theorem State.keep_ready (ks : List Kept) (s : State) : (s.keep ks).pkg.ready = s.pkg.ready := rfl
@[simp] theorem State.keep_linksDown (ks : List Kept) (s : State) : (s.keep ks).pkg.linksDown = s.pkg.linksDown := rfl
@[simp] theorem State.keep_sensinj (ks : List Kept) (s : State) : (s.keep ks).pkg.sensinj = s.pkg.sensinj := rfl
@[simp] theorem State.keep_injected (ks : List Kept) (s : State) : (s.keep ks).pkg.injected = s.pkg.injected := rfl
@[simp] theorem State.keep_readings (ks : List Kept) (s : State) : (s.keep ks).pkg.readings = s.pkg.readings := rfl
@[simp] theorem State.keep_mult (ks : List Kept) (s : State) : (s.keep ks).pkg.mult = s.pkg.mult := rfl
@[simp] theorem State.keep_multAt (ks : List Kept) (s : State) : (s.keep ks).pkg.multAt = s.pkg.multAt := rfl
@[simp] theorem State.keep_below (ks : List Kept) (s : State) : (s.keep ks).pkg.below = s.pkg.below := rfl
@[simp] theorem State.keep_blocked (ks : List Kept) (s : State) : (s.keep ks).pkg.blocked = s.pkg.blocked := rfl
@[simp] theorem State.keep_stage (ks : List Kept) (s : State) : (s.keep ks).pkg.stage = s.pkg.stage := rfl
@[simp] theorem State.keep_hot (ks : List Kept) (s : State) : (s.keep ks).pkg.hot = s.pkg.hot := rfl
@[simp] theorem State.keep_power (ks : List Kept) (s : State) : (s.keep ks).pkg.power = s.pkg.power := rfl
@[simp] theorem State.keep_frozen (ks : List Kept) (s : State) : (s.keep ks).pkg.frozen = s.pkg.frozen := rfl
@[simp] theorem State.keep_launches (ks : List Kept) (s : State) : (s.keep ks).pkg.launches = s.pkg.launches := rfl
@[simp] theorem State.keep_sherd (ks : List Kept) (s : State) : (s.keep ks).pkg.sherd = s.pkg.sherd := rfl
@[simp] theorem State.keep_flash (ks : List Kept) (s : State) : (s.keep ks).pkg.flash = s.pkg.flash := rfl
@[simp] theorem State.keep_sherdCopy (ks : List Kept) (s : State) : (s.keep ks).pkg.sherdCopy = s.pkg.sherdCopy := rfl
@[simp] theorem State.keep_image (ks : List Kept) (s : State) : (s.keep ks).pkg.image = s.pkg.image := rfl
@[simp] theorem State.keep_booting (ks : List Kept) (s : State) : (s.keep ks).pkg.booting = s.pkg.booting := rfl
@[simp] theorem State.keep_reply (ks : List Kept) (s : State) : (s.keep ks).pkg.reply = s.pkg.reply := rfl
@[simp] theorem State.keep_hostFaults (ks : List Kept) (s : State) : (s.keep ks).pkg.hostFaults = s.pkg.hostFaults := rfl
@[simp] theorem State.keep_dropped (ks : List Kept) (s : State) : (s.keep ks).pkg.dropped = s.pkg.dropped := rfl
@[simp] theorem State.keep_corrected (ks : List Kept) (s : State) : (s.keep ks).pkg.corrected = s.pkg.corrected := rfl
@[simp] theorem State.keep_reports (ks : List Kept) (s : State) : (s.keep ks).pkg.reports = s.pkg.reports := rfl
@[simp] theorem State.keep_beside (ks : List Kept) (s : State) : (s.keep ks).pkg.beside = s.pkg.beside := rfl
@[simp] theorem State.keep_hostMail (ks : List Kept) (s : State) : (s.keep ks).pkg.hostMail = s.pkg.hostMail := rfl
@[simp] theorem State.keep_reducing (ks : List Kept) (s : State) : (s.keep ks).pkg.reducing = s.pkg.reducing := rfl
@[simp] theorem State.keep_refreshes (ks : List Kept) (s : State) : (s.keep ks).pkg.refreshes = s.pkg.refreshes := rfl
@[simp] theorem State.keep_intervals (ks : List Kept) (s : State) : (s.keep ks).pkg.intervals = s.pkg.intervals := rfl
@[simp] theorem State.keep_hostFns (ks : List Kept) (s : State) : (s.keep ks).pkg.hostFns = s.pkg.hostFns := rfl
@[simp] theorem State.keep_peer (ks : List Kept) (s : State) : (s.keep ks).pkg.peer = s.pkg.peer := rfl
@[simp] theorem State.keep_descriptors (ks : List Kept) (s : State) : (s.keep ks).pkg.descriptors = s.pkg.descriptors := rfl
@[simp] theorem State.keep_txs (ks : List Kept) (s : State) : (s.keep ks).pkg.txs = s.pkg.txs := rfl

end Sys2Proof.Machine
end

