-- ==== Sys2Proof/Laws/Time.lean ====
section
/-! SUPPORT. What the passing of time can change (R8, R20, R350, R397): the results that fall due, the clocks, and the counters that
count cycles; and that it changes no result, only when it lands. -/

namespace Sys2Proof.Machine

/-- Only time has passed between two states, and an interlock or a bank pointer has moved: every other field is as it was, and what
the registers hold once every issued instruction has completed is the same. -/
structure Timed (s t : State) : Prop where
  ctx : t.ctx = { s.ctx with
    regs := t.ctx.regs, fmode := t.ctx.fmode, sys := { s.ctx.sys with wdog := t.ctx.sys.wdog, stalls := t.ctx.sys.stalls } }
  core : t.core = { s.core with cyc := t.core.cyc, frac := t.core.frac, pend := t.core.pend, locked := t.core.locked }
  cl : t.cl = { s.cl with
    phase := t.cl.phase, pointers := t.cl.pointers, bankBusy := t.cl.bankBusy, gear := { s.cl.gear with sagLeft := t.cl.gear.sagLeft } }
  pkg : t.pkg = { s.pkg with cycle := t.pkg.cycle }
  agenda : t.agenda = s.agenda
  turns : t.turns = s.turns
  regs : t.settled.regs = s.settled.regs
  fmode : t.settled.fmode = s.settled.fmode

theorem Timed.refl (s : State) : Timed s s := ⟨rfl, rfl, rfl, rfl, rfl, rfl, rfl, rfl⟩

theorem Timed.trans {s t u : State} (h : Timed s t) (g : Timed t u) : Timed s u where
  ctx := by rw [g.ctx, h.ctx]
  core := by rw [g.core, h.core]
  cl := by rw [g.cl, h.cl]
  pkg := by rw [g.pkg, h.pkg]
  agenda := g.agenda.trans h.agenda
  turns := g.turns.trans h.turns
  regs := g.regs.trans h.regs
  fmode := g.fmode.trans h.fmode

/-- A result lands in the registers or in FMODE, and nowhere else. -/
theorem land_ctx (c : Ctx) (w : RegWrite) : c.land w = { c with regs := (c.land w).regs, fmode := (c.land w).fmode } := by
  cases w <;> rfl

theorem foldl_land (l : List Pending) (c : Ctx) :
    l.foldl (fun x p => x.land p.w) c =
      { c with regs := (l.foldl (fun x p => x.land p.w) c).regs, fmode := (l.foldl (fun x p => x.land p.w) c).fmode } := by
  induction l generalizing c with
  | nil => rfl
  | cons p l ih =>
    simp only [List.foldl_cons]
    refine (ih (c.land p.w)).trans ?_
    obtain ⟨d, w⟩ := p
    cases w <;> rfl

/-- The registers and FMODE that landing gives depend on those before alone. -/
theorem land_congr {c d : Ctx} (hr : c.regs = d.regs) (hf : c.fmode = d.fmode) (w : RegWrite) :
    (c.land w).regs = (d.land w).regs ∧ (c.land w).fmode = (d.land w).fmode := by
  cases w <;> simp [Ctx.land, hr, hf]

theorem foldl_land_congr (l : List Pending) {c d : Ctx} (hr : c.regs = d.regs) (hf : c.fmode = d.fmode) :
    (l.foldl (fun x p => x.land p.w) c).regs = (l.foldl (fun x p => x.land p.w) d).regs ∧
      (l.foldl (fun x p => x.land p.w) c).fmode = (l.foldl (fun x p => x.land p.w) d).fmode := by
  induction l generalizing c d with
  | nil => exact ⟨hr, hf⟩
  | cons p l ih => exact ih (land_congr hr hf p.w).1 (land_congr hr hf p.w).2

/-- What is settled follows from the registers, FMODE and the results that are due. -/
theorem settled_congr {s t : State} (hr : t.ctx.regs = s.ctx.regs) (hf : t.ctx.fmode = s.ctx.fmode) (hp : t.core.pend = s.core.pend) :
    t.settled.regs = s.settled.regs ∧ t.settled.fmode = s.settled.fmode := by
  simp only [State.settled, State.landAll, hp]
  exact foldl_land_congr _ hr hf

/-- A state that differs only in what time may change has only seen time pass, if it settles alike. -/
theorem timed_landBy (c : Nat) (s : State) : Timed s (s.landBy c) where
  ctx := by
    simp only [State.landBy]
    rw [foldl_land]
  core := rfl
  cl := rfl
  pkg := rfl
  agenda := rfl
  turns := rfl
  regs := by
    simp only [State.settled, State.landAll, State.landBy]
    rw [← List.foldl_append, List.takeWhile_append_dropWhile]
  fmode := by
    simp only [State.settled, State.landAll, State.landBy]
    rw [← List.foldl_append, List.takeWhile_append_dropWhile]

theorem timed_fabric (n : Nat) (s : State) : Timed s (s.fabric n) where
  ctx := by simp only [State.fabric]
  core := rfl
  cl := rfl
  pkg := rfl
  agenda := rfl
  turns := rfl
  regs := (settled_congr (by rfl) (by rfl) (by rfl)).1
  fmode := (settled_congr (by rfl) (by rfl) (by rfl)).2

theorem timed_countStalls (n : Nat) (s : State) : Timed s (s.countStalls n) := by
  unfold State.countStalls
  split
  · exact ⟨rfl, rfl, rfl, rfl, rfl, rfl, (settled_congr (by rfl) (by rfl) (by rfl)).1, (settled_congr (by rfl) (by rfl) (by rfl)).2⟩
  · exact .refl s

/-- The core's clocks and the cluster's move on. -/
theorem timed_clocks (cyc frac left : Nat) (phase : BitVec 2) (s : State) :
    Timed s { s with
      core := { s.core with cyc, frac }
      cl := { s.cl with phase, gear := { s.cl.gear with sagLeft := left } } } :=
  ⟨rfl, rfl, rfl, rfl, rfl, rfl, (settled_congr (by rfl) (by rfl) (by rfl)).1, (settled_congr (by rfl) (by rfl) (by rfl)).2⟩

/-- Arithmetic cycles are time. -/
theorem timed_advance (n : Nat) (s : State) : Timed s (s.advance n) := by
  have h1 := timed_fabric ((s.core.frac + n * 2000 * (if s.cl.gear.sag then 2 else 1)) / s.cl.gear.mhz) s
  exact (h1.trans (timed_countStalls n _)).trans ((timed_clocks _ _ _ _ _).trans (timed_landBy _ _))

theorem timed_linger (k : Nat) (s : State) : Timed s (s.linger k) :=
  Timed.trans (t := { s with tick := s.tick + 1 }) ⟨rfl, rfl, rfl, rfl, rfl, rfl, rfl, rfl⟩ (timed_advance _ _)

theorem timed_unlock (names : List (BitVec 7)) (s : State) : Timed s (s.unlock names) := by
  have h : Timed s (if s.lockedFor names = 0 then s else s.advance (s.lockedFor names)) := by
    split
    · exact .refl s
    · exact timed_advance _ s
  unfold State.unlock
  dsimp only
  generalize (if s.lockedFor names = 0 then s else s.advance (s.lockedFor names)) = u at h ⊢
  refine h.trans ?_
  split
  · refine Timed.trans ?_ (timed_linger 64 _)
    exact ⟨rfl, rfl, rfl, rfl, rfl, rfl, (settled_congr (by rfl) (by rfl) (by rfl)).1, (settled_congr (by rfl) (by rfl) (by rfl)).2⟩
  · exact .refl _

theorem timed_grantBanks (column : Bool) (lines : List Nat) (s : State) : Timed s (s.grantBanks column lines) :=
  ⟨rfl, rfl, rfl, rfl, rfl, rfl, rfl, rfl⟩

theorem timed_awaitBanks (lines : List Nat) (s : State) : Timed s (s.awaitBanks lines) := by
  unfold State.awaitBanks
  split
  · exact .refl s
  · dsimp only
    refine Timed.trans ?_ (timed_advance _ _)
    exact ⟨rfl, rfl, rfl, rfl, rfl, rfl, rfl, rfl⟩

/-- An instruction is admitted after a while, and nothing else (R80, R193, R413). -/
theorem timed_atIssue (i : Instr) (f : Fields) (s : State) : Timed s (s.atIssue i f) := by
  unfold State.atIssue
  refine (timed_unlock (i.names f s) s).trans ?_
  dsimp only
  split
  · exact timed_awaitBanks _ _
  · exact .refl _

/-- A cycle without an issue is time, but that a prefix is fetched again. -/
theorem timed_idle (s : State) : Timed { s with core := { s.core with pre := none } } s.idle :=
  Timed.trans (t := { s with tick := s.tick + 1, core := { s.core with pre := none } })
    ⟨rfl, rfl, rfl, rfl, rfl, rfl, rfl, rfl⟩ (timed_advance 1 _)

variable {s t : State} (h : Timed s t)
include h

theorem Timed.wait : t.core.wait = s.core.wait := by rw [h.core]
theorem Timed.pre : t.core.pre = s.core.pre := by rw [h.core]
theorem Timed.kq : t.core.kq = s.core.kq := by rw [h.core]
theorem Timed.gq : t.core.gq = s.core.gq := by rw [h.core]
theorem Timed.k : t.core.k = s.core.k := by rw [h.core]
theorem Timed.idx : t.core.idx = s.core.idx := by rw [h.core]
theorem Timed.control : t.core.control = s.core.control := by rw [h.core]
theorem Timed.mem : t.pkg.mem = s.pkg.mem := by rw [h.pkg]
theorem Timed.power : t.pkg.power = s.pkg.power := by rw [h.pkg]
theorem Timed.stores : t.cl.stores = s.cl.stores := by rw [h.cl]
theorem Timed.spad : t.cl.spad = s.cl.spad := by rw [h.cl]
theorem Timed.pc : t.ctx.pc = s.ctx.pc := by rw [h.ctx]
theorem Timed.tiles : t.ctx.tiles = s.ctx.tiles := by rw [h.ctx]
theorem Timed.trap : t.ctx.trap = s.ctx.trap := by rw [h.ctx]
theorem Timed.waitServed : t.waitServed = s.waitServed := by simp [State.waitServed, h.wait]
theorem Timed.len : t.len = s.len := by simp [State.len, h.pre]

end Sys2Proof.Machine
end

