-- ==== Sys2Proof/Laws/Behind.lean ====
section
/-! SUPPORT. What the homes, the stations, the stream buffers and the trace can change, said once for each of their operations: of
the core and its context only what `Behind` names, and every memory keeps its form. -/

namespace Sys2Proof.Machine

/-- Something has happened behind the core: data may have reached registers and FMODE, the buffers of its streams, the marks of its
norm slots, its outstanding accesses and results, the wait that it is in, its trace counter and its signature may differ, time may have passed, none
that was not there is outstanding or due, and memories keep their form. -/
structure Behind (s t : State) : Prop where
  ctx : t.ctx = { s.ctx with
    regs := t.ctx.regs, fmode := t.ctx.fmode, streams := t.ctx.streams
    tiles := { s.ctx.tiles with norm := t.ctx.tiles.norm }
    sys := { s.ctx.sys with wdog := t.ctx.sys.wdog, stalls := t.ctx.sys.stalls } }
  core : t.core = { s.core with
    cyc := t.core.cyc, frac := t.core.frac
    gq := t.core.gq, wait := t.core.wait, trn := t.core.trn, red := t.core.red, pend := t.core.pend, locked := t.core.locked }
  pend : s.core.pend = [] → t.core.pend = []
  gq : s.core.gq = [] → t.core.gq = []
  power : t.pkg.power = s.pkg.power
  wf : s.memoriesWf = true → t.memoriesWf = true
  wait : s.core.wait = none → t.core.wait = none

theorem Behind.refl (s : State) : Behind s s := ⟨rfl, rfl, id, id, rfl, id, id⟩

theorem Behind.trans {s t u : State} (h : Behind s t) (g : Behind t u) : Behind s u where
  ctx := by rw [g.ctx, h.ctx]
  core := by rw [g.core, h.core]
  pend := g.pend ∘ h.pend
  gq := g.gq ∘ h.gq
  power := g.power.trans h.power
  wf := g.wf ∘ h.wf
  wait := g.wait ∘ h.wait

/-- A fold of operations behind the core happens behind the core. -/
theorem Behind.foldl {α : Type} {g : State → α → State} (hg : ∀ s x, Behind s (g s x)) (l : List α) (s : State) :
    Behind s (l.foldl g s) := by
  induction l generalizing s with
  | nil => exact .refl s
  | cons x l ih => exact (hg s x).trans (ih _)

/-! ### Homes -/

/-- A state that differs in the package alone, with global memory in its form. -/
theorem behind_pkg {s : State} {p : Package} (hp : p.power = s.pkg.power)
    (h : s.memoriesWf = true → ({ s with pkg := p } : State).memoriesWf = true) : Behind s { s with pkg := p } :=
  ⟨rfl, rfl, id, id, hp, h, id⟩

theorem wf_pkg {s : State} {m : Memory} (hm : s.memoriesWf = true) (h : s.pkg.mem.wf = true → m.wf = true) :
    ({ s with pkg := { s.pkg with mem := m } } : State).memoriesWf = true := by
  simp only [State.memoriesWf, Bool.and_eq_true] at hm ⊢
  exact ⟨⟨⟨⟨⟨⟨⟨⟨⟨⟨⟨⟨h hm.1.1.1.1.1.1.1.1.1.1.1.1, hm.1.1.1.1.1.1.1.1.1.1.1.2⟩, hm.1.1.1.1.1.1.1.1.1.1.2⟩, hm.1.1.1.1.1.1.1.1.1.2⟩,
    hm.1.1.1.1.1.1.1.1.2⟩, hm.1.1.1.1.1.1.1.2⟩, hm.1.1.1.1.1.1.2⟩, hm.1.1.1.1.1.2⟩, hm.1.1.1.1.2⟩, hm.1.1.1.2⟩, hm.1.1.2⟩, hm.1.2⟩, hm.2⟩

theorem foldl_wf {α : Type} {g : Memory → α → Memory} (hg : ∀ m x, m.wf = true → (g m x).wf = true) (l : List α) (m : Memory)
    (hm : m.wf = true) : (l.foldl g m).wf = true := by
  induction l generalizing m with
  | nil => exact hm
  | cons x l ih => exact ih _ (hg _ _ hm)

theorem behind_ring (r : List Sherd) (s : State) : Behind s { s with pkg := { s.pkg with sherd := r } } := ⟨rfl, rfl, id, id, rfl, id, id⟩
theorem behind_reports (r : List Word) (s : State) : Behind s { s with pkg := { s.pkg with reports := r } } := ⟨rfl, rfl, id, id, rfl, id, id⟩
theorem behind_sherd (k : Nat) (d : Word) (s : State) : Behind s (s.sherd k d) := by unfold State.sherd; exact behind_ring _ s
theorem behind_uncorrectable (pa : Nat) (s : State) : Behind s (s.uncorrectable pa) :=
  (behind_reports _ s).trans (behind_sherd ..)

/-- A store at a home changes bytes of global memory, the poisoned granules and the reports. -/
theorem behind_homeStore (pa n x : Nat) (s : State) : Behind s (s.homeStore pa n x) := by
  unfold State.homeStore
  split
  · exact ⟨rfl, rfl, id, id, rfl, fun h => wf_pkg h Memory.store_wf, id⟩
  · extract_lets whole lost mem pkg t
    have ht : Behind s t := by
      refine ⟨rfl, rfl, id, id, rfl, fun h => ?_, id⟩
      refine wf_pkg (s := s) h fun hm => foldl_wf (fun m i h => ?_) _ _ hm
      split
      · exact h
      · exact Memory.write_wf h
    split
    · exact ht.trans (behind_uncorrectable ..)
    · exact ht

theorem behind_setFull (pa : Nat) (b : Bool) (s : State) : Behind s (s.setFull pa b) := ⟨rfl, rfl, id, id, rfl, id, id⟩
theorem behind_restartQueues (s : State) : Behind s s.restartQueues := ⟨rfl, rfl, id, id, rfl, id, id⟩
theorem behind_keep (ks : List Kept) (s : State) : Behind s (s.keep ks) := ⟨rfl, rfl, id, id, rfl, id, id⟩
theorem behind_markNorms (a n : Nat) (s : State) : Behind s (s.markNorms a n) := ⟨rfl, rfl, id, id, rfl, id, id⟩
theorem behind_setStream (q : Nat) (st : Stream) (s : State) : Behind s (s.setStream q st) := ⟨rfl, rfl, id, id, rfl, id, id⟩

theorem behind_lineReturn (l : Nat) (c : Bool) (s : State) : Behind s (s.lineReturn l c) := by
  unfold State.lineReturn
  split
  · exact .refl s
  · exact ⟨rfl, rfl, id, id, rfl, id, id⟩

theorem behind_touch (c pa : Nat) (s : State) : Behind s (s.touch c pa) := by
  unfold State.touch
  split
  · exact behind_lineReturn ..
  · exact .refl s

theorem behind_lineMove (l c : Nat) (s : State) : Behind s (s.lineMove l c) := by
  unfold State.lineMove
  split
  · exact .refl s
  · dsimp only
    have h : ∀ t : State, Behind s t → Behind s { t with pkg := { t.pkg with
        lines := ⟨l, c, t.tick⟩ :: t.pkg.lines.filter (·.pa != l) } } := fun t ht => ht.trans ⟨rfl, rfl, id, id, rfl, id, id⟩
    split
    · split
      · exact h _ (behind_lineReturn ..)
      · exact h _ (.refl s)
    · exact h _ (.refl s)

theorem behind_sendHome (c l : Nat) (s : State) : Behind s (s.sendHome c l) := behind_lineReturn ..

theorem behind_place (c : Nat) (hint : BitVec 2) (pa : Nat) (s : State) : Behind s (s.place c hint pa) := by
  unfold State.place
  dsimp only
  split
  · exact behind_lineMove ..
  · exact behind_sendHome ..

theorem behind_cover (pa n : Nat) (s : State) : Behind s (s.cover pa n) := by
  unfold State.cover
  split
  · exact .refl s
  · exact ⟨rfl, rfl, id, id, rfl, id, id⟩

theorem behind_serveTake (pa : Nat) (v : Word) (s : State) : Behind s (s.serveTake pa v) := by
  unfold State.serveTake
  repeat' split
  all_goals first | exact .refl s | exact ⟨rfl, rfl, id, id, rfl, id, fun h => by simp_all⟩

theorem behind_serve (p : WaitKind → Bool) (v : Word) (s : State) : Behind s (s.serve p v) := by
  unfold State.serve
  repeat' split
  all_goals first | exact .refl s | exact ⟨rfl, rfl, id, id, rfl, id, fun h => by simp_all⟩

theorem behind_servePut (pa : Nat) (v : Word) (k : Nat) (b : Bool) (s : State) : Behind s (s.servePut pa v k b).1 := by
  induction k generalizing b s with
  | zero => exact .refl s
  | succ k ih =>
    unfold State.servePut
    split
    · exact .refl s
    · split
      · exact .refl s
      · next e _ =>
        have h₁ : Behind s { s with pkg := { s.pkg with deferred := s.pkg.deferred.erase e } } := ⟨rfl, rfl, id, id, rfl, id, id⟩
        have h₂ : ∀ t : State, Behind s t → Behind s (if e.who.isNone then t.serveTake pa v else t) := fun t ht => by
          split
          · exact ht.trans (behind_serveTake ..)
          · exact ht
        have h₃ : ∀ t : State, Behind s t → Behind s (if e.keep then t else t.setFull pa false) := fun t ht => by
          split
          · exact ht
          · exact ht.trans (behind_setFull ..)
        exact (h₃ _ (h₂ _ h₁)).trans (ih ..)

theorem behind_putAt (c pa : Nat) (v : Word) (s : State) : Behind s (s.putAt c pa v).1 :=
  (((behind_sendHome ..).trans (behind_homeStore ..)).trans (behind_setFull ..)).trans (behind_servePut ..)

theorem behind_atomicAt (op : AtomOp) (fmt : BitVec 5) (rm : BitVec 3) (pa : Nat) (b d : Word) (s : State) :
    Behind s (s.atomicAt op fmt rm pa b d).1 := behind_homeStore ..

theorem behind_claimAt (pa : Nat) (s : State) : Behind s (s.claimAt pa).1 := by
  unfold State.claimAt
  split
  · exact behind_homeStore ..
  · exact .refl s

theorem behind_blockHome (c pa n : Nat) (s : State) : Behind s (s.blockHome c pa n) := .foldl (fun _ _ => behind_sendHome ..) _ _
theorem behind_setReducing (l : List (Nat × Nat)) (s : State) : Behind s (s.setReducing l) := ⟨rfl, rfl, id, id, rfl, id, id⟩

theorem behind_redaStart (pa n : Nat) (s : State) : Behind s (s.redaStart pa n) :=
  ((behind_setReducing _ s).trans (behind_setFull ..)).trans (.foldl (fun _ _ => behind_setFull ..) _ _)

theorem behind_redaFill (a : Nat) (v : Word) (s : State) : Behind s (s.redaFill a v) :=
  ((behind_homeStore ..).trans (behind_setFull ..)).trans (behind_servePut ..)

theorem behind_redaLast (pa n : Nat) (c : Word) (s : State) : Behind s (s.redaLast pa n c) :=
  ((((behind_setReducing _ s).trans (behind_homeStore ..)).trans (behind_homeStore ..)).trans (behind_setFull ..)).trans (behind_servePut ..)

theorem behind_redaArrive (pa r n arr : Nat) (c v : Word) (s : State) : Behind s (s.redaArrive pa r n arr c v).1 := by
  unfold State.redaArrive
  split
  · exact .refl s
  · split
    · exact (behind_redaFill ..).trans (behind_redaLast ..)
    · exact (behind_redaFill ..).trans (behind_homeStore ..)

theorem behind_redaAt (c pa r : Nat) (v : Word) (s : State) : Behind s (s.redaAt c pa r v).1 := by
  unfold State.redaAt
  extract_lets t c n arr
  have h : Behind s t := behind_sendHome ..
  split
  · exact h
  · split
    · exact h
    · refine Behind.trans ?_ (behind_redaArrive ..)
      split
      · exact (h.trans (behind_blockHome ..)).trans (behind_redaStart ..)
      · exact h.trans (behind_blockHome ..)

/-! ### Accesses -/

theorem behind_readPart (seen : List (Part × Nat × Nat)) (p : Part) (s : State) : Behind s (s.readPart seen p).1 := by
  by_cases h : s.isClaim p.pa p.n = true
  · rw [State.readPart, if_pos h]; dsimp only; exact behind_claimAt ..
  · rw [State.readPart, if_neg h]; exact .refl s

theorem behind_readParts (seen : List (Part × Nat × Nat)) (l : List Part) (got : List (Nat × Nat)) (s : State) :
    Behind s (s.readParts seen l got).1 := by
  induction l generalizing got s with
  | nil => exact .refl _
  | cons p l ih => exact (behind_readPart seen p s).trans (ih ..)

theorem behind_coverParts (ps : List Part) (s : State) : Behind s (s.coverParts ps) := .foldl (fun _ _ => behind_cover ..) _ _
theorem behind_storeParts (ps : List Part) (s : State) : Behind s (s.storeParts ps) := .foldl (fun _ _ => behind_homeStore ..) _ _

theorem behind_performAt (a : GAccess) (u : List Part) (bad : Bool) (s : State) : Behind s (s.performAt a u bad).1 := by
  unfold State.performAt
  extract_lets b
  split
  · exact behind_readParts ..
  · refine Behind.trans ?_ (behind_restartQueues _)
    refine Behind.trans ?_ (behind_storeParts ..)
    split
    · exact behind_coverParts ..
    · exact .refl s
  · exact .refl s
  · extract_lets t
    have h : Behind s t := behind_place ..
    cases bad
    · exact h.trans (behind_atomicAt ..)
    · exact h
  · split
    · dsimp only
      split
      · exact .refl s
      · exact behind_uncorrectable ..
    · exact behind_redaAt ..
  · exact behind_putAt ..

theorem behind_reportBad (a : GAccess) (hit : Option Part) (s : State) : Behind s (s.reportBad a hit) := by
  unfold State.reportBad
  split
  · split
    · exact .refl s
    · exact behind_uncorrectable ..
  · exact .refl s

theorem behind_touchParts (a : GAccess) (u : List Part) (s : State) : Behind s (s.touchParts a u) := by
  unfold State.touchParts
  split
  · exact .refl s
  · exact .foldl (fun _ _ => behind_touch ..) _ _

/-- What lands is registers and FMODE. -/
theorem foldl_land_eq (l : List Pending) (c : Ctx) :
    ∃ r f, l.foldl (fun x p => x.land p.w) c = { c with regs := r, fmode := f } := ⟨_, _, foldl_land l c⟩

/-- A context that differs in registers and FMODE alone. -/
theorem behind_regs (s : State) (r : Regs) (f : Word) : Behind s { s with ctx := { s.ctx with regs := r, fmode := f } } :=
  ⟨rfl, rfl, id, id, rfl, id, id⟩

theorem behind_land (w : RegWrite) (s : State) : Behind s { s with ctx := s.ctx.land w } := by
  rw [land_ctx]; exact behind_regs ..

theorem behind_landReg (n : BitVec 7) (s : State) : Behind s (s.landReg n) := by
  obtain ⟨r, f, h⟩ := foldl_land_eq (s.core.pend.filter (·.w.hits n)) s.ctx
  rw [State.landReg, h]
  exact ⟨rfl, rfl, fun h => by simp [h], id, rfl, id, id⟩

theorem behind_landBy (c : Nat) (s : State) : Behind s (s.landBy c) := by
  obtain ⟨r, f, h⟩ := foldl_land_eq (s.core.pend.takeWhile (·.due ≤ c)) s.ctx
  rw [State.landBy, h]
  exact ⟨rfl, rfl, fun h => by simp [h], id, rfl, id, id⟩

/-- The clocks alone. -/
theorem behind_clocks (cyc frac left : Nat) (phase : BitVec 2) (s : State) :
    Behind s { s with core := { s.core with cyc := cyc, frac := frac }
                      cl := { s.cl with phase := phase, gear := { s.cl.gear with sagLeft := left } } } :=
  ⟨rfl, rfl, id, id, rfl, id, id⟩

/-- Time passes behind the core. -/
theorem behind_advance (n : Nat) (s : State) : Behind s (s.advance n) := by
  have h₁ : Behind s (s.fabric ((s.core.frac + n * 2000 * (if s.cl.gear.sag then 2 else 1)) / s.cl.gear.mhz)) :=
    ⟨rfl, rfl, id, id, rfl, id, id⟩
  have h₂ : ∀ t : State, Behind t (t.countStalls n) := fun t => by
    unfold State.countStalls
    split
    · exact ⟨rfl, rfl, id, id, rfl, id, id⟩
    · exact .refl t
  exact (h₁.trans (h₂ _)).trans ((behind_clocks _ _ _ _ _).trans (behind_landBy _ _))

theorem behind_waitRefresh (pas : List Nat) (s : State) : Behind s (s.waitRefresh pas) := by
  unfold State.waitRefresh
  dsimp only
  split
  · exact behind_advance ..
  · exact .refl s

theorem behind_performUnit (a : GAccess) (s : State) : Behind s (s.performUnit a).1 :=
  (((behind_waitRefresh _ s).trans (behind_touchParts ..)).trans (behind_reportBad ..)).trans (behind_performAt ..)

theorem behind_performUnits (n : Nat) (a : GAccess) (s : State) : Behind s (s.performUnits n a).1 := by
  induction n generalizing a s with
  | zero => exact .refl s
  | succ n ih =>
    rw [State.performUnits]
    split
    · exact .refl s
    · exact (behind_performUnit a s).trans (ih ..)

theorem behind_perform (a : GAccess) (s : State) : Behind s (s.perform a).1 := behind_performUnits ..

theorem behind_landAll (s : State) : Behind s s.landAll := by
  obtain ⟨r, f, h⟩ := foldl_land_eq s.core.pend s.ctx
  rw [State.landAll, h]
  exact ⟨rfl, rfl, fun _ => rfl, id, rfl, id, id⟩

theorem landAll_pend (s : State) : s.landAll.core.pend = [] := rfl

theorem behind_arrive (a : GAccess) (s : State) : Behind s (s.arrive a) := by
  have h₁ : Behind s (match a.dest with | .s n | .v n => s.landReg n | .none => s) := by
    split
    · exact behind_landReg ..
    · exact behind_landReg ..
    · exact .refl s
  have h₂ : ∀ t, Behind s t → Behind s (match a.deliver.1 with | some w => { t with ctx := t.ctx.land w } | none => t) := by
    intro t ht
    split
    · exact ht.trans (behind_land ..)
    · exact ht
  exact (h₂ _ h₁).trans (behind_land ..)

/-- Outstanding accesses replaced, by none unless there were some. -/
theorem Behind.setGq {s t : State} (h : Behind s t) {q : List GAccess} (hq : s.core.gq = [] → q = []) : Behind s (t.setGq q) :=
  ⟨h.ctx, by show ({ t.core with gq := q } : Core) = _; rw [h.core]; rfl, h.pend, hq, h.power, h.wf, h.wait⟩

theorem behind_performNth (k : Nat) (s : State) : Behind s (s.performNth k) := by
  unfold State.performNth
  split
  · exact .refl s
  · next a h => exact (behind_performUnit a s).setGq fun h₀ => by rw [h₀] at h; simp at h

theorem behind_performNow (a : GAccess) (s : State) : Behind s (s.performNow a).1 := by
  unfold State.performNow
  split
  · exact .refl s
  · exact behind_perform ..

theorem behind_drainList (l : List GAccess) (bad : Option Word) (s : State) : Behind s (s.drainList l bad).1 := by
  induction l generalizing bad s with
  | nil => exact .refl s
  | cons a q ih =>
    rw [State.drainList]
    split
    · exact (behind_performNow a s).trans (ih ..)
    · exact ((behind_performNow a s).trans (behind_arrive ..)).trans (ih ..)

/-- Every accepted access has been performed, and none is left. -/
theorem behind_drain (s : State) : Behind s s.drain.1 := ((Behind.refl s).setGq fun _ => rfl).trans (behind_drainList ..)

theorem drain_gq (s : State) : s.drain.1.core.gq = [] := (behind_drainList _ none (s.setGq [])).gq rfl

theorem behind_performAll (s : State) : Behind s s.performAll := by
  by_cases h₀ : s.core.gq = []
  · have : s.performAll = s.setGq [] := by simp [State.performAll, h₀]
    rw [this]
    exact (Behind.refl s).setGq fun _ => rfl
  · have key : ∀ (l : List GAccess) (t : State), Behind s t → Behind s (l.foldl State.performKept t) := by
      intro l
      induction l with
      | nil => exact fun t ht => ht
      | cons a l ih => exact fun t ht => ih _ ((ht.trans (behind_performNow a t)).setGq fun hh => absurd hh h₀)
    exact key _ _ ((Behind.refl s).setGq fun _ => rfl)

/-! ### The cluster's stores -/

/-- A cluster that differs, with its memories in their form. -/
theorem behind_cl {s : State} {c : Cluster} (h : s.memoriesWf = true → ({ s with cl := c } : State).memoriesWf = true) :
    Behind s { s with cl := c } := ⟨rfl, rfl, id, id, rfl, h, id⟩

theorem vset_all {n i : Nat} {v : Vector Memory n} {m : Memory} (hv : v.all Memory.wf = true) (hm : m.wf = true) :
    (vset v i m).all Memory.wf = true := by
  unfold vset
  split
  · next h =>
    rw [Vector.all_eq_true] at hv ⊢
    intro j hj
    by_cases e : i = j
    · subst e; simpa using hm
    · simpa [Vector.getElem_set, e] using hv j hj
  · exact hv

theorem vget_wf {n i : Nat} {v : Vector Memory n} (hv : v.all Memory.wf = true) : (vget v i []).wf = true := by
  unfold vget
  split
  · next h => exact (Vector.all_eq_true.mp hv) i h
  · rfl

theorem behind_storeWrite (c a n x : Nat) (s : State) : Behind s (s.storeWrite c a n x) := by
  refine behind_cl fun h => ?_
  simp only [State.memoriesWf, Bool.and_eq_true] at h ⊢
  simp only [h, and_self, and_true, true_and]
  exact vset_all h.1.1.1.1.1.1.1.2 (Memory.store_wf (vget_wf h.1.1.1.1.1.1.1.2))

theorem behind_spadWrite (a n x : Nat) (s : State) : Behind s (s.spadWrite a n x) := by
  refine Behind.trans (behind_cl fun h => ?_) (behind_markNorms ..)
  simp only [State.memoriesWf, Bool.and_eq_true] at h ⊢
  simp only [h, and_self, and_true, true_and]
  exact Memory.store_wf h.1.1.1.1.1.1.2

/-- What jobs hold of the bytes that they are about to write is all that a store of the core changes in them (R17). -/
theorem patchJobs_eq (a n x : Nat) (s : State) :
    s.patchJobs a n x = { s with cl := { s.cl with jobs := (s.patchJobs a n x).cl.jobs } } := by
  unfold State.patchJobs
  split <;> rfl

theorem behind_patchJobs (a n x : Nat) (s : State) : Behind s (s.patchJobs a n x) := by
  unfold State.patchJobs
  split
  · exact .refl s
  · exact behind_cl id

theorem behind_lwrite (pl : LPlace) (a n x : Nat) (s : State) : Behind s (s.lwrite pl a n x) := by
  unfold State.lwrite
  split
  · exact (behind_patchJobs ..).trans (behind_storeWrite ..)
  · exact behind_spadWrite ..
  · exact .refl s

/-! ### The trace, signatures and streams -/

theorem behind_trace (k : Nat) (v : Word) (s : State) : Behind s (s.trace k v) := by
  unfold State.trace
  extract_lets t cap pa w1 u
  split
  · have h : Behind s u := (behind_homeStore ..).trans (behind_homeStore ..)
    exact h.trans ⟨rfl, rfl, id, id, rfl, id, id⟩
  · exact .refl s

theorem behind_sign (a n x : Nat) (s : State) : Behind s (s.sign a n x) := by
  unfold State.sign
  split
  · exact .refl s
  · exact ⟨rfl, rfl, id, id, rfl, id, id⟩

theorem behind_writing (a n x : Nat) {w : State → State} (hw : ∀ s, Behind s (w s)) (s : State) : Behind s (s.writing a n x w) := by
  unfold State.writing
  dsimp only
  split
  · exact behind_sign ..
  · exact (behind_sign ..).trans (hw _)

theorem behind_dataWrite (pl : LPlace) (a n x : Nat) (s : State) : Behind s (s.dataWrite pl a n x) := by
  unfold State.dataWrite
  split
  · exact behind_writing _ _ _ (fun _ => behind_lwrite ..) s
  · exact behind_lwrite ..

theorem behind_performReads (s : State) : Behind s s.performReads := by
  unfold State.performReads
  split
  · exact behind_performAll s
  · exact .refl s

theorem behind_writeRun (p : Pushed) (x : Nat × Nat × Nat) (s : State) : Behind s (s.writeRun p x) := by
  unfold State.writeRun
  split
  · exact ((behind_waitRefresh ..).trans (behind_touch ..)).trans (behind_homeStore ..)
  · split
    · exact behind_lwrite ..
    · exact .refl s

theorem behind_coverPush (p : Pushed) (s : State) : Behind s (s.coverPush p) := by
  unfold State.coverPush
  split
  · exact .foldl (fun _ _ => behind_cover ..) _ _
  · exact .refl s

theorem behind_grantBanks (b : Bool) (l : List Nat) (s : State) : Behind s (s.grantBanks b l) := ⟨rfl, rfl, id, id, rfl, id, id⟩

theorem behind_writePushed (q : Nat) (st : Stream) (p : Pushed) (rest : List Pushed) (s : State) :
    Behind s (s.writePushed q st p rest) := by
  unfold State.writePushed
  split
  · exact behind_setStream ..
  · exact (((behind_coverPush p s).trans (.foldl (fun _ _ => behind_writeRun ..) _ _)).trans (behind_grantBanks ..)).trans (behind_setStream ..)

theorem behind_writePush (q : Nat) (s : State) : Behind s (s.writePush q) := by
  unfold State.writePush
  dsimp only
  split
  · exact .refl s
  · next p rest _ =>
    refine Behind.trans ?_ (behind_writePushed ..)
    split
    · exact behind_performAll s
    · exact .refl s

theorem behind_drainPushes (q : Nat) (s : State) : Behind s (s.drainPushes q) := .foldl (fun _ _ => behind_writePush ..) _ _
theorem behind_drainStreams (s : State) : Behind s s.drainStreams := .foldl (fun _ _ => behind_drainPushes ..) _ _
theorem behind_streams (v : Vector Stream 8) (s : State) : Behind s { s with ctx := { s.ctx with streams := v } } :=
  ⟨rfl, rfl, id, id, rfl, id, id⟩
theorem behind_caughtUp (s : State) : Behind s s.caughtUp := (behind_drainStreams s).trans (behind_performReads _)
theorem behind_published (s : State) : Behind s s.published := (behind_drainStreams s).trans (behind_performAll _)
theorem behind_dropAhead (s : State) : Behind s s.dropAhead := behind_streams ..
theorem behind_flushStreams (s : State) : Behind s s.flushStreams := (behind_drainStreams s).trans (behind_dropAhead _)

theorem behind_streamWord (pa : Nat) (s : State) : Behind s (s.streamWord pa).1 := by
  by_cases h : (s.touch s.cl.index pa).isClaim pa 8 = true
  · rw [State.streamWord, if_pos h]; dsimp only
    exact (behind_touch s.cl.index pa s).trans (behind_claimAt (pa - 8) _)
  · rw [State.streamWord, if_neg h]; dsimp only
    exact behind_touch s.cl.index pa s

/-- What a stream buffer reads changes no more than the homes do. -/
theorem behind_streamUnit (st : Stream) (va : Word) (u : Nat) {x : State × Except Trap Nat} {s : State}
    (h : s.streamUnit st va u = some x) : Behind s x.1 := by
  unfold State.streamUnit at h
  split at h
  · unfold State.streamGlobal at h
    dsimp only at h
    repeat' split at h
    all_goals first
      | cases h; done
      | (obtain rfl := (Option.some.inj h).symm; first | exact .refl _ | exact behind_streamWord ..)
  · obtain rfl := (Option.some.inj h).symm
    exact .refl _

theorem behind_takeAhead (q : Nat) (st : Stream) (s : State) : Behind s (s.takeAhead q st) := by
  unfold State.takeAhead
  split
  · exact .refl s
  · next x hx => exact ((behind_streamUnit _ _ _ hx).trans (behind_grantBanks ..)).trans (behind_setStream ..)

theorem behind_settleFor (st : Stream) (s : State) : Behind s (s.settleFor st) := by
  unfold State.settleFor
  split
  · exact behind_published s
  · exact behind_caughtUp s

theorem behind_readAhead (q : Nat) (s : State) : Behind s (s.readAhead q) := by
  unfold State.readAhead
  dsimp only
  split
  · exact (behind_settleFor ..).trans (behind_takeAhead ..)
  · exact .refl s

end Sys2Proof.Machine
end

