-- ==== Sys2Proof/Laws/Exec.lean ====
section
/-! SUPPORT. The meaning that each constructor of Instr calls, one lemma for each, so that no proof unfolds `exec`. -/

namespace Sys2Proof.Machine

@[simp] theorem exec_pfx (p : Pfx) (s : State) : exec (.pfx p) s = execPfx p s := rfl
@[simp] theorem exec_add (f : Fields) (s : State) : exec (.add f) s = execAdd f s := rfl
@[simp] theorem exec_sub (f : Fields) (s : State) : exec (.sub f) s = execSub f s := rfl
@[simp] theorem exec_mul (f : Fields) (s : State) : exec (.mul f) s = execMul f s := rfl
@[simp] theorem exec_mulh (f : Fields) (s : State) : exec (.mulh f) s = execMulh f s := rfl
@[simp] theorem exec_mulhu (f : Fields) (s : State) : exec (.mulhu f) s = execMulhu f s := rfl
@[simp] theorem exec_div (f : Fields) (s : State) : exec (.div f) s = execDiv f s := rfl
@[simp] theorem exec_divu (f : Fields) (s : State) : exec (.divu f) s = execDivu f s := rfl
@[simp] theorem exec_rem (f : Fields) (s : State) : exec (.rem f) s = execRem f s := rfl
@[simp] theorem exec_remu (f : Fields) (s : State) : exec (.remu f) s = execRemu f s := rfl
@[simp] theorem exec_andOp (f : Fields) (s : State) : exec (.andOp f) s = execAndOp f s := rfl
@[simp] theorem exec_orOp (f : Fields) (s : State) : exec (.orOp f) s = execOrOp f s := rfl
@[simp] theorem exec_xor (f : Fields) (s : State) : exec (.xor f) s = execXor f s := rfl
@[simp] theorem exec_andn (f : Fields) (s : State) : exec (.andn f) s = execAndn f s := rfl
@[simp] theorem exec_shl (f : Fields) (s : State) : exec (.shl f) s = execShl f s := rfl
@[simp] theorem exec_shr (f : Fields) (s : State) : exec (.shr f) s = execShr f s := rfl
@[simp] theorem exec_sar (f : Fields) (s : State) : exec (.sar f) s = execSar f s := rfl
@[simp] theorem exec_rotl (f : Fields) (s : State) : exec (.rotl f) s = execRotl f s := rfl
@[simp] theorem exec_clz (f : Fields) (s : State) : exec (.clz f) s = execClz f s := rfl
@[simp] theorem exec_ctz (f : Fields) (s : State) : exec (.ctz f) s = execCtz f s := rfl
@[simp] theorem exec_popc (f : Fields) (s : State) : exec (.popc f) s = execPopc f s := rfl
@[simp] theorem exec_min (f : Fields) (s : State) : exec (.min f) s = execMin f s := rfl
@[simp] theorem exec_max (f : Fields) (s : State) : exec (.max f) s = execMax f s := rfl
@[simp] theorem exec_minu (f : Fields) (s : State) : exec (.minu f) s = execMinu f s := rfl
@[simp] theorem exec_maxu (f : Fields) (s : State) : exec (.maxu f) s = execMaxu f s := rfl
@[simp] theorem exec_abs (f : Fields) (s : State) : exec (.abs f) s = execAbs f s := rfl
@[simp] theorem exec_neg (f : Fields) (s : State) : exec (.neg f) s = execNeg f s := rfl
@[simp] theorem exec_sext (f : Fields) (s : State) : exec (.sext f) s = execSext f s := rfl
@[simp] theorem exec_zext (f : Fields) (s : State) : exec (.zext f) s = execZext f s := rfl
@[simp] theorem exec_bfx (f : Fields) (s : State) : exec (.bfx f) s = execBfx f s := rfl
@[simp] theorem exec_bfi (f : Fields) (s : State) : exec (.bfi f) s = execBfi f s := rfl
@[simp] theorem exec_lea (f : Fields) (s : State) : exec (.lea f) s = execLea f s := rfl
@[simp] theorem exec_mov (f : Fields) (s : State) : exec (.mov f) s = execMov f s := rfl
@[simp] theorem exec_sel (f : Fields) (s : State) : exec (.sel f) s = execSel f s := rfl
@[simp] theorem exec_cmp (f : Fields) (s : State) : exec (.cmp f) s = execCmp f s := rfl
@[simp] theorem exec_plog (f : Fields) (s : State) : exec (.plog f) s = execPlog f s := rfl
@[simp] theorem exec_fadd (f : Fields) (s : State) : exec (.fadd f) s = execFadd f s := rfl
@[simp] theorem exec_fsub (f : Fields) (s : State) : exec (.fsub f) s = execFsub f s := rfl
@[simp] theorem exec_fmul (f : Fields) (s : State) : exec (.fmul f) s = execFmul f s := rfl
@[simp] theorem exec_ffma (f : Fields) (s : State) : exec (.ffma f) s = execFfma f s := rfl
@[simp] theorem exec_fdiv (f : Fields) (s : State) : exec (.fdiv f) s = execFdiv f s := rfl
@[simp] theorem exec_fsqrt (f : Fields) (s : State) : exec (.fsqrt f) s = execFsqrt f s := rfl
@[simp] theorem exec_fmin (f : Fields) (s : State) : exec (.fmin f) s = execFmin f s := rfl
@[simp] theorem exec_fmax (f : Fields) (s : State) : exec (.fmax f) s = execFmax f s := rfl
@[simp] theorem exec_fcmp (f : Fields) (s : State) : exec (.fcmp f) s = execFcmp f s := rfl
@[simp] theorem exec_fcvt (f : Fields) (s : State) : exec (.fcvt f) s = execFcvt f s := rfl
@[simp] theorem exec_fcvti (f : Fields) (s : State) : exec (.fcvti f) s = execFcvti f s := rfl
@[simp] theorem exec_icvtf (f : Fields) (s : State) : exec (.icvtf f) s = execIcvtf f s := rfl
@[simp] theorem exec_fclass (f : Fields) (s : State) : exec (.fclass f) s = execFclass f s := rfl
@[simp] theorem exec_fabs (f : Fields) (s : State) : exec (.fabs f) s = execFabs f s := rfl
@[simp] theorem exec_fneg (f : Fields) (s : State) : exec (.fneg f) s = execFneg f s := rfl
@[simp] theorem exec_ldl (f : Fields) (s : State) : exec (.ldl f) s = execLdl f s := rfl
@[simp] theorem exec_stl (f : Fields) (s : State) : exec (.stl f) s = execStl f s := rfl
@[simp] theorem exec_ldg (f : Fields) (s : State) : exec (.ldg f) s = execLdg f s := rfl
@[simp] theorem exec_stg (f : Fields) (s : State) : exec (.stg f) s = execStg f s := rfl
@[simp] theorem exec_pref (f : Fields) (s : State) : exec (.pref f) s = execPref f s := rfl
@[simp] theorem exec_br (f : Fields) (s : State) : exec (.br f) s = execBr f s := rfl
@[simp] theorem exec_call (f : Fields) (s : State) : exec (.call f) s = execCall f s := rfl
@[simp] theorem exec_ret (f : Fields) (s : State) : exec (.ret f) s = execRet f s := rfl
@[simp] theorem exec_jmp (f : Fields) (s : State) : exec (.jmp f) s = execJmp f s := rfl
@[simp] theorem exec_loop (f : Fields) (s : State) : exec (.loop f) s = execLoop f s := rfl
@[simp] theorem exec_rep (f : Fields) (s : State) : exec (.rep f) s = execRep f s := rfl
@[simp] theorem exec_nop (f : Fields) (s : State) : exec (.nop f) s = execNop f s := rfl
@[simp] theorem exec_stop (f : Fields) (s : State) : exec (.stop f) s = execStop f s := rfl
@[simp] theorem exec_vadd (f : Fields) (s : State) : exec (.vadd f) s = execVadd f s := rfl
@[simp] theorem exec_vsub (f : Fields) (s : State) : exec (.vsub f) s = execVsub f s := rfl
@[simp] theorem exec_vmul (f : Fields) (s : State) : exec (.vmul f) s = execVmul f s := rfl
@[simp] theorem exec_vmulh (f : Fields) (s : State) : exec (.vmulh f) s = execVmulh f s := rfl
@[simp] theorem exec_vmin (f : Fields) (s : State) : exec (.vmin f) s = execVmin f s := rfl
@[simp] theorem exec_vmax (f : Fields) (s : State) : exec (.vmax f) s = execVmax f s := rfl
@[simp] theorem exec_vand (f : Fields) (s : State) : exec (.vand f) s = execVand f s := rfl
@[simp] theorem exec_vor (f : Fields) (s : State) : exec (.vor f) s = execVor f s := rfl
@[simp] theorem exec_vxor (f : Fields) (s : State) : exec (.vxor f) s = execVxor f s := rfl
@[simp] theorem exec_vshl (f : Fields) (s : State) : exec (.vshl f) s = execVshl f s := rfl
@[simp] theorem exec_vshr (f : Fields) (s : State) : exec (.vshr f) s = execVshr f s := rfl
@[simp] theorem exec_vsar (f : Fields) (s : State) : exec (.vsar f) s = execVsar f s := rfl
@[simp] theorem exec_vabs (f : Fields) (s : State) : exec (.vabs f) s = execVabs f s := rfl
@[simp] theorem exec_vneg (f : Fields) (s : State) : exec (.vneg f) s = execVneg f s := rfl
@[simp] theorem exec_vcmp (f : Fields) (s : State) : exec (.vcmp f) s = execVcmp f s := rfl
@[simp] theorem exec_vsel (f : Fields) (s : State) : exec (.vsel f) s = execVsel f s := rfl
@[simp] theorem exec_vclamp (f : Fields) (s : State) : exec (.vclamp f) s = execVclamp f s := rfl
@[simp] theorem exec_vfadd (f : Fields) (s : State) : exec (.vfadd f) s = execVfadd f s := rfl
@[simp] theorem exec_vfsub (f : Fields) (s : State) : exec (.vfsub f) s = execVfsub f s := rfl
@[simp] theorem exec_vfmul (f : Fields) (s : State) : exec (.vfmul f) s = execVfmul f s := rfl
@[simp] theorem exec_vfma (f : Fields) (s : State) : exec (.vfma f) s = execVfma f s := rfl
@[simp] theorem exec_vfdiv (f : Fields) (s : State) : exec (.vfdiv f) s = execVfdiv f s := rfl
@[simp] theorem exec_vfsqrt (f : Fields) (s : State) : exec (.vfsqrt f) s = execVfsqrt f s := rfl
@[simp] theorem exec_vfrsq (f : Fields) (s : State) : exec (.vfrsq f) s = execVfrsq f s := rfl
@[simp] theorem exec_vfexp2 (f : Fields) (s : State) : exec (.vfexp2 f) s = execVfexp2 f s := rfl
@[simp] theorem exec_vflog2 (f : Fields) (s : State) : exec (.vflog2 f) s = execVflog2 f s := rfl
@[simp] theorem exec_vfmin (f : Fields) (s : State) : exec (.vfmin f) s = execVfmin f s := rfl
@[simp] theorem exec_vfmax (f : Fields) (s : State) : exec (.vfmax f) s = execVfmax f s := rfl
@[simp] theorem exec_vfcmp (f : Fields) (s : State) : exec (.vfcmp f) s = execVfcmp f s := rfl
@[simp] theorem exec_vcvt (f : Fields) (s : State) : exec (.vcvt f) s = execVcvt f s := rfl
@[simp] theorem exec_vpack (f : Fields) (s : State) : exec (.vpack f) s = execVpack f s := rfl
@[simp] theorem exec_vunpk (f : Fields) (s : State) : exec (.vunpk f) s = execVunpk f s := rfl
@[simp] theorem exec_vshuf (f : Fields) (s : State) : exec (.vshuf f) s = execVshuf f s := rfl
@[simp] theorem exec_vbcast (f : Fields) (s : State) : exec (.vbcast f) s = execVbcast f s := rfl
@[simp] theorem exec_vextr (f : Fields) (s : State) : exec (.vextr f) s = execVextr f s := rfl
@[simp] theorem exec_vins (f : Fields) (s : State) : exec (.vins f) s = execVins f s := rfl
@[simp] theorem exec_vred (f : Fields) (s : State) : exec (.vred f) s = execVred f s := rfl
@[simp] theorem exec_vscan (f : Fields) (s : State) : exec (.vscan f) s = execVscan f s := rfl
@[simp] theorem exec_vqnt (f : Fields) (s : State) : exec (.vqnt f) s = execVqnt f s := rfl
@[simp] theorem exec_vdqnt (f : Fields) (s : State) : exec (.vdqnt f) s = execVdqnt f s := rfl
@[simp] theorem exec_vcbd (f : Fields) (s : State) : exec (.vcbd f) s = execVcbd f s := rfl
@[simp] theorem exec_vcbdLt (f : Fields) (s : State) : exec (.vcbdLt f) s = execVcbdLt f s := rfl
@[simp] theorem exec_lsupd (f : Fields) (s : State) : exec (.lsupd f) s = execLsupd f s := rfl
@[simp] theorem exec_vldl (f : Fields) (s : State) : exec (.vldl f) s = execVldl f s := rfl
@[simp] theorem exec_vstl (f : Fields) (s : State) : exec (.vstl f) s = execVstl f s := rfl
@[simp] theorem exec_vldg (f : Fields) (s : State) : exec (.vldg f) s = execVldg f s := rfl
@[simp] theorem exec_vstg (f : Fields) (s : State) : exec (.vstg f) s = execVstg f s := rfl
@[simp] theorem exec_vgath (f : Fields) (s : State) : exec (.vgath f) s = execVgath f s := rfl
@[simp] theorem exec_vscat (f : Fields) (s : State) : exec (.vscat f) s = execVscat f s := rfl
@[simp] theorem exec_scfg (f : Fields) (s : State) : exec (.scfg f) s = execScfg f s := rfl
@[simp] theorem exec_sstat (f : Fields) (s : State) : exec (.sstat f) s = execSstat f s := rfl
@[simp] theorem exec_sstatDrain (f : Fields) (s : State) : exec (.sstatDrain f) s = execSstatDrain f s := rfl
@[simp] theorem exec_kldb (f : Fields) (s : State) : exec (.kldb f) s = execKldb f s := rfl
@[simp] theorem exec_kmul (f : Fields) (s : State) : exec (.kmul f) s = execKmul f s := rfl
@[simp] theorem exec_kmulb (f : Fields) (s : State) : exec (.kmulb f) s = execKmulb f s := rfl
@[simp] theorem exec_kmovR (f : Fields) (s : State) : exec (.kmovR f) s = execKmovR f s := rfl
@[simp] theorem exec_kmovW (f : Fields) (s : State) : exec (.kmovW f) s = execKmovW f s := rfl
@[simp] theorem exec_kmovRz (f : Fields) (s : State) : exec (.kmovRz f) s = execKmovRz f s := rfl
@[simp] theorem exec_kzero (f : Fields) (s : State) : exec (.kzero f) s = execKzero f s := rfl
@[simp] theorem exec_kcfg (f : Fields) (s : State) : exec (.kcfg f) s = execKcfg f s := rfl
@[simp] theorem exec_kstat (f : Fields) (s : State) : exec (.kstat f) s = execKstat f s := rfl
@[simp] theorem exec_kstatJ (f : Fields) (s : State) : exec (.kstatJ f) s = execKstatJ f s := rfl
@[simp] theorem exec_kstatJc (f : Fields) (s : State) : exec (.kstatJc f) s = execKstatJc f s := rfl
@[simp] theorem exec_ksync (f : Fields) (s : State) : exec (.ksync f) s = execKsync f s := rfl
@[simp] theorem exec_knorm (f : Fields) (s : State) : exec (.knorm f) s = execKnorm f s := rfl
@[simp] theorem exec_knormRel (f : Fields) (s : State) : exec (.knormRel f) s = execKnormRel f s := rfl
@[simp] theorem exec_kest (f : Fields) (s : State) : exec (.kest f) s = execKest f s := rfl
@[simp] theorem exec_kevar (f : Fields) (s : State) : exec (.kevar f) s = execKevar f s := rfl
@[simp] theorem exec_kseed (f : Fields) (s : State) : exec (.kseed f) s = execKseed f s := rfl
@[simp] theorem exec_kseedTc (f : Fields) (s : State) : exec (.kseedTc f) s = execKseedTc f s := rfl
@[simp] theorem exec_klim (f : Fields) (s : State) : exec (.klim f) s = execKlim f s := rfl
@[simp] theorem exec_cpost (f : Fields) (s : State) : exec (.cpost f) s = execCpost f s := rfl
@[simp] theorem exec_cgath (f : Fields) (s : State) : exec (.cgath f) s = execCgath f s := rfl
@[simp] theorem exec_cwin (f : Fields) (s : State) : exec (.cwin f) s = execCwin f s := rfl
@[simp] theorem exec_clink (f : Fields) (s : State) : exec (.clink f) s = execClink f s := rfl
@[simp] theorem exec_cbinit (f : Fields) (s : State) : exec (.cbinit f) s = execCbinit f s := rfl
@[simp] theorem exec_cbput (f : Fields) (s : State) : exec (.cbput f) s = execCbput f s := rfl
@[simp] theorem exec_cbget (f : Fields) (s : State) : exec (.cbget f) s = execCbget f s := rfl
@[simp] theorem exec_mbxr (f : Fields) (s : State) : exec (.mbxr f) s = execMbxr f s := rfl
@[simp] theorem exec_mbxrT (f : Fields) (s : State) : exec (.mbxrT f) s = execMbxrT f s := rfl
@[simp] theorem exec_tdeclR (f : Fields) (s : State) : exec (.tdeclR f) s = execTdeclR f s := rfl
@[simp] theorem exec_tdeclW (f : Fields) (s : State) : exec (.tdeclW f) s = execTdeclW f s := rfl
@[simp] theorem exec_tdeclClr (f : Fields) (s : State) : exec (.tdeclClr f) s = execTdeclClr f s := rfl
@[simp] theorem exec_tsub (f : Fields) (s : State) : exec (.tsub f) s = execTsub f s := rfl
@[simp] theorem exec_tsubD (f : Fields) (s : State) : exec (.tsubD f) s = execTsubD f s := rfl
@[simp] theorem exec_tend (f : Fields) (s : State) : exec (.tend f) s = execTend f s := rfl
@[simp] theorem exec_tendG (f : Fields) (s : State) : exec (.tendG f) s = execTendG f s := rfl
@[simp] theorem exec_tstat (f : Fields) (s : State) : exec (.tstat f) s = execTstat f s := rfl
@[simp] theorem exec_tstatW (f : Fields) (s : State) : exec (.tstatW f) s = execTstatW f s := rfl
@[simp] theorem exec_aadd (f : Fields) (s : State) : exec (.aadd f) s = execAadd f s := rfl
@[simp] theorem exec_aand (f : Fields) (s : State) : exec (.aand f) s = execAand f s := rfl
@[simp] theorem exec_aor (f : Fields) (s : State) : exec (.aor f) s = execAor f s := rfl
@[simp] theorem exec_axor (f : Fields) (s : State) : exec (.axor f) s = execAxor f s := rfl
@[simp] theorem exec_amin (f : Fields) (s : State) : exec (.amin f) s = execAmin f s := rfl
@[simp] theorem exec_amax (f : Fields) (s : State) : exec (.amax f) s = execAmax f s := rfl
@[simp] theorem exec_aminu (f : Fields) (s : State) : exec (.aminu f) s = execAminu f s := rfl
@[simp] theorem exec_amaxu (f : Fields) (s : State) : exec (.amaxu f) s = execAmaxu f s := rfl
@[simp] theorem exec_afadd (f : Fields) (s : State) : exec (.afadd f) s = execAfadd f s := rfl
@[simp] theorem exec_afmin (f : Fields) (s : State) : exec (.afmin f) s = execAfmin f s := rfl
@[simp] theorem exec_afmax (f : Fields) (s : State) : exec (.afmax f) s = execAfmax f s := rfl
@[simp] theorem exec_aswp (f : Fields) (s : State) : exec (.aswp f) s = execAswp f s := rfl
@[simp] theorem exec_acas (f : Fields) (s : State) : exec (.acas f) s = execAcas f s := rfl
@[simp] theorem exec_reda (f : Fields) (s : State) : exec (.reda f) s = execReda f s := rfl
@[simp] theorem exec_take (f : Fields) (s : State) : exec (.take f) s = execTake f s := rfl
@[simp] theorem exec_takeK (f : Fields) (s : State) : exec (.takeK f) s = execTakeK f s := rfl
@[simp] theorem exec_put (f : Fields) (s : State) : exec (.put f) s = execPut f s := rfl
@[simp] theorem exec_mwait (f : Fields) (s : State) : exec (.mwait f) s = execMwait f s := rfl
@[simp] theorem exec_evwait (f : Fields) (s : State) : exec (.evwait f) s = execEvwait f s := rfl
@[simp] theorem exec_evsig (f : Fields) (s : State) : exec (.evsig f) s = execEvsig f s := rfl
@[simp] theorem exec_evsigR (f : Fields) (s : State) : exec (.evsigR f) s = execEvsigR f s := rfl
@[simp] theorem exec_bar (f : Fields) (s : State) : exec (.bar f) s = execBar f s := rfl
@[simp] theorem exec_barG (f : Fields) (s : State) : exec (.barG f) s = execBarG f s := rfl
@[simp] theorem exec_fence (f : Fields) (s : State) : exec (.fence f) s = execFence f s := rfl
@[simp] theorem exec_post (f : Fields) (s : State) : exec (.post f) s = execPost f s := rfl
@[simp] theorem exec_texit (f : Fields) (s : State) : exec (.texit f) s = execTexit f s := rfl
@[simp] theorem exec_slave (f : Fields) (s : State) : exec (.slave f) s = execSlave f s := rfl
@[simp] theorem exec_slaveL (f : Fields) (s : State) : exec (.slaveL f) s = execSlaveL f s := rfl
@[simp] theorem exec_detach (f : Fields) (s : State) : exec (.detach f) s = execDetach f s := rfl
@[simp] theorem exec_xrun (f : Fields) (s : State) : exec (.xrun f) s = execXrun f s := rfl
@[simp] theorem exec_xwait (f : Fields) (s : State) : exec (.xwait f) s = execXwait f s := rfl
@[simp] theorem exec_xwaitE (f : Fields) (s : State) : exec (.xwaitE f) s = execXwaitE f s := rfl
@[simp] theorem exec_msend (f : Fields) (s : State) : exec (.msend f) s = execMsend f s := rfl
@[simp] theorem exec_mrecv (f : Fields) (s : State) : exec (.mrecv f) s = execMrecv f s := rfl
@[simp] theorem exec_mrecvT (f : Fields) (s : State) : exec (.mrecvT f) s = execMrecvT f s := rfl
@[simp] theorem exec_gearF (f : Fields) (s : State) : exec (.gearF f) s = execGearF f s := rfl
@[simp] theorem exec_gearN (f : Fields) (s : State) : exec (.gearN f) s = execGearN f s := rfl
@[simp] theorem exec_taskq (f : Fields) (s : State) : exec (.taskq f) s = execTaskq f s := rfl
@[simp] theorem exec_mfs (f : Fields) (s : State) : exec (.mfs f) s = execMfs f s := rfl
@[simp] theorem exec_mts (f : Fields) (s : State) : exec (.mts f) s = execMts f s := rfl
@[simp] theorem exec_trap (f : Fields) (s : State) : exec (.trap f) s = execTrap f s := rfl
@[simp] theorem exec_sysc (f : Fields) (s : State) : exec (.sysc f) s = execSysc f s := rfl
@[simp] theorem exec_eret (f : Fields) (s : State) : exec (.eret f) s = execEret f s := rfl
@[simp] theorem exec_ctxsv (f : Fields) (s : State) : exec (.ctxsv f) s = execCtxsv f s := rfl
@[simp] theorem exec_ctxsvCl (f : Fields) (s : State) : exec (.ctxsvCl f) s = execCtxsvCl f s := rfl
@[simp] theorem exec_ctxld (f : Fields) (s : State) : exec (.ctxld f) s = execCtxld f s := rfl
@[simp] theorem exec_ctxldCl (f : Fields) (s : State) : exec (.ctxldCl f) s = execCtxldCl f s := rfl
@[simp] theorem exec_stinvVa (f : Fields) (s : State) : exec (.stinvVa f) s = execStinvVa f s := rfl
@[simp] theorem exec_stinvPid (f : Fields) (s : State) : exec (.stinvPid f) s = execStinvPid f s := rfl
@[simp] theorem exec_stinvAll (f : Fields) (s : State) : exec (.stinvAll f) s = execStinvAll f s := rfl
@[simp] theorem exec_brk (f : Fields) (s : State) : exec (.brk f) s = execBrk f s := rfl
@[simp] theorem exec_tmark (f : Fields) (s : State) : exec (.tmark f) s = execTmark f s := rfl
@[simp] theorem exec_mtsRetired (f : Fields) (s : State) : exec (.mtsRetired f) s = execMtsRetired f s := rfl
@[simp] theorem exec_mtsCycle (f : Fields) (s : State) : exec (.mtsCycle f) s = execMtsCycle f s := rfl
@[simp] theorem exec_sensinjWrite (f : Fields) (s : State) : exec (.sensinjWrite f) s = execSensinjWrite f s := rfl
@[simp] theorem exec_dbgctlHalt (s : State) : exec .dbgctlHalt s = execDbgctlHalt s := rfl
@[simp] theorem exec_dbgctlStep (s : State) : exec .dbgctlStep s = execDbgctlStep s := rfl
@[simp] theorem exec_dbgctlQuiesce (on : Bool) (s : State) : exec (.dbgctlQuiesce on) s = execDbgctlQuiesce on s := rfl
@[simp] theorem exec_barrierMaskWrite (b : Nat) (mask : BitVec 8) (s : State) : exec (.barrierMaskWrite b mask) s = execBarrierMaskWrite b mask s := rfl
@[simp] theorem exec_barrierArrive (b core : Nat) (s : State) : exec (.barrierArrive b core) s = execBarrierArrive b core s := rfl
@[simp] theorem exec_barrierSync (b core : Nat) (s : State) : exec (.barrierSync b core) s = execBarrierSync b core s := rfl
@[simp] theorem exec_mutexLock (x core : Nat) (s : State) : exec (.mutexLock x core) s = execMutexLock x core s := rfl
@[simp] theorem exec_mutexTry (x core : Nat) (s : State) : exec (.mutexTry x core) s = execMutexTry x core s := rfl
@[simp] theorem exec_mutexUnlock (x core : Nat) (s : State) : exec (.mutexUnlock x core) s = execMutexUnlock x core s := rfl
@[simp] theorem exec_mutexErrClear (x : Nat) (s : State) : exec (.mutexErrClear x) s = execMutexErrClear x s := rfl
@[simp] theorem exec_eventPendWrite (e : Nat) (v : BitVec 16) (s : State) : exec (.eventPendWrite e v) s = execEventPendWrite e v s := rfl
@[simp] theorem exec_eventSig (e : Nat) (n : BitVec 16) (s : State) : exec (.eventSig e n) s = execEventSig e n s := rfl
@[simp] theorem exec_eventWait (e core : Nat) (s : State) : exec (.eventWait e core) s = execEventWait e core s := rfl
@[simp] theorem exec_eventMessageLand (e : Nat) (s : State) : exec (.eventMessageLand e) s = execEventMessageLand e s := rfl
@[simp] theorem exec_waitWake (s : State) : exec .waitWake s = execWaitWake s := rfl
@[simp] theorem exec_trapEntry (s : State) : exec .trapEntry s = execTrapEntry s := rfl
@[simp] theorem exec_stationAccept (who : Requester) (k : AccKind) (va : Word) (s : State) : exec (.stationAccept who k va) s = execStationAccept who k va s := rfl
@[simp] theorem exec_pageWalk (who : Requester) (va : Word) (s : State) : exec (.pageWalk who va) s = execPageWalk who va s := rfl
@[simp] theorem exec_globalAccessPerform (k : Nat) (s : State) : exec (.globalAccessPerform k) s = execGlobalAccessPerform k s := rfl
@[simp] theorem exec_globalLoadReturn (k : Nat) (s : State) : exec (.globalLoadReturn k) s = execGlobalLoadReturn k s := rfl
@[simp] theorem exec_bankAluAtomic (op : AtomForm) (fmt : BitVec 5) (pa : Nat) (b d : Word) (s : State) :
    exec (.bankAluAtomic op fmt pa b d) s = execBankAluAtomic op fmt pa b d s := rfl
@[simp] theorem exec_atomicLineMove (line cluster : Nat) (s : State) : exec (.atomicLineMove line cluster) s = execAtomicLineMove line cluster s := rfl
@[simp] theorem exec_atomicLineReturn (line : LineReturn) (s : State) : exec (.atomicLineReturn line) s = execAtomicLineReturn line s := rfl
@[simp] theorem exec_redaArrival (pa : HomeWord) (rank : BitVec 16) (v : Word) (s : State) : exec (.redaArrival pa rank v) s = execRedaArrival pa rank v s := rfl
@[simp] theorem exec_feTakeAtHome (pa : HomeWord) (keep : Bool) (core : Nat) (s : State) : exec (.feTakeAtHome pa keep core) s = execFeTakeAtHome pa keep core s := rfl
@[simp] theorem exec_fePutAtHome (pa : HomeWord) (v : Word) (s : State) : exec (.fePutAtHome pa v) s = execFePutAtHome pa v s := rfl
@[simp] theorem exec_fenceComplete (s : State) : exec .fenceComplete s = execFenceComplete s := rfl
@[simp] theorem exec_kilnCommandStart (k : Nat) (s : State) : exec (.kilnCommandStart k) s = execKilnCommandStart k s := rfl
@[simp] theorem exec_slicePassGrant (s : State) : exec .slicePassGrant s = execSlicePassGrant s := rfl
@[simp] theorem exec_slicePassComplete (s : State) : exec .slicePassComplete s = execSlicePassComplete s := rfl
@[simp] theorem exec_kestSelection (s : State) : exec .kestSelection s = execKestSelection s := rfl
@[simp] theorem exec_kilnCommandComplete (k : Nat) (s : State) : exec (.kilnCommandComplete k) s = execKilnCommandComplete k s := rfl
@[simp] theorem exec_kilnBudgetWindow (s : State) : exec .kilnBudgetWindow s = execKilnBudgetWindow s := rfl
@[simp] theorem exec_queueClaim (pa : Nat) (s : State) : exec (.queueClaim pa) s = execQueueClaim pa s := rfl
@[simp] theorem exec_queueStatWrite (pa : Nat) (v : Word) (s : State) : exec (.queueStatWrite pa v) s = execQueueStatWrite pa v s := rfl
@[simp] theorem exec_packetRead (q : Nat) (s : State) : exec (.packetRead q) s = execPacketRead q s := rfl
@[simp] theorem exec_copyJobStart (j : Nat) (s : State) : exec (.copyJobStart j) s = execCopyJobStart j s := rfl
@[simp] theorem exec_copyBurst (j : Nat) (s : State) : exec (.copyBurst j) s = execCopyBurst j s := rfl
@[simp] theorem exec_linkPacketRead (j : Nat) (s : State) : exec (.linkPacketRead j) s = execLinkPacketRead j s := rfl
@[simp] theorem exec_clipMessage (j : Nat) (s : State) : exec (.clipMessage j) s = execClipMessage j s := rfl
@[simp] theorem exec_stampWrite (j : Nat) (s : State) : exec (.stampWrite j) s = execStampWrite j s := rfl
@[simp] theorem exec_streamReadAhead (q : Nat) (s : State) : exec (.streamReadAhead q) s = execStreamReadAhead q s := rfl
@[simp] theorem exec_streamPushWrite (q : Nat) (s : State) : exec (.streamPushWrite q) s = execStreamPushWrite q s := rfl
@[simp] theorem exec_launch (who : Requester) (desc : Word) (pnum : BitVec 16) (clusters : List Nat) (number : BitVec 16) (s : State) : exec (.launch who desc pnum clusters number) s = execLaunch who desc pnum clusters number s := rfl
@[simp] theorem exec_overflowReturn (s : State) : exec .overflowReturn s = execOverflowReturn s := rfl
@[simp] theorem exec_taskDispatch (s : State) : exec .taskDispatch s = execTaskDispatch s := rfl
@[simp] theorem exec_recordReservation (pidx : Nat) (s : State) : exec (.recordReservation pidx) s = execRecordReservation pidx s := rfl
@[simp] theorem exec_gangMigration (cores : BitVec 8) (dest : Nat) (s : State) : exec (.gangMigration cores dest) s = execGangMigration cores dest s := rfl
@[simp] theorem exec_launchComplete (s : State) : exec .launchComplete s = execLaunchComplete s := rfl
@[simp] theorem exec_computeBarrierRelease (s : State) : exec .computeBarrierRelease s = execComputeBarrierRelease s := rfl
@[simp] theorem exec_exchangeTransferStart (linkTaken : Bool) (s : State) : exec (.exchangeTransferStart linkTaken) s = execExchangeTransferStart linkTaken s := rfl
@[simp] theorem exec_exchangeLanding (k : Nat) (s : State) : exec (.exchangeLanding k) s = execExchangeLanding k s := rfl
@[simp] theorem exec_exchangeBarrierRelease (records : List ArrivedRecord) (s : State) : exec (.exchangeBarrierRelease records) s = execExchangeBarrierRelease records s := rfl
@[simp] theorem exec_computePhaseStart (s : State) : exec .computePhaseStart s = execComputePhaseStart s := rfl
@[simp] theorem exec_messageDelivery (core : Nat) (data : Vec) (s : State) : exec (.messageDelivery core data) s = execMessageDelivery core data s := rfl
@[simp] theorem exec_gearLift (on : Bool) (s : State) : exec (.gearLift on) s = execGearLift on s := rfl
@[simp] theorem exec_railHandover (n : Bool) (s : State) : exec (.railHandover n) s = execRailHandover n s := rfl
@[simp] theorem exec_handoverComplete (s : State) : exec .handoverComplete s = execHandoverComplete s := rfl
@[simp] theorem exec_controlInterval (c t : Nat) (boost : Bool) (dly : BitVec 8) (stag : BitVec 2) (s : State) : exec (.controlInterval c t boost dly stag) s = execControlInterval c t boost dly stag s := rfl
@[simp] theorem exec_sagStretch (s : State) : exec .sagStretch s = execSagStretch s := rfl
@[simp] theorem exec_sagHoldEnd (s : State) : exec .sagHoldEnd s = execSagHoldEnd s := rfl
@[simp] theorem exec_sensorReading (die kind sensor : Nat) (temp : BitVec 8) (s : State) : exec (.sensorReading die kind sensor temp) s = execSensorReading die kind sensor temp s := rfl
@[simp] theorem exec_dramRefresh (channel layer : Nat) (s : State) : exec (.dramRefresh channel layer) s = execDramRefresh channel layer s := rfl
@[simp] theorem exec_refreshEnd (channel layer : Nat) (s : State) : exec (.refreshEnd channel layer) s = execRefreshEnd channel layer s := rfl
@[simp] theorem exec_scrub (pa : Nat) (bad : Bool) (s : State) : exec (.scrub pa bad) s = execScrub pa bad s := rfl
@[simp] theorem exec_watchdogExpiry (s : State) : exec .watchdogExpiry s = execWatchdogExpiry s := rfl
@[simp] theorem exec_sequencerSubmission (key : TxKey) (tiles : List (Nat × Bool)) (s : State) :
    exec (.sequencerSubmission key tiles) s = execSequencerSubmission key tiles s := rfl
@[simp] theorem exec_beatEnd (beat : Nat) (s : State) : exec (.beatEnd beat) s = execBeatEnd beat s := rfl
@[simp] theorem exec_orderMerged (beat : Nat) (others : List (TxKey × List (Nat × Bool))) (s : State) : exec (.orderMerged beat others) s = execOrderMerged beat others s := rfl
@[simp] theorem exec_sliceGrant (k : Nat) (s : State) : exec (.sliceGrant k) s = execSliceGrant k s := rfl
@[simp] theorem exec_grantDelivery (s : State) : exec .grantDelivery s = execGrantDelivery s := rfl
@[simp] theorem exec_releasePerform (key : TxKey) (s : State) : exec (.releasePerform key) s = execReleasePerform key s := rfl
@[simp] theorem exec_haltTreeStop (s : State) : exec .haltTreeStop s = execHaltTreeStop s := rfl
@[simp] theorem exec_haltTreeFreeze (s : State) : exec .haltTreeFreeze s = execHaltTreeFreeze s := rfl
@[simp] theorem exec_kernelCrash (reason : Nat) (s : State) : exec (.kernelCrash reason) s = execKernelCrash reason s := rfl
@[simp] theorem exec_warmReboot (s : State) : exec .warmReboot s = execWarmReboot s := rfl
@[simp] theorem exec_coldBoot (image : List (Nat × BitVec 8)) (s : State) : exec (.coldBoot image) s = execColdBoot image s := rfl
@[simp] theorem exec_selfTestPass (offset i : Nat) (s : State) : exec (.selfTestPass offset i) s = execSelfTestPass offset i s := rfl
@[simp] theorem exec_functionFailed (offset i : Nat) (s : State) : exec (.functionFailed offset i) s = execFunctionFailed offset i s := rfl
@[simp] theorem exec_linkFailed (link : Nat) (s : State) : exec (.linkFailed link) s = execLinkFailed link s := rfl
@[simp] theorem exec_hostRead (fn : Nat) (addr : Word) (n : Nat) (s : State) : exec (.hostRead fn addr n) s = execHostRead fn addr n s := rfl
@[simp] theorem exec_hostWrite (fn : Nat) (addr : Word) (n : Nat) (v : Vec) (s : State) : exec (.hostWrite fn addr n v) s = execHostWrite fn addr n v s := rfl
@[simp] theorem exec_remoteAccess (pkg : Nat) (pa : Nat) (n : Nat) (w : Option Word) (s : State) : exec (.remoteAccess pkg pa n w) s = execRemoteAccess pkg pa n w s := rfl
@[simp] theorem exec_exportWindowNarrow (pkg i : Nat) (w : ExportWindow) (s : State) : exec (.exportWindowNarrow pkg i w) s = execExportWindowNarrow pkg i w s := rfl
@[simp] theorem exec_domainFormation (rank n : Nat) (tables : List (Nat × ExportWindow)) (s : State) : exec (.domainFormation rank n tables) s = execDomainFormation rank n tables s := rfl
@[simp] theorem exec_preemptionRequest (s : State) : exec .preemptionRequest s = execPreemptionRequest s := rfl
@[simp] theorem exec_contextDiscard (s : State) : exec .contextDiscard s = execContextDiscard s := rfl
@[simp] theorem exec_recordDelivery (s : State) : exec .recordDelivery s = execRecordDelivery s := rfl

/-! ### Every instruction issues -/

/-- The meaning of an instruction with fields is an issue of an effect of its own. -/
def Issues (i : Instr) : Prop := match i.fields with | some f => ∃ eff, ∀ s, exec i s = issue i f eff s | none => True

theorem issues_all (i : Instr) : Issues i := by
  cases i
  all_goals first | exact ⟨_, fun _ => rfl⟩ | exact trivial

/-- The checks of an issue (R32, R33, R207) bind every instruction with fields, which is every one but PFX and the events. -/
theorem exec_issues {i : Instr} {f : Fields} (h : i.fields = some f) (s : State) : ∃ eff, exec i s = issue i f eff s := by
  have k := issues_all i
  unfold Issues at k
  rw [h] at k
  exact k.imp fun _ e => e s

end Sys2Proof.Machine
end

