-- ==== Sys2Proof/Laws/Issue.lean ====
section
/-! SUPPORT. What the issue of an instruction can do, said once: with its effect, guarded off, waiting or trapped; and what a
step that is no instruction does. -/

namespace Sys2Proof.Machine

/-- An instruction that is ready takes its effect in the state in which it is admitted. -/
theorem issue_ready {i : Instr} {f : Fields} {s : State} (eff : State → Eff) (h : s.ready i f = true) :
    issue i f eff s = .next ((eff (s.atIssue i f)).finish i f (s.atIssue i f)) := by
  simp only [State.ready, Bool.and_eq_true, Bool.not_eq_true', Option.isNone_iff_eq_none] at h
  obtain ⟨⟨⟨⟨⟨hp, hw⟩, ha⟩, hc⟩, hg⟩, hb⟩ := h
  simp [issue, hp, hw, ha, hc, hg, hb]

/-- A ready instruction whose effect completes falls through. -/
theorem issue_ok {i : Instr} {f : Fields} {s t : State} {eff : State → Eff} (h : s.ready i f = true)
    (he : eff (s.atIssue i f) = .ok t) : issue i f eff s = .next (s.after i f t) := by
  rw [issue_ready eff h, he]; rfl

/-- A ready instruction whose effect transfers goes on at its target. -/
theorem issue_jump {i : Instr} {f : Fields} {s t : State} {pc : Word} {eff : State → Eff} (h : s.ready i f = true)
    (he : eff (s.atIssue i f) = .jump t pc) : issue i f eff s = .next (s.afterJump i f pc t) := by
  rw [issue_ready eff h, he]; rfl

/-- A ready instruction whose effect traps takes that trap and has no other effect. -/
theorem issue_trap {i : Instr} {f : Fields} {s : State} {t : Trap} {eff : State → Eff} (h : s.ready i f = true)
    (he : eff (s.atIssue i f) = .trap t) : issue i f eff s = .next ((s.atIssue i f).trap t) := by
  rw [issue_ready eff h, he]; rfl

/-- A ready instruction whose effect ends the step itself. -/
theorem issue_stay {i : Instr} {f : Fields} {s t : State} {eff : State → Eff} (h : s.ready i f = true)
    (he : eff (s.atIssue i f) = .stay t) : issue i f eff s = .next t := by
  rw [issue_ready eff h, he]; rfl

/-- A ready instruction that traps with a state that is kept. -/
theorem issue_trapIn {i : Instr} {f : Fields} {s t : State} {x : Trap} {eff : State → Eff} (h : s.ready i f = true)
    (he : eff (s.atIssue i f) = .trapIn t x) : issue i f eff s = .next (t.trap x) := by
  rw [issue_ready eff h, he]; rfl

/-- A ready instruction that enters a repeat body. -/
theorem issue_enter {i : Instr} {f : Fields} {s t : State} {eff : State → Eff} (h : s.ready i f = true)
    (he : eff (s.atIssue i f) = .enter t) :
    issue i f eff s = .next ((t.refetch i).retire f ((s.atIssue i f).ctx.pc + (s.atIssue i f).len) .enter) := by
  rw [issue_ready eff h, he]; rfl

/-- A ready instruction that waits is there again after a cycle (R247). -/
theorem issue_hold {i : Instr} {f : Fields} {s t : State} {eff : State → Eff} (h : s.ready i f = true)
    (he : eff (s.atIssue i f) = .hold t) : issue i f eff s = .next t.idle := by
  rw [issue_ready eff h, he]; rfl

/-- The wait of a ready instruction, if it has one, has not been served. -/
theorem ready_waitServed {i : Instr} {f : Fields} {s : State} (h : s.ready i f = true) : (s.atIssue i f).waitServed = false := by
  rw [(timed_atIssue i f s).waitServed]
  simp only [State.ready, Bool.and_eq_true, Bool.not_eq_true'] at h
  exact h.1.1.1.1.2

/-- A wait that has not been served asks. -/
theorem onServed_ask {s : State} (done : Word → State → Eff) (ask : Eff) (h : s.waitServed = false) : onServed s done ask = ask := by
  unfold onServed
  unfold State.waitServed at h
  split
  · next hw => simp [hw] at h
  · rfl

/-- A wait that has been served is done with its value. -/
theorem onServed_done {s : State} {v : Word} (done : Word → State → Eff) (ask : Eff) (h : s.servedWith v) :
    onServed s done ask = done v s.endWait := by
  obtain ⟨_, k, g, hw⟩ := h
  simp [onServed, hw]

/-- A wait that its place has served completes with the effect (R247). -/
theorem issue_served {i : Instr} {f : Fields} {s : State} {v : Word} (eff : State → Eff) (h : s.servedWith v) :
    issue i f eff s = .next ((eff s).finish i f s) := by
  obtain ⟨hp, k, g, hw⟩ := h
  simp [issue, hp, State.waitServed, hw]

/-- An instruction whose check fails takes the trap of the first one, whatever its guard (R33, R34). -/
theorem issue_checked {i : Instr} {f : Fields} {s : State} {t : Trap} (eff : State → Eff) (hp : s.pkg.power = true)
    (hw : s.waitServed = false) (ha : s.awaits (i.names f s) = false) (hc : i.checks f (s.atIssue i f) = some t) :
    issue i f eff s = .next ((s.atIssue i f).trap t) := by
  simp [issue, hp, hw, ha, hc]

/-- An instruction whose check passes and that reads a register held bad takes 0x11 (R207). -/
theorem issue_bad {i : Instr} {f : Fields} {s : State} {t : Trap} (eff : State → Eff) (hp : s.pkg.power = true)
    (hw : s.waitServed = false) (ha : s.awaits (i.names f s) = false) (hc : i.checks f (s.atIssue i f) = none)
    (hb : (s.atIssue i f).badSource i f = some t) : issue i f eff s = .next ((s.atIssue i f).trap t) := by
  simp [issue, hp, hw, ha, hc, hb]

/-- An instruction that is guarded off, by a predicate that is not held bad, only retires (R33). -/
theorem issue_guarded {i : Instr} {f : Fields} {s : State} (eff : State → Eff) (hp : s.pkg.power = true)
    (hw : s.waitServed = false) (ha : s.awaits (i.names f s) = false) (hc : i.checks f (s.atIssue i f) = none)
    (hb : (s.atIssue i f).badSource i f = none) (hg : f.guard (s.atIssue i f) = false) :
    issue i f eff s = .next ((s.atIssue i f).retire f ((s.atIssue i f).ctx.pc + (s.atIssue i f).len) .seq) := by
  simp [issue, hp, hw, ha, hc, hb, hg]

/-- The issue of an instruction answers a next state whenever there is power: it never refuses, and faults only without. -/
theorem issue_next {i : Instr} {f : Fields} {s : State} (eff : State → Eff) (hp : s.pkg.power = true) :
    ∃ t, issue i f eff s = .next t := by
  unfold issue
  simp only [hp, Bool.not_true, Bool.false_eq_true, if_false]
  split
  · exact ⟨_, rfl⟩
  · split
    · exact ⟨_, rfl⟩
    · split
      · exact ⟨_, rfl⟩
      · split <;> exact ⟨_, rfl⟩

/-- A step that is no instruction, with power. -/
theorem event_powered {s : State} (g : State → State) (hp : s.pkg.power = true) :
    event g s = .next { (g s).latch with tick := (g s).tick + 1 } := by simp [event, hp]

/-- A core that waits for no word latches none (R241). -/
theorem latch_of_not_watching {s : State} (h : ∀ w, s.core.wait = some w → w.served.isSome = true ∨ s.watched w.kind = none) :
    s.latch = s := by
  unfold State.latch
  split
  · next k g hw => rcases h _ hw with h | h <;> simp_all
  · rfl

/-- All that latching can change is the value with which the wait is served (R241). -/
theorem latch_fields (s : State) : ∃ w, s.latch = { s with core := { s.core with wait := w } } := by
  unfold State.latch
  split
  · split
    · split
      · exact ⟨_, rfl⟩
      · exact ⟨s.core.wait, rfl⟩
    · exact ⟨s.core.wait, rfl⟩
  · exact ⟨s.core.wait, rfl⟩

/-- Without power neither an instruction nor an event has an effect (R404). -/
theorem issue_unpowered {i : Instr} {f : Fields} {s : State} (eff : State → Eff) (hp : s.pkg.power = false) :
    issue i f eff s = .fault .powerLost := by simp [issue, hp]

/-- Without power no event has an effect (R404). -/
theorem event_unpowered {s : State} (g : State → State) (hp : s.pkg.power = false) : event g s = .fault .powerLost := by
  simp [event, hp]

end Sys2Proof.Machine
end

