-- ==== Sys2Proof/Laws/Trap.lean ====
section
/-! SUPPORT. What taking a trap and returning from one can do, said once (R372, R375, R395), and what retirement can do (R19, R21,
R391). -/

namespace Sys2Proof.Machine

/-- Issued instructions have completed (R372): nothing is outstanding or due, and of the core and its context only what `Settles`
names may differ. -/
structure Settles (s t : State) : Prop where
  ctx : t.ctx = { s.ctx with
    regs := t.ctx.regs, fmode := t.ctx.fmode, streams := t.ctx.streams
    tiles := { s.ctx.tiles with norm := t.ctx.tiles.norm }
    sys := { s.ctx.sys with wdog := t.ctx.sys.wdog, stalls := t.ctx.sys.stalls } }
  core : t.core = { s.core with
    cyc := t.core.cyc, frac := t.core.frac
    gq := [], wait := t.core.wait, trn := t.core.trn, red := t.core.red, pend := [], locked := t.core.locked
    chain := t.core.chain }
  power : t.pkg.power = s.pkg.power
  wf : s.memoriesWf = true → t.memoriesWf = true

/-- What happens behind a core that has settled leaves it settled. -/
theorem Settles.behind {s t u : State} (h : Settles s t) (g : Behind t u) : Settles s u where
  ctx := by rw [g.ctx, h.ctx]
  core := by
    have h₁ := g.gq (by rw [h.core])
    have h₂ := g.pend (by rw [h.core])
    rw [g.core, h.core, h₁, h₂]
  power := g.power.trans h.power
  wf := g.wf ∘ h.wf

theorem Settles.of {s t : State} (g : Behind s t) (h₁ : t.core.gq = []) (h₂ : t.core.pend = []) : Settles s t where
  ctx := g.ctx
  core := by rw [g.core, h₁, h₂]
  power := g.power
  wf := g.wf

theorem Settles.leaveChain {s t : State} (h : Settles s t) : Settles s t.leaveChain := by
  unfold State.leaveChain
  split
  · refine Settles.behind (t := { t with core := { t.core with chain := none } }) ⟨h.ctx, ?_, h.power, h.wf⟩ (behind_trace ..)
    show ({ t.core with chain := none } : Core) = _
    rw [h.core]
  · exact h

/-- Steps 1 to 3 of R372 settle the core. -/
theorem settles_settle (s : State) : Settles s s.settle.1 := by
  have h₁ : Behind s s.landAll.drain.1 := (behind_landAll s).trans (behind_drain _)
  have h₂ : s.landAll.drain.1.core.pend = [] := (behind_drain s.landAll).pend (landAll_pend s)
  have h₃ := (Settles.of h₁ (drain_gq _) h₂).behind (behind_flushStreams _)
  rw [State.settle]; dsimp only
  exact h₃.leaveChain

theorem Settles.withdraw {s t : State} (h : Settles s t) : Settles s t.withdraw := by
  have h₀ : Settles s { t with core := { t.core with wait := none } } :=
    ⟨h.ctx, by show ({ t.core with wait := none } : Core) = _; rw [h.core], h.power, h.wf⟩
  unfold State.withdraw
  split
  · exact h
  · split <;> exact ⟨h₀.ctx, h₀.core, h₀.power, h₀.wf⟩

section
variable {s t : State} (h : Settles s t)
include h
theorem Settles.k : t.core.k = s.core.k := by rw [h.core]
theorem Settles.saved : t.core.saved = s.core.saved := by rw [h.core]
theorem Settles.control : t.core.control = s.core.control := by rw [h.core]
theorem Settles.idx : t.core.idx = s.core.idx := by rw [h.core]
theorem Settles.die : t.core.die = s.core.die := by rw [h.core]
theorem Settles.pcore : t.core.pcore = s.core.pcore := by rw [h.core]
theorem Settles.run : t.core.run = s.core.run := by rw [h.core]
theorem Settles.handler : t.core.handler = s.core.handler := by rw [h.core]
theorem Settles.gq : t.core.gq = [] := by rw [h.core]
theorem Settles.pend : t.core.pend = [] := by rw [h.core]
theorem Settles.trap : t.ctx.trap = s.ctx.trap := by rw [h.ctx]
theorem Settles.pc : t.ctx.pc = s.ctx.pc := by rw [h.ctx]
theorem Settles.retired : t.ctx.retired = s.ctx.retired := by rw [h.ctx]
theorem Settles.sys : t.ctx.sys = { s.ctx.sys with wdog := t.ctx.sys.wdog, stalls := t.ctx.sys.stalls } := by rw [h.ctx]
end

/-- The state that step 4 of R372 has reached: everything is settled, and what the core waited for is withdrawn. -/
theorem settles_entry (s : State) : Settles s s.settle.1.withdraw := (settles_settle s).withdraw

theorem behind_recordTrap (c : Word) (s : State) : Behind s (s.recordTrap c) := by
  unfold State.recordTrap
  split
  · exact behind_sherd ..
  · exact .refl s

/-- A trap that is taken: what was settled is saved, and the core goes on at the handler. -/
theorem enterTrap_takes {s : State} {c val pc : Word} (hd : (s.core.k && !s.core.saved) = false) :
    ∃ w, Settles s w ∧ s.enterTrap c val pc =
      ((w.recordTrap (if s.settle.2.isSome then 0x11 else c)).saveTrap (if s.settle.2.isSome then 0x11 else c)
        (s.settle.2.getD val) pc).toHandler (if s.settle.2.isSome then 0x11 else c) := by
  have h := settles_entry s
  refine ⟨_, h, ?_⟩
  rw [State.enterTrap]
  refine if_neg ?_
  rw [h.k, h.saved, hd]
  simp

/-- A double trap freezes a compute core where it is (R375). -/
theorem enterTrap_double {s : State} {c val pc : Word} (hk : s.core.k = true) (hs : s.core.saved = false)
    (hc : s.core.control = false) : ∃ w, Settles s w ∧ s.enterTrap c val pc = (w.sherd 2 pc).freeze := by
  have h := settles_entry s
  refine ⟨_, h, ?_⟩
  rw [State.enterTrap]
  refine (if_pos ?_).trans ?_
  · rw [h.k, h.saved, hk, hs]; rfl
  · rw [State.doubleTrap, if_neg (by rw [h.control, hc]; simp)]

/-- The record of an uncorrectable error (R406) leaves what `Behind` leaves. -/
theorem behind_recordError (t : Trap) (s : State) : Behind s (s.recordError t) := by
  unfold State.recordError State.reportTrap
  split
  · exact behind_sherd ..
  · split
    · exact behind_uncorrectable ..
    · exact .refl s

/-- A trap that an instruction raises (R372): its error recorded, and a fault noted in the transaction, entry saves its cause, its value
and the pc; one held for a home and one in the kernel's own local store go elsewhere (R14, R399). -/
theorem trap_takes {s : State} {t : Trap} (hh : t.1 ≠ heldCause) (hk : inKernelStore t = false) :
    ∃ u : State, u.core = (s.recordError t).core ∧ u.ctx.pc = (s.recordError t).ctx.pc ∧
      s.trap t = u.enterTrap (BitVec.ofNat 64 (t.1 % 0x1000)) t.2 (s.recordError t).ctx.pc := by
  unfold State.trap
  rw [if_neg hh, hk]
  simp only [Bool.false_eq_true, if_false]
  generalize s.recordError t = v
  by_cases h : t.1 = 0x0A
  · exact ⟨{ v with ctx := { v.ctx with tx := { v.ctx.tx with flt := true } } }, rfl, rfl, by rw [if_pos h]⟩
  · exact ⟨v, rfl, rfl, by rw [if_neg h]⟩

/-! ### Retirement -/

theorem behind_countBlock (s : State) : Behind s s.countBlock := by
  unfold State.countBlock
  dsimp only
  split
  · exact behind_storeWrite ..
  · exact .refl s

theorem behind_blockEntry (s : State) : Behind s s.blockEntry := (behind_countBlock s).trans (behind_trace ..)

/-- Counting an instruction: RETIRED rises by one, and the rest happens behind the core. -/
theorem countRetired_counts (f : Fields) (s : State) :
    Behind { s with ctx := { s.ctx with retired := s.ctx.retired + 1 } } (s.countRetired f) := by
  unfold State.countRetired
  dsimp only
  split
  · exact behind_blockEntry _
  · exact .refl _

theorem countBlock_leaves (s : State) : s.countBlock.core = s.core ∧ s.countBlock.ctx = s.ctx ∧
    s.countBlock.cl = { s.cl with stores := s.countBlock.cl.stores, bad := s.countBlock.cl.bad } := by
  unfold State.countBlock
  dsimp only
  split <;> exact ⟨rfl, rfl, rfl⟩

theorem uncorrectable_leaves (pa : Nat) (s : State) :
    (s.uncorrectable pa).core = s.core ∧ (s.uncorrectable pa).ctx = s.ctx ∧ (s.uncorrectable pa).cl = s.cl := ⟨rfl, rfl, rfl⟩

/-- A store at a home leaves the core, its context and the cluster. -/
theorem homeStore_leaves (pa n x : Nat) (s : State) :
    (s.homeStore pa n x).core = s.core ∧ (s.homeStore pa n x).ctx = s.ctx ∧ (s.homeStore pa n x).cl = s.cl := by
  unfold State.homeStore
  split
  · exact ⟨rfl, rfl, rfl⟩
  · extract_lets whole lost mem pkg t
    split
    · exact uncorrectable_leaves pa t
    · exact ⟨rfl, rfl, rfl⟩

/-- A store that leaves no granule poisoned has stored its bytes (R207). -/
theorem homeStore_mem {pa n x : Nat} {s : State} (h : (s.homeStore pa n x).pkg.poison = []) :
    (s.homeStore pa n x).pkg.mem = s.pkg.mem.store pa n x := by
  unfold State.homeStore at h ⊢
  split at h
  · next hp => rw [if_pos hp]
  · next hp =>
    rw [if_neg hp]
    dsimp only at h ⊢
    have hw : ∀ g ∈ s.pkg.poison, (decide (pa ≤ g) && decide (g + granule g ≤ pa + n)) = true := by
      have e : (s.pkg.poison.filter fun g => !(decide (pa ≤ g) && decide (g + granule g ≤ pa + n))) = [] := by
        split at h <;> exact h
      intro g hg
      simpa using List.filter_eq_nil_iff.1 e g hg
    have hl : ∀ a, (s.pkg.poison.any fun g => decide (g ≤ a) && decide (a < g + granule g) &&
        !(decide (pa ≤ g) && decide (g + granule g ≤ pa + n))) = false := fun a => by
      rw [List.any_eq_false]
      intro g hg
      rw [hw g hg]
      simp
    simp only [hl, Bool.false_eq_true, if_false]
    split <;> exact Memory.writes_store ..
/-- The trace leaves the context and the cluster, and of the core all but the count of its records. -/
theorem trace_leaves (k : Nat) (v : Word) (s : State) :
    (s.trace k v).ctx = s.ctx ∧ (s.trace k v).cl = s.cl ∧ (s.trace k v).core = { s.core with trn := (s.trace k v).core.trn } := by
  unfold State.trace
  extract_lets t cap pa w1 u
  split
  · have h₁ := homeStore_leaves pa 8 (s.pkg.cycle % 2 ^ 64) s
    have h₂ := homeStore_leaves (pa + 8) 8 w1.toNat (s.homeStore pa 8 (s.pkg.cycle % 2 ^ 64))
    refine ⟨h₂.2.1.trans h₁.2.1, h₂.2.2.trans h₁.2.2, ?_⟩
    show ({ u.core with trn := u.core.trn + 1 } : Core) = { s.core with trn := u.core.trn + 1 }
    rw [show u.core = s.core from h₂.1.trans h₁.1]
  · exact ⟨rfl, rfl, rfl⟩

/-- What a B mark can change outside memory is nothing but the count of trace records and the errors that its counter clears. -/
theorem blockEntry_leaves (s : State) : s.blockEntry.ctx = s.ctx ∧ s.blockEntry.core = { s.core with trn := s.blockEntry.core.trn } ∧
    s.blockEntry.cl = { s.cl with stores := s.blockEntry.cl.stores, bad := s.blockEntry.cl.bad } := by
  have h := trace_leaves 1 s.ctx.retired s.countBlock
  have e := countBlock_leaves s
  unfold State.blockEntry
  rw [h.1, h.2.1]
  refine ⟨e.2.1, ?_, e.2.2⟩
  rw [h.2.2, e.1]

/-- Counting an instruction leaves what `blockEntry_leaves` names. -/
theorem countRetired_leaves (f : Fields) (s : State) :
    (s.countRetired f).ctx = { s.ctx with retired := s.ctx.retired + 1 } ∧
      (s.countRetired f).core = { s.core with trn := (s.countRetired f).core.trn } ∧
      (s.countRetired f).cl = { s.cl with stores := (s.countRetired f).cl.stores, bad := (s.countRetired f).cl.bad } := by
  unfold State.countRetired
  dsimp only
  split
  · exact blockEntry_leaves _
  · exact ⟨rfl, rfl, rfl⟩

/-- The state whose cycles pass when an instruction retires. -/
def State.retiring (f : Fields) (pc : Word) (flow : Flow) (s : State) : State :=
  { s.countRetired f with
    ctx := { (s.countRetired f).ctx with
      rep := ((s.countRetired f).continueAt flow pc).1, pc := ((s.countRetired f).continueAt flow pc).2 }
    core := (s.countRetired f).core.retired f.y }

/-- Retirement counts the instruction, goes on, and lets its cycles pass. -/
theorem timed_retire (f : Fields) (pc : Word) (flow : Flow) (s : State) :
    Timed (s.retiring f pc flow) (s.retire f pc flow) := timed_advance ..

/-- What retirement leaves of the context. -/
theorem retire_ctx (f : Fields) (pc : Word) (flow : Flow) (s : State) :
    (s.retire f pc flow).ctx = { s.ctx with
      regs := (s.retire f pc flow).ctx.regs, fmode := (s.retire f pc flow).ctx.fmode, retired := s.ctx.retired + 1
      rep := (s.continueAt flow pc).1, pc := (s.continueAt flow pc).2
      sys := { s.ctx.sys with
        wdog := (s.retire f pc flow).ctx.sys.wdog, stalls := (s.retire f pc flow).ctx.sys.stalls } } := by
  have h := (timed_retire f pc flow s).ctx
  have e := (countRetired_leaves f s).1
  have c : (s.countRetired f).continueAt flow pc = s.continueAt flow pc := by simp [State.continueAt, e]
  rw [h]
  simp only [State.retiring, e, c]

/-- What retirement leaves of the core. -/
theorem retire_core (f : Fields) (pc : Word) (flow : Flow) (s : State) :
    (s.retire f pc flow).core = { s.core.retired f.y with
      trn := (s.retire f pc flow).core.trn, cyc := (s.retire f pc flow).core.cyc, frac := (s.retire f pc flow).core.frac
      pend := (s.retire f pc flow).core.pend, locked := (s.retire f pc flow).core.locked } := by
  have h := (timed_retire f pc flow s).core
  have e := (countRetired_leaves f s).2.1
  generalize (s.retire f pc flow).core = c at h ⊢
  have ht : c.trn = (s.countRetired f).core.trn := by rw [h]; rfl
  rw [ht]
  refine h.trans ?_
  show ({ (s.countRetired f).core.retired f.y with
    cyc := c.cyc, frac := c.frac, pend := c.pend, locked := c.locked } : Core) = _
  generalize (s.countRetired f).core = d at e ⊢
  rw [e]
  rfl

end Sys2Proof.Machine
end

