-- ==== Sys2Proof/Laws/Keeps.lean ====
section
/-! SUPPORT. What every operation keeps, whatever else it does: which core this is and of what kind (R106, R355), kernel mode on a
control core (R355), and the canonical form of every memory. One lemma for each operation that makes a state from a state, and one
for each effect of an instruction; none says anything else about it. -/

namespace Sys2Proof.Machine

/-- `t` is the same core as `s`, in a legal mode if `s` was, with memories in canonical form if those of `s` were. -/
structure Keeps (s t : State) : Prop where
  control : t.core.control = s.core.control
  idx : t.core.idx = s.core.idx
  die : t.core.die = s.core.die
  pcore : t.core.pcore = s.core.pcore
  mode : s.modeOk = true → t.modeOk = true
  wf : s.memoriesWf = true → t.memoriesWf = true

theorem Keeps.refl (s : State) : Keeps s s := ⟨rfl, rfl, rfl, rfl, id, id⟩

theorem Keeps.trans {s t u : State} (h : Keeps s t) (g : Keeps t u) : Keeps s u :=
  ⟨g.control.trans h.control, g.idx.trans h.idx, g.die.trans h.die, g.pcore.trans h.pcore, g.mode ∘ h.mode, g.wf ∘ h.wf⟩

section
variable {s u : State} {x : Ctx} {c : Core} {l : Cluster} {p : Package} {a : List Instr} {r : List Nat} {o : List OtherAct} {n : Nat}

/-- A record update that leaves what `Keeps` speaks of but the memories. -/
theorem Keeps.updFrom (h : Keeps s u) (h₁ : c.control = u.core.control) (h₂ : c.idx = u.core.idx) (h₃ : c.die = u.core.die)
    (h₄ : c.pcore = u.core.pcore) (h₅ : c.k = u.core.k)
    (h₆ : s.memoriesWf = true → (⟨x, c, l, p, a, r, o, n⟩ : State).memoriesWf = true) : Keeps s ⟨x, c, l, p, a, r, o, n⟩ :=
  ⟨h₁.trans h.control, h₂.trans h.idx, h₃.trans h.die, h₄.trans h.pcore,
    fun g => by have g := h.mode g; unfold State.modeOk at g ⊢; rw [h₁, h₅]; exact g, h₆⟩

/-- The same, from the memories before the update. -/
theorem Keeps.updWf (h : Keeps s u) (h₁ : c.control = u.core.control) (h₂ : c.idx = u.core.idx) (h₃ : c.die = u.core.die)
    (h₄ : c.pcore = u.core.pcore) (h₅ : c.k = u.core.k)
    (h₆ : u.memoriesWf = true → (⟨x, c, l, p, a, r, o, n⟩ : State).memoriesWf = true) : Keeps s ⟨x, c, l, p, a, r, o, n⟩ :=
  h.updFrom h₁ h₂ h₃ h₄ h₅ (h₆ ∘ h.wf)

/-- A record update of what `Keeps` does not speak of. -/
theorem Keeps.upd (h : Keeps s u)
    (e : (c.control, c.idx, c.die, c.pcore, c.k, c.ifetch, p.mem, p.ready, p.flash, p.beside, p.hostMail, l.stores, l.spad, l.bstore,
        l.snaps, x.tiles.acc, x.cb2, x.mq8) =
      (u.core.control, u.core.idx, u.core.die, u.core.pcore, u.core.k, u.core.ifetch, u.pkg.mem, u.pkg.ready, u.pkg.flash,
        u.pkg.beside, u.pkg.hostMail, u.cl.stores, u.cl.spad, u.cl.bstore, u.cl.snaps, u.ctx.tiles.acc, u.ctx.cb2, u.ctx.mq8)) :
    Keeps s ⟨x, c, l, p, a, r, o, n⟩ := by
  simp only [Prod.mk.injEq] at e
  obtain ⟨h₁, h₂, h₃, h₄, h₅, n₄, m₁, m₂, m₃, m₄, m₅, m₆, m₇, m₈, m₉, n₁, n₂, n₃⟩ := e
  exact h.updWf h₁ h₂ h₃ h₄ h₅ (by
    unfold State.memoriesWf
    dsimp only
    rw [m₁, m₂, m₃, m₄, m₅, m₆, m₇, m₈, m₉, n₁, n₂, n₃, n₄]
    exact id)

end

variable {s u : State}

theorem Behind.keeps {s t : State} (h : Behind s t) : Keeps s t where
  control := by rw [h.core]
  idx := by rw [h.core]
  die := by rw [h.core]
  pcore := by rw [h.core]
  mode := by unfold State.modeOk; rw [h.core]; exact id
  wf := h.wf

theorem Timed.keeps {s t : State} (h : Timed s t) : Keeps s t where
  control := by rw [h.core]
  idx := by rw [h.core]
  die := by rw [h.core]
  pcore := by rw [h.core]
  mode := by unfold State.modeOk; rw [h.core]; exact id
  wf := by unfold State.memoriesWf; rw [h.core, h.cl, h.pkg, h.ctx]; exact id

/-- A fold of operations keeps what each of them keeps. -/
theorem Keeps.foldl {α : Type} {g : State → α → State} {s u : State} (hg : ∀ v x, Keeps s v → Keeps s (g v x)) (l : List α)
 (h : Keeps s u) : Keeps s (l.foldl g u) := by
  induction l generalizing u with
  | nil => exact h
  | cons x l ih => exact ih (hg u x h)

/-- A fold of operations that also carries something else. -/
theorem Keeps.foldlFst {α β : Type} {g : State × β → α → State × β} {s : State} (hg : ∀ v x, Keeps s v.1 → Keeps s (g v x).1) (l : List α)
    {u : State × β} (h : Keeps s u.1) : Keeps s (l.foldl g u).1 := by
  induction l generalizing u with
  | nil => exact h
  | cons x l ih => exact ih (hg u x h)

/-- What an effect leaves is the same core. -/
def Eff.Keeps (s : State) : Eff → Prop
  | .ok t | .jump t _ | .enter t | .trapIn t _ | .trapAfter t _ | .hold t | .stay t => Machine.Keeps s t
  | .trap _ => True

theorem Keeps.ite {s t u : State} {c : Prop} [Decidable c] (h : c → Keeps s t) (g : ¬c → Keeps s u) : Keeps s (if c then t else u) := by
  split
  · exact h ‹_›
  · exact g ‹_›

theorem Keeps.iteFst {α : Type} {s : State} {c : Prop} [Decidable c] {t u : State × α} (h : c → Keeps s t.1) (g : ¬c → Keeps s u.1) :
    Keeps s (if c then t else u).1 := by
  split
  · exact h ‹_›
  · exact g ‹_›

theorem Eff.Keeps.ite {s : State} {c : Prop} [Decidable c] {e e' : Eff} (h : c → e.Keeps s) (g : ¬c → e'.Keeps s) :
    (if c then e else e').Keeps s := by
  split
  · exact h ‹_›
  · exact g ‹_›

theorem Eff.keeps_trap {s : State} {x : Trap} : (Eff.trap x).Keeps s := trivial
theorem Eff.keeps_ok {s t : State} (h : Machine.Keeps s t) : (Eff.ok t).Keeps s := h
theorem Eff.keeps_jump {s t : State} {pc : Word} (h : Machine.Keeps s t) : (Eff.jump t pc).Keeps s := h
theorem Eff.keeps_enter {s t : State} (h : Machine.Keeps s t) : (Eff.enter t).Keeps s := h
theorem Eff.keeps_trapIn {s t : State} {x : Trap} (h : Machine.Keeps s t) : (Eff.trapIn t x).Keeps s := h
theorem Eff.keeps_trapAfter {s t : State} {x : Trap} (h : Machine.Keeps s t) : (Eff.trapAfter t x).Keeps s := h
theorem Eff.keeps_hold {s t : State} (h : Machine.Keeps s t) : (Eff.hold t).Keeps s := h
theorem Eff.keeps_stay {s t : State} (h : Machine.Keeps s t) : (Eff.stay t).Keeps s := h

/-- What a pop or a push leaves is the same core. -/
def Pop.Keeps (s : State) : Pop → Prop
  | .ok t _ => Machine.Keeps s t
  | _ => True

/-- What a load of the event unit leaves is the same core. -/
def EvLoad.Keeps (s : State) : EvLoad → Prop
  | .value t _ | .wait t _ => Machine.Keeps s t

/-- What a TAKE at its home leaves is the same core. -/
def Took.Keeps (s : State) : Took → Prop
  | .value t _ | .queued t => Machine.Keeps s t
  | .overflow => True

/-- What an access of the engine leaves is the same core. -/
def Engine.Keeps {α : Type} (s : State) : Engine α → Prop
  | .ok t _ => Machine.Keeps s t
  | _ => True

/-- What an element that is moved leaves is the same core. -/
def Moved.Keeps (s : State) : Moved → Prop
  | .next t _ | .wait t _ | .fault t _ _ => Machine.Keeps s t

/-- A state that may be answered is the same core. -/
def OptKeeps (s : State) : Option State → Prop
  | some t => Keeps s t
  | none => True

/-- Which memories are in canonical form. -/
theorem memoriesWf_iff : s.memoriesWf = true ↔ s.pkg.mem.wf = true ∧ s.pkg.ready.wf = true ∧ s.pkg.flash.wf = true ∧
    s.pkg.beside.wf = true ∧ s.pkg.hostMail.wf = true ∧ s.cl.stores.all Memory.wf = true ∧ s.cl.spad.wf = true ∧
    s.cl.bstore.wf = true ∧ s.cl.snaps.wf = true ∧ s.ctx.tiles.acc.wf = true ∧ s.ctx.cb2.wf = true ∧ s.ctx.mq8.wf = true ∧
    s.core.ifetch.wf = true := by
  simp only [State.memoriesWf, Bool.and_eq_true, and_assoc]

/-- A store of a register file of memories. -/
theorem vset_wf {n i : Nat} {v : Vector Memory n} {m : Memory} (hv : v.all Memory.wf = true) (hm : m.wf = true) :
    (vset v i m).all Memory.wf = true := by
  unfold vset
  split
  · rw [Vector.all_eq_true] at hv ⊢
    intro j hj
    rw [Vector.getElem_set]
    split
    · exact hm
    · exact hv j hj
  · exact hv

theorem own_wf (h : s.memoriesWf = true) : s.own.wf = true := by
  obtain ⟨-, -, -, -, -, h, -⟩ := memoriesWf_iff.1 h
  exact vget_wf h

/-! What happens behind the core, and time -/

theorem keeps_landBy (c : Nat) (h : Keeps s u) : Keeps s (u.landBy c) := h.trans (timed_landBy ..).keeps
theorem keeps_fabric (n : Nat) (h : Keeps s u) : Keeps s (u.fabric n) := h.trans (timed_fabric ..).keeps
theorem keeps_countStalls (n : Nat) (h : Keeps s u) : Keeps s (u.countStalls n) := h.trans (timed_countStalls ..).keeps
theorem keeps_advance (n : Nat) (h : Keeps s u) : Keeps s (u.advance n) := h.trans (timed_advance ..).keeps
theorem keeps_linger (k : Nat) (h : Keeps s u) : Keeps s (u.linger k) := h.trans (timed_linger ..).keeps
theorem keeps_unlock (names : List (BitVec 7)) (h : Keeps s u) : Keeps s (u.unlock names) := h.trans (timed_unlock ..).keeps
theorem keeps_atIssue (i : Instr) (f : Fields) (h : Keeps s u) : Keeps s (u.atIssue i f) := h.trans (timed_atIssue ..).keeps
theorem keeps_recordTrap (c : Word) (h : Keeps s u) : Keeps s (u.recordTrap c) := h.trans (behind_recordTrap ..).keeps
theorem keeps_countBlock (h : Keeps s u) : Keeps s u.countBlock := h.trans (behind_countBlock ..).keeps
theorem keeps_blockEntry (h : Keeps s u) : Keeps s u.blockEntry := h.trans (behind_blockEntry ..).keeps
theorem keeps_homeStore (pa n x : Nat) (h : Keeps s u) : Keeps s (u.homeStore pa n x) := h.trans (behind_homeStore ..).keeps
theorem keeps_setFull (pa : Nat) (b : Bool) (h : Keeps s u) : Keeps s (u.setFull pa b) := h.trans (behind_setFull ..).keeps
theorem keeps_sherd (k : Nat) (d : Word) (h : Keeps s u) : Keeps s (u.sherd k d) := h.trans (behind_sherd ..).keeps
theorem keeps_uncorrectable (pa : Nat) (h : Keeps s u) : Keeps s (u.uncorrectable pa) := h.trans (behind_uncorrectable ..).keeps
theorem keeps_restartQueues (h : Keeps s u) : Keeps s u.restartQueues := h.trans (behind_restartQueues ..).keeps
theorem keeps_bindQueue (pa : Nat) (va root : Word) (h : Keeps s u) : Keeps s (State.bindQueue pa va root u) := by
  unfold State.bindQueue
  try dsimp only
  repeat' first
    | with_reducible assumption | with_reducible refine Keeps.ite (fun _ => ?_) (fun _ => ?_)
    | with_reducible fail_if_no_progress refine Keeps.upd ?_ rfl

theorem keeps_keep (ks : List Kept) (h : Keeps s u) : Keeps s (u.keep ks) := h.trans (behind_keep ..).keeps
theorem keeps_markNorms (a n : Nat) (h : Keeps s u) : Keeps s (u.markNorms a n) := h.trans (behind_markNorms ..).keeps
theorem keeps_setStream (q : Nat) (st : Stream) (h : Keeps s u) : Keeps s (u.setStream q st) := h.trans (behind_setStream ..).keeps
theorem keeps_lineReturn (l : Nat) (c : Bool) (h : Keeps s u) : Keeps s (u.lineReturn l c) := h.trans (behind_lineReturn ..).keeps
theorem keeps_touch (c pa : Nat) (h : Keeps s u) : Keeps s (u.touch c pa) := h.trans (behind_touch ..).keeps
theorem keeps_lineMove (l c : Nat) (h : Keeps s u) : Keeps s (u.lineMove l c) := h.trans (behind_lineMove ..).keeps
theorem keeps_place (c : Nat) (hint : BitVec 2) (pa : Nat) (h : Keeps s u) : Keeps s (u.place c hint pa) := h.trans (behind_place ..).keeps
theorem keeps_serveTake (pa : Nat) (v : Word) (h : Keeps s u) : Keeps s (u.serveTake pa v) := h.trans (behind_serveTake ..).keeps
theorem keeps_serve (p : WaitKind → Bool) (v : Word) (h : Keeps s u) : Keeps s (u.serve p v) := h.trans (behind_serve ..).keeps
theorem keeps_servePut (pa : Nat) (v : Word) (k : Nat) (b : Bool) (h : Keeps s u) : Keeps s (u.servePut pa v k b).1 := h.trans (behind_servePut ..).keeps
theorem keeps_putAt (c pa : Nat) (v : Word) (h : Keeps s u) : Keeps s (u.putAt c pa v).1 := h.trans (behind_putAt ..).keeps
theorem keeps_atomicAt (op : AtomOp) (fmt : BitVec 5) (rm : BitVec 3) (pa : Nat) (b d : Word) (h : Keeps s u) :
    Keeps s (u.atomicAt op fmt rm pa b d).1 := h.trans (behind_atomicAt ..).keeps
theorem keeps_claimAt (pa : Nat) (h : Keeps s u) : Keeps s (u.claimAt pa).1 := h.trans (behind_claimAt ..).keeps
theorem keeps_redaStart (pa n : Nat) (h : Keeps s u) : Keeps s (u.redaStart pa n) := h.trans (behind_redaStart ..).keeps
theorem keeps_redaFill (a : Nat) (v : Word) (h : Keeps s u) : Keeps s (u.redaFill a v) := h.trans (behind_redaFill ..).keeps
theorem keeps_redaLast (pa n : Nat) (c : Word) (h : Keeps s u) : Keeps s (u.redaLast pa n c) := h.trans (behind_redaLast ..).keeps
theorem keeps_redaArrive (pa r n arr : Nat) (c v : Word) (h : Keeps s u) : Keeps s (u.redaArrive pa r n arr c v).1 := h.trans (behind_redaArrive ..).keeps
theorem keeps_redaAt (c pa r : Nat) (v : Word) (h : Keeps s u) : Keeps s (u.redaAt c pa r v).1 := h.trans (behind_redaAt ..).keeps
theorem keeps_readPart (seen : List (Part × Nat × Nat)) (p : Part) (h : Keeps s u) : Keeps s (u.readPart seen p).1 := h.trans (behind_readPart ..).keeps
theorem keeps_readParts (seen : List (Part × Nat × Nat)) (l : List Part) (got : List (Nat × Nat)) (h : Keeps s u) :
    Keeps s (State.readParts seen l got u).1 := h.trans (behind_readParts ..).keeps
theorem keeps_performAt (a : GAccess) (ps : List Part) (bad : Bool) (h : Keeps s u) : Keeps s (u.performAt a ps bad).1 := h.trans (behind_performAt ..).keeps
theorem keeps_reportBad (a : GAccess) (hit : Option Part) (h : Keeps s u) : Keeps s (u.reportBad a hit) := h.trans (behind_reportBad ..).keeps
theorem keeps_perform (a : GAccess) (h : Keeps s u) : Keeps s (u.perform a).1 := h.trans (behind_perform ..).keeps
theorem keeps_landReg (n : BitVec 7) (h : Keeps s u) : Keeps s (u.landReg n) := h.trans (behind_landReg ..).keeps
theorem keeps_landAll (h : Keeps s u) : Keeps s u.landAll := h.trans (behind_landAll ..).keeps
theorem keeps_putIn (lat : Nat) (held : Bool) (w : RegWrite) (h : Keeps s u) : Keeps s (State.putIn lat held w u) := by
  unfold State.putIn
  try dsimp only
  repeat' first
    | with_reducible assumption | with_reducible fail_if_no_progress refine Keeps.upd ?_ rfl

theorem keeps_arrive (a : GAccess) (h : Keeps s u) : Keeps s (u.arrive a) := h.trans (behind_arrive ..).keeps
theorem keeps_performNth (k : Nat) (h : Keeps s u) : Keeps s (u.performNth k) := h.trans (behind_performNth ..).keeps
theorem keeps_performNow (a : GAccess) (h : Keeps s u) : Keeps s (u.performNow a).1 := h.trans (behind_performNow ..).keeps
theorem keeps_drainList (l : List GAccess) (bad : Option Word) (h : Keeps s u) : Keeps s (u.drainList l bad).1 := h.trans (behind_drainList ..).keeps
theorem keeps_drain (h : Keeps s u) : Keeps s u.drain.1 := h.trans (behind_drain ..).keeps
theorem keeps_performAll (h : Keeps s u) : Keeps s u.performAll := h.trans (behind_performAll ..).keeps
theorem keeps_storeWrite (c a n x : Nat) (h : Keeps s u) : Keeps s (u.storeWrite c a n x) := h.trans (behind_storeWrite ..).keeps
theorem keeps_spadWrite (a n x : Nat) (h : Keeps s u) : Keeps s (u.spadWrite a n x) := h.trans (behind_spadWrite ..).keeps
theorem keeps_lwrite (pl : LPlace) (a n x : Nat) (h : Keeps s u) : Keeps s (u.lwrite pl a n x) := h.trans (behind_lwrite ..).keeps
theorem keeps_trace (k : Nat) (v : Word) (h : Keeps s u) : Keeps s (u.trace k v) := h.trans (behind_trace ..).keeps
theorem keeps_sign (a n x : Nat) (h : Keeps s u) : Keeps s (u.sign a n x) := h.trans (behind_sign ..).keeps
theorem keeps_dataWrite (pl : LPlace) (a n x : Nat) (h : Keeps s u) : Keeps s (u.dataWrite pl a n x) := h.trans (behind_dataWrite ..).keeps
theorem keeps_writePushed (q : Nat) (st : Stream) (p : Pushed) (rest : List Pushed) (h : Keeps s u) : Keeps s (u.writePushed q st p rest) := h.trans (behind_writePushed ..).keeps
theorem keeps_writePush (q : Nat) (h : Keeps s u) : Keeps s (u.writePush q) := h.trans (behind_writePush ..).keeps
theorem keeps_drainPushes (q : Nat) (h : Keeps s u) : Keeps s (u.drainPushes q) := h.trans (behind_drainPushes ..).keeps
theorem keeps_awaitBanks (lines : List Nat) (h : Keeps s u) : Keeps s (u.awaitBanks lines) := h.trans (timed_awaitBanks ..).keeps
theorem keeps_awaitPush (q : Nat) (h : Keeps s u) : Keeps s (u.awaitPush q) := by
  unfold State.awaitPush
  split
  · exact h
  · exact keeps_awaitBanks _ h

theorem keeps_makeRoom (q : Nat) (h : Keeps s u) : Keeps s (State.makeRoom q u) := by
  unfold State.makeRoom
  try dsimp only
  repeat' first
    | with_reducible assumption | with_reducible refine Keeps.ite (fun _ => ?_) (fun _ => ?_)
    | with_reducible apply keeps_awaitPush | with_reducible apply keeps_writePush
    | with_reducible refine Keeps.foldl (fun _ _ h => ?_) _ ?_

theorem keeps_drainStreams (h : Keeps s u) : Keeps s u.drainStreams := h.trans (behind_drainStreams ..).keeps
theorem keeps_flushStreams (h : Keeps s u) : Keeps s u.flushStreams := h.trans (behind_flushStreams ..).keeps
theorem keeps_takeAhead (q : Nat) (st : Stream) (h : Keeps s u) : Keeps s (u.takeAhead q st) := h.trans (behind_takeAhead ..).keeps
theorem keeps_settleFor (st : Stream) (h : Keeps s u) : Keeps s (u.settleFor st) := h.trans (behind_settleFor ..).keeps
theorem keeps_readAhead (q : Nat) (h : Keeps s u) : Keeps s (u.readAhead q) := h.trans (behind_readAhead ..).keeps
theorem keeps_patchJobs (a n data : Nat) (h : Keeps s u) : Keeps s (u.patchJobs a n data) := h.trans (behind_patchJobs ..).keeps
theorem keeps_streamWord (pa : Nat) (h : Keeps s u) : Keeps s (u.streamWord pa).1 := h.trans (behind_streamWord ..).keeps

theorem keeps_readHead (q : Nat) (h : Keeps s u) : Keeps s (u.readHead q) :=
  Keeps.ite (fun _ => h) fun _ =>
    Keeps.foldl (fun _ _ h => Keeps.ite (fun _ => h) fun _ => keeps_readAhead q h) _ (keeps_awaitBanks _ h)

theorem keeps_cover (pa n : Nat) (h : Keeps s u) : Keeps s (u.cover pa n) := h.trans (behind_cover ..).keeps
theorem keeps_sendHome (cluster line : Nat) (h : Keeps s u) : Keeps s (u.sendHome cluster line) := h.trans (behind_sendHome ..).keeps
theorem keeps_blockHome (c pa n : Nat) (h : Keeps s u) : Keeps s (u.blockHome c pa n) := h.trans (behind_blockHome ..).keeps
theorem keeps_setReducing (l : List (Nat × Nat)) (h : Keeps s u) : Keeps s (u.setReducing l) := h.trans (behind_setReducing ..).keeps
theorem keeps_waitRefresh (pas : List Nat) (h : Keeps s u) : Keeps s (u.waitRefresh pas) := h.trans (behind_waitRefresh ..).keeps
theorem keeps_coverParts (ps : List Part) (h : Keeps s u) : Keeps s (u.coverParts ps) := h.trans (behind_coverParts ..).keeps
theorem keeps_storeParts (ps : List Part) (h : Keeps s u) : Keeps s (u.storeParts ps) := h.trans (behind_storeParts ..).keeps
theorem keeps_touchParts (a : GAccess) (ps : List Part) (h : Keeps s u) : Keeps s (u.touchParts a ps) := h.trans (behind_touchParts ..).keeps
theorem keeps_performUnit (a : GAccess) (h : Keeps s u) : Keeps s (u.performUnit a).1 := h.trans (behind_performUnit ..).keeps
theorem keeps_performReads (h : Keeps s u) : Keeps s u.performReads := h.trans (behind_performReads ..).keeps
theorem keeps_grantBanks (column : Bool) (lines : List Nat) (h : Keeps s u) : Keeps s (u.grantBanks column lines) := h.trans (behind_grantBanks ..).keeps
theorem keeps_writeRun (p : Pushed) (x : Nat × Nat × Nat) (h : Keeps s u) : Keeps s (u.writeRun p x) := h.trans (behind_writeRun ..).keeps
theorem keeps_coverPush (p : Pushed) (h : Keeps s u) : Keeps s (u.coverPush p) := h.trans (behind_coverPush ..).keeps
theorem keeps_caughtUp (h : Keeps s u) : Keeps s u.caughtUp := h.trans (behind_caughtUp ..).keeps
theorem keeps_published (h : Keeps s u) : Keeps s u.published := h.trans (behind_published ..).keeps
theorem keeps_dropAhead (h : Keeps s u) : Keeps s u.dropAhead := h.trans (behind_dropAhead ..).keeps

/-! Basic -/

theorem keeps_put (lat : Nat) (w : RegWrite) (h : Keeps s u) : Keeps s (u.put lat w) := by
  unfold State.put
  exact Keeps.ite (fun _ => (keeps_landBy _ h).trans (behind_land w _).keeps) fun _ => keeps_putIn _ _ _ h

theorem keeps_putS (lat : Nat) (n : BitVec 7) (x : Word) (h : Keeps s u) : Keeps s (State.putS lat n x u) := by
  unfold State.putS
  try dsimp only
  repeat' first
    | with_reducible assumption | with_reducible apply keeps_put | split

theorem keeps_putLocked (n : BitVec 7) (w : RegWrite) (h : Keeps s u) : Keeps s (u.putLocked n w) :=
  (Keeps.upd (u := u.landReg n) (keeps_landReg n h) rfl :
    Keeps s { u.landReg n with core := { (u.landReg n).core with locked := n :: (u.landReg n).core.locked } }).trans
    (behind_land w _).keeps

theorem keeps_putSLocked (n : BitVec 7) (x : Word) (h : Keeps s u) : Keeps s (State.putSLocked n x u) := by
  unfold State.putSLocked
  try dsimp only
  repeat' first
    | with_reducible assumption | with_reducible apply keeps_putLocked | split

/-! Home -/

theorem keeps_takeAt (c pa : Nat) (keep : Bool) (who : Option Nat) (h : Keeps s u) : (u.takeAt c pa keep who).Keeps s := by
  unfold State.takeAt
  have h₁ := keeps_sendHome c (pa / 64 * 64) h
  dsimp only
  split
  · exact Keeps.ite (fun _ => h₁) (fun _ => keeps_setFull _ _ h₁)
  · split
    · trivial
    · exact Keeps.upd h₁ rfl

/-! Packet -/

theorem keeps_setStat (pa : Nat) (bits faddr : Word) (h : Keeps s u) : Keeps s (State.setStat pa bits faddr u) := by
  unfold State.setStat
  try dsimp only
  repeat' first
    | with_reducible assumption | with_reducible refine Keeps.ite (fun _ => ?_) (fun _ => ?_)
    | with_reducible apply keeps_homeStore

/-! Global -/

theorem keeps_setGq (q : List GAccess) (h : Keeps s u) : Keeps s (State.setGq q u) := by
  unfold State.setGq
  try dsimp only
  repeat' first
    | with_reducible assumption | with_reducible fail_if_no_progress refine Keeps.upd ?_ rfl

theorem keeps_performKept (a : GAccess) (h : Keeps s u) : Keeps s (State.performKept u a) := by
  unfold State.performKept
  try dsimp only
  repeat' first
    | with_reducible assumption | with_reducible apply keeps_setGq | with_reducible apply keeps_performNow

theorem keeps_landLoad (a : GAccess) (h : Keeps s u) : Keeps s (State.landLoad u a) := by
  unfold State.landLoad
  try dsimp only
  repeat' first
    | with_reducible assumption | with_reducible refine Keeps.ite (fun _ => ?_) (fun _ => ?_) | with_reducible apply keeps_setGq
    | with_reducible apply keeps_arrive | with_reducible apply keeps_performNow

theorem keeps_landLoads (h : Keeps s u) : Keeps s u.landLoads := Keeps.foldl (fun _ _ h => keeps_landLoad _ h) _ (keeps_setGq _ h)

theorem keeps_reportTrap (t : Trap) (h : Keeps s u) : Keeps s (State.reportTrap t u) := by
  unfold State.reportTrap
  try dsimp only
  repeat' first
    | with_reducible assumption | with_reducible refine Keeps.ite (fun _ => ?_) (fun _ => ?_)
    | with_reducible apply keeps_uncorrectable

/-! Ops -/

theorem keeps_leaveChain (h : Keeps s u) : Keeps s (State.leaveChain u) := by
  unfold State.leaveChain
  try dsimp only
  repeat' first
    | with_reducible assumption | with_reducible refine Keeps.ite (fun _ => ?_) (fun _ => ?_) | with_reducible apply keeps_trace
    | with_reducible fail_if_no_progress refine Keeps.upd ?_ rfl

theorem keeps_withdraw (h : Keeps s u) : Keeps s (State.withdraw u) := by
  unfold State.withdraw
  try dsimp only
  repeat' first
    | with_reducible assumption | with_reducible fail_if_no_progress refine Keeps.upd ?_ rfl | split

theorem keeps_settle (h : Keeps s u) : Keeps s (State.settle u).1 := by
  unfold State.settle
  try dsimp only
  repeat' first
    | with_reducible assumption | with_reducible apply keeps_leaveChain | with_reducible apply keeps_landAll
    | with_reducible apply keeps_drain | with_reducible apply keeps_flushStreams

theorem keeps_freeze (h : Keeps s u) : Keeps s (State.freeze u) := by
  unfold State.freeze
  try dsimp only
  repeat' first
    | with_reducible assumption | with_reducible fail_if_no_progress refine Keeps.upd ?_ rfl

theorem keeps_haltFreeze (h : Keeps s u) : Keeps s (State.haltFreeze u) := by
  unfold State.haltFreeze
  try dsimp only
  repeat' first
    | with_reducible assumption | with_reducible refine Keeps.ite (fun _ => ?_) (fun _ => ?_)
    | with_reducible apply keeps_landLoads | with_reducible apply keeps_landAll | with_reducible apply keeps_flushStreams
    | with_reducible apply keeps_leaveChain | with_reducible apply keeps_freeze | with_reducible apply keeps_homeStore
    | with_reducible fail_if_no_progress refine Keeps.upd ?_ rfl

theorem keeps_crash (n : Nat) (h : Keeps s u) : Keeps s (u.crash n) := by
  unfold State.crash
  dsimp only
  have h₁ : Keeps s ({ u.sherd 5 (BitVec.ofNat 64 n) with
      pkg := { (u.sherd 5 (BitVec.ofNat 64 n)).pkg with frozen := true } } : State).haltFreeze :=
    keeps_haltFreeze (Keeps.upd (keeps_sherd _ _ h) rfl)
  generalize State.haltFreeze _ = v at h₁ ⊢
  refine Keeps.ite (fun hc => h₁.trans ⟨hc.symm, rfl, rfl, rfl, fun _ => rfl, fun hw => ?_⟩) (fun _ => h₁)
  rw [memoriesWf_iff] at hw ⊢
  obtain ⟨m₁, m₂, m₃, m₄, m₅, m₆, m₇, m₈, m₉, -⟩ := hw
  exact ⟨m₁, m₂, m₃, m₄, m₅, m₆, m₇, m₈, m₉, rfl, rfl, rfl, rfl⟩

theorem keeps_doubleTrap (pc : Word) (h : Keeps s u) : Keeps s (State.doubleTrap pc u) := by
  unfold State.doubleTrap
  try dsimp only
  repeat' first
    | with_reducible assumption | with_reducible refine Keeps.ite (fun _ => ?_) (fun _ => ?_)
    | with_reducible apply keeps_freeze | with_reducible apply keeps_crash | with_reducible apply keeps_sherd

theorem keeps_saveTrap (c val pc : Word) (h : Keeps s u) : Keeps s (u.saveTrap c val pc) :=
  h.trans ⟨rfl, rfl, rfl, rfl, fun _ => by simp [State.modeOk, State.saveTrap], id⟩

theorem keeps_toHandler (c : Word) (h : Keeps s u) : Keeps s (State.toHandler c u) := by
  unfold State.toHandler
  try dsimp only
  repeat' first
    | with_reducible assumption | with_reducible apply keeps_trace | with_reducible fail_if_no_progress refine Keeps.upd ?_ rfl

theorem keeps_enterTrap (c val pc : Word) (h : Keeps s u) : Keeps s (State.enterTrap c val pc u) := by
  unfold State.enterTrap
  try dsimp only
  repeat' first
    | with_reducible assumption | with_reducible refine Keeps.ite (fun _ => ?_) (fun _ => ?_)
    | with_reducible apply keeps_withdraw | with_reducible apply keeps_settle | with_reducible apply keeps_doubleTrap
    | with_reducible apply keeps_saveTrap | with_reducible apply keeps_toHandler | with_reducible apply keeps_recordTrap

theorem keeps_recordError (t : Trap) (h : Keeps s u) : Keeps s (State.recordError t u) := by
  unfold State.recordError
  exact Keeps.ite (fun _ => keeps_sherd _ _ h) fun _ => keeps_reportTrap _ h

theorem keeps_kernelStoreError (h : Keeps s u) : Keeps s u.kernelStoreError := by
  unfold State.kernelStoreError
  exact Keeps.ite (fun _ => keeps_crash _ (keeps_withdraw (keeps_settle h))) fun _ =>
    keeps_doubleTrap _ (keeps_withdraw (keeps_settle h))

theorem keeps_idle (h : Keeps s u) : Keeps s (State.idle u) := by
  unfold State.idle
  try dsimp only
  repeat' first
    | with_reducible assumption | with_reducible apply keeps_advance
    | with_reducible fail_if_no_progress refine Keeps.upd ?_ rfl

theorem keeps_trap (t : Trap) (h : Keeps s u) : Keeps s (State.trap t u) := by
  unfold State.trap
  try dsimp only
  repeat' first
    | with_reducible assumption | with_reducible refine Keeps.ite (fun _ => ?_) (fun _ => ?_)
    | with_reducible apply keeps_enterTrap | with_reducible apply keeps_idle | with_reducible apply keeps_kernelStoreError
    | with_reducible apply keeps_recordError | with_reducible fail_if_no_progress refine Keeps.upd ?_ rfl

/-- What a control transfer sees. -/
theorem fetchable_wf (h : s.memoriesWf = true) : s.fetchable.wf = true := by
  unfold State.fetchable
  refine foldl_wf (fun m j hm => ?_) _ _ (own_wf h)
  split
  · exact foldl_wf (fun m c hm => Memory.write_wf hm) _ _ hm
  · exact hm

theorem keeps_land (w : RegWrite) (h : Keeps s u) : Keeps s { u with ctx := u.ctx.land w } := h.trans (behind_land ..).keeps

theorem keeps_leaveTrap (h : Keeps s u) : Keeps s u.leaveTrap := by
  unfold State.leaveTrap
  have h₁ := keeps_dropAhead h
  dsimp only
  generalize u.dropAhead = v at h₁ ⊢
  refine h₁.trans ⟨rfl, rfl, rfl, rfl, fun _ => ?_, fun hw => ?_⟩
  · unfold State.modeOk
    dsimp only
    cases v.core.control <;> cases v.ctx.trap.pk <;> rfl
  have ho := fetchable_wf hw
  rw [memoriesWf_iff] at hw ⊢
  obtain ⟨m₁, m₂, m₃, m₄, m₅, m₆, m₇, m₈, m₉, n₁, n₂, n₃, -⟩ := hw
  exact ⟨m₁, m₂, m₃, m₄, m₅, m₆, m₇, m₈, m₉, n₁, n₂, n₃, ho⟩

theorem keeps_heal {s u v : State} (i : Instr) (f : Fields) (h : Keeps s v) : Keeps s (State.heal i f u v) := by
  unfold State.heal
  exact Keeps.ite (fun _ => h) fun _ => Keeps.upd h rfl

theorem keeps_request (g : Requests → Requests) (h : Keeps s u) : Keeps s (State.request g u) := by
  unfold State.request
  try dsimp only
  repeat' first
    | with_reducible assumption | with_reducible fail_if_no_progress refine Keeps.upd ?_ rfl

theorem keeps_countRetired (f : Fields) (h : Keeps s u) : Keeps s (State.countRetired f u) := by
  unfold State.countRetired
  try dsimp only
  repeat' first
    | with_reducible assumption | with_reducible refine Keeps.ite (fun _ => ?_) (fun _ => ?_)
    | with_reducible apply keeps_blockEntry | with_reducible fail_if_no_progress refine Keeps.upd ?_ rfl

theorem keeps_retire (f : Fields) (pc : Word) (flow : Flow) (h : Keeps s u) : Keeps s (State.retire f pc flow u) := by
  unfold State.retire
  try dsimp only
  repeat' first
    | with_reducible assumption | with_reducible apply keeps_countRetired | with_reducible apply keeps_advance
    | with_reducible fail_if_no_progress refine Keeps.upd ?_ rfl

theorem keeps_refetch (i : Instr) (h : Keeps s u) : Keeps s (u.refetch i) := by
  unfold State.refetch
  refine Keeps.ite (fun _ => Keeps.updWf h rfl rfl rfl rfl rfl fun hw => ?_) (fun _ => h)
  have ho := fetchable_wf hw
  rw [memoriesWf_iff] at hw ⊢
  obtain ⟨m₁, m₂, m₃, m₄, m₅, m₆, m₇, m₈, m₉, n₁, n₂, n₃, -⟩ := hw
  exact ⟨m₁, m₂, m₃, m₄, m₅, m₆, m₇, m₈, m₉, n₁, n₂, n₃, ho⟩

theorem keeps_completed {s u v : State} (i : Instr) (f : Fields) (h : Keeps s v) : Keeps s (u.completed i f v) :=
  keeps_refetch i (keeps_grantBanks _ _ (keeps_heal i f h))

/-! Redundant -/

theorem nextRead_keeps {x : Vec × BitVec 5} {t : State} (h : Keeps s u) (e : u.nextRead = some (x, t)) : Keeps s t := by
  unfold State.nextRead at e
  split at e
  · split at e
    · cases e
    · obtain ⟨-, rfl⟩ := Prod.mk.inj (Option.some.inj e)
      exact Keeps.upd h rfl
  · cases e

theorem keeps_shadowRead {k : State → Vec → BitVec 5 → Eff} (h : Keeps s u) (hk : ∀ v x y, Keeps s v → (k v x y).Keeps s) :
    (shadowRead k u).Keeps s := by
  unfold shadowRead
  split
  · next e => exact hk _ _ _ (nextRead_keeps h e)
  · exact h

theorem keeps_reading  {x : Nat} {k : State → Nat → Eff} (h : Keeps s u) (hk : ∀ v y, Keeps s v → (k v y).Keeps s) :
    (reading x k u).Keeps s := by
  unfold reading
  exact Eff.Keeps.ite (fun _ => keeps_shadowRead h fun _ _ _ g => hk _ _ g) (fun _ => hk _ _ h)

theorem keeps_writing (a n x : Nat) {w : State → State} (hw : ∀ v, Keeps s v → Keeps s (w v)) (h : Keeps s u) :
    Keeps s (u.writing a n x w) := by
  unfold State.writing
  exact Keeps.ite (fun _ => keeps_sign _ _ _ h) (fun _ => hw _ (keeps_sign _ _ _ h))

/-! Operands -/

theorem keeps_setS (lat : Option Nat) (o : Operand) (x : Word) (h : Keeps s u) : Keeps s (State.setS lat o x u) := by
  unfold State.setS
  try dsimp only
  repeat' first
    | with_reducible assumption | with_reducible apply keeps_putS | with_reducible apply keeps_putSLocked | split

theorem keeps_raiseFlags (lat : Option Nat) (fl : Flags) (h : Keeps s u) : Keeps s (State.raiseFlags lat fl u) := by
  unfold State.raiseFlags
  try dsimp only
  repeat' first
    | with_reducible assumption | with_reducible apply keeps_put | with_reducible apply keeps_advance
    | with_reducible apply keeps_linger | with_reducible fail_if_no_progress refine Keeps.upd ?_ rfl | split

theorem keeps_fpScalar (lat : Option Nat) (o : Operand) (r : Nat × Flags) (h : Keeps s u) : (fpScalar lat o r u).Keeps s := by
  unfold fpScalar
  try dsimp only
  repeat' first
    | with_reducible assumption | with_reducible apply keeps_setS | with_reducible apply keeps_raiseFlags
    | with_reducible exact Eff.keeps_trap | with_reducible apply Eff.keeps_ok | split

theorem keeps_pop (q : Nat) (h : Keeps s u) : (u.pop q).Keeps s := by
  unfold State.pop
  dsimp only
  split
  · trivial
  · have h₂ := keeps_readHead q h
    generalize u.readHead q = v at h₂ ⊢
    split
    · trivial
    · next a rest _ =>
      split
      · trivial
      · split
        · trivial
        · trivial
        · trivial
        · have h₃ := fun st => keeps_setStream q st h₂
          split
          · split
            · next e => exact nextRead_keeps (h₃ _) e
            · trivial
          · exact h₃ _

/-- What a push signs. -/
theorem keeps_signRuns (a : Nat) (l : List (Nat × Nat × Nat)) (h : Keeps s u) :
    Keeps s (l.foldl (fun s y => s.sign (a + y.1) y.2.1 y.2.2) u) := Keeps.foldl (fun _ _ h => keeps_sign _ _ _ h) _ h

theorem keeps_push (q : Nat) (m x : Vec) (h : Keeps s u) : (u.push q m x).Keeps s := by
  rw [State.push]
  extract_lets v st bytes outside enter
  split
  · trivial
  · have h₂ : Keeps s v := keeps_makeRoom q h
    have he : ∀ pa w, Keeps s w → (enter pa w).Keeps s := fun pa w hw => by
      show Keeps s (State.setStream _ _ _)
      exact keeps_setStream _ _ (Keeps.ite (fun _ => keeps_signRuns _ _ hw) fun _ => hw)
    clear_value v enter
    repeat' first
      | exact True.intro
      | exact he _ _ h₂
      | exact he _ _ (keeps_keep _ h₂)
      | split

theorem keeps_one  (w : Nat) (o : Operand) (h : Keeps s u) :
    (match o.stream with | some q => u.pop q | none => Pop.ok u (u.vsrc w o)).Keeps s := by
  split
  · exact keeps_pop _ h
  · exact h

theorem keeps_withSources  {w : Nat} {a b : Operand} {k : State → Vec → Vec → Eff} (h : Keeps s u)
    (hk : ∀ v x y, Keeps s v → (k v x y).Keeps s) : (withSources w a b u k).Keeps s := by
  have h₁ := keeps_one w a h
  show (match (match a.stream with | some q => u.pop q | none => Pop.ok u (u.vsrc w a)) with
    | .trap t => Eff.trap t
    | .wait => .hold u
    | .ok v x => match (match b.stream with | some q => v.pop q | none => Pop.ok v (v.vsrc w b)) with
      | .trap t => .trap t
      | .wait => .hold u
      | .ok v' y => k v' x y).Keeps s
  generalize (match a.stream with | some q => u.pop q | none => Pop.ok u (u.vsrc w a)) = x at h₁ ⊢
  cases x with
  | trap => trivial
  | wait => exact h
  | ok v x =>
    have h₂ := keeps_one w b h₁
    show (match (match b.stream with | some q => v.pop q | none => Pop.ok v (v.vsrc w b)) with
      | .trap t => Eff.trap t
      | .wait => .hold u
      | .ok v' y => k v' x y).Keeps s
    generalize (match b.stream with | some q => v.pop q | none => Pop.ok v (v.vsrc w b)) = y at h₂ ⊢
    cases y with
    | trap => trivial
    | wait => exact h
    | ok v' y => exact hk _ _ _ h₂

theorem keeps_setV {s u v : State} (lat : Option Nat) (o : Operand) (m x : Vec) (h : Keeps s u) (g : Keeps s v) :
    (State.setV u lat o m x v).Keeps s := by
  unfold State.setV
  split
  · next q _ =>
    have h₁ := keeps_push q m x g
    split
    · trivial
    · exact h
    · next e => rw [e] at h₁; exact h₁
  · dsimp only
    split
    · exact keeps_put _ _ g
    · exact keeps_putLocked _ _ g

theorem keeps_fpVector {s u v : State} (lat : Option Nat) (o : Operand) (m x : Vec) (fl : Flags) (h : Keeps s u) (g : Keeps s v) :
    (fpVector u lat o m x fl v).Keeps s := by
  unfold fpVector
  split
  · trivial
  · have h₁ := keeps_setV lat o m x h g
    split
    · next e => rw [e] at h₁; exact keeps_raiseFlags _ _ h₁
    · exact h₁

theorem keeps_setMask (lat : Nat) (c : Word) (n : Nat) (act r : Nat → Bool) (h : Keeps s u) :
    Keeps s (State.setMask lat c n act r u) := by
  unfold State.setMask
  try dsimp only
  repeat' first
    | with_reducible assumption | with_reducible apply keeps_put

theorem keeps_setPred (lat : Nat) (c : Word) (r : Bool) (h : Keeps s u) : Keeps s (State.setPred lat c r u) := by
  unfold State.setPred
  try dsimp only
  repeat' first
    | with_reducible assumption | with_reducible apply keeps_put

/-! EventUnit -/

theorem keeps_waitFor (k : WaitKind) (h : Keeps s u) : Keeps s (State.waitFor k u) := by
  unfold State.waitFor
  try dsimp only
  repeat' first
    | with_reducible assumption | with_reducible fail_if_no_progress refine Keeps.upd ?_ rfl

theorem keeps_endWait (h : Keeps s u) : Keeps s (State.endWait u) := by
  unfold State.endWait
  try dsimp only
  repeat' first
    | with_reducible assumption | with_reducible fail_if_no_progress refine Keeps.upd ?_ rfl

theorem keeps_setBar (b : Nat) (l : BarrierLine) (h : Keeps s u) : Keeps s (State.setBar b l u) := by
  unfold State.setBar
  try dsimp only
  repeat' first
    | with_reducible assumption | with_reducible fail_if_no_progress refine Keeps.upd ?_ rfl

theorem keeps_setMtx (x : Nat) (l : Mutex) (h : Keeps s u) : Keeps s (State.setMtx x l u) := by
  unfold State.setMtx
  try dsimp only
  repeat' first
    | with_reducible assumption | with_reducible fail_if_no_progress refine Keeps.upd ?_ rfl

theorem keeps_setEvl (e : Nat) (l : EventLine) (h : Keeps s u) : Keeps s (State.setEvl e l u) := by
  unfold State.setEvl
  try dsimp only
  repeat' first
    | with_reducible assumption | with_reducible fail_if_no_progress refine Keeps.upd ?_ rfl

theorem keeps_barRelease (b : Nat) (h : Keeps s u) : Keeps s (State.barRelease b u) := by
  unfold State.barRelease
  try dsimp only
  repeat' first
    | with_reducible assumption | with_reducible refine Keeps.ite (fun _ => ?_) (fun _ => ?_)
    | with_reducible apply keeps_setBar | with_reducible apply keeps_serve

theorem keeps_barArrive (b core : Nat) (h : Keeps s u) : Keeps s (State.barArrive b core u) := by
  unfold State.barArrive
  try dsimp only
  repeat' first
    | with_reducible assumption | with_reducible refine Keeps.ite (fun _ => ?_) (fun _ => ?_)
    | with_reducible apply keeps_setBar | with_reducible apply keeps_barRelease

theorem keeps_barMask (b : Nat) (mask : BitVec 8) (h : Keeps s u) : Keeps s (State.barMask b mask u) := by
  unfold State.barMask
  try dsimp only
  repeat' first
    | with_reducible assumption | with_reducible apply keeps_setBar | with_reducible apply keeps_barRelease

theorem keeps_mutexLock (x core : Nat) (h : Keeps s u) : Keeps s (State.mutexLock x core u).1 := by
  unfold State.mutexLock
  try dsimp only
  repeat' first
    | with_reducible assumption | with_reducible refine Keeps.iteFst (fun _ => ?_) (fun _ => ?_)
    | with_reducible apply keeps_setMtx

theorem keeps_mutexTry (x core : Nat) (h : Keeps s u) : Keeps s (State.mutexTry x core u).1 := by
  unfold State.mutexTry
  try dsimp only
  repeat' first
    | with_reducible assumption | with_reducible refine Keeps.iteFst (fun _ => ?_) (fun _ => ?_)
    | with_reducible apply keeps_setMtx

theorem keeps_mutexUnlock (x core : Nat) (h : Keeps s u) : Keeps s (State.mutexUnlock x core u) := by
  unfold State.mutexUnlock
  try dsimp only
  repeat' first
    | with_reducible assumption | with_reducible apply keeps_setMtx | with_reducible apply keeps_serve | split

theorem keeps_eventServe (e k : Nat) (h : Keeps s u) : Keeps s (State.eventServe e k u) := by
  induction k generalizing u with
  | zero => exact h
  | succ k ih =>
    unfold State.eventServe
    dsimp only
    split
    · exact h
    · refine Keeps.ite (fun _ => h) fun _ => ih ?_
      exact Keeps.ite (fun _ => keeps_serve _ _ (keeps_setEvl _ _ h)) (fun _ => keeps_setEvl _ _ h)

theorem keeps_eventSig (e : Nat) (n : BitVec 16) (h : Keeps s u) : Keeps s (u.eventSig e n) :=
  keeps_eventServe _ _ (keeps_setEvl _ _ h)

theorem keeps_eventPend (e : Nat) (n : BitVec 16) (h : Keeps s u) : Keeps s (u.eventPend e n) :=
  keeps_eventServe _ _ (keeps_setEvl _ _ h)

theorem keeps_eventWait (e core : Nat) (h : Keeps s u) : Keeps s (State.eventWait e core u).1 := by
  unfold State.eventWait
  try dsimp only
  repeat' first
    | with_reducible assumption | with_reducible refine Keeps.iteFst (fun _ => ?_) (fun _ => ?_)
    | with_reducible apply keeps_setEvl

theorem keeps_evLoad  (l : EvLine) (r : Nat) (h : Keeps s u) : (u.evLoad l r).Keeps s := by
  have hb : ∀ b, Keeps s ((u.waitFor (.barrier b)).barArrive b u.core.idx) := fun b => keeps_barArrive _ _ (keeps_waitFor _ h)
  have hm := fun x => keeps_mutexLock x u.core.idx h
  have ht := fun x => keeps_mutexTry x u.core.idx h
  have he := fun e => keeps_eventWait e u.core.idx h
  unfold State.evLoad
  dsimp only
  split
  · exact h
  · exact h
  · exact h
  · split
    · exact h
    · split
      · exact keeps_endWait (hb _)
      · exact hb _
  · next x =>
    have := hm x
    split
    · next e => rw [e] at this; exact this
    · next e => rw [e] at this; exact this
  · exact ht _
  · exact h
  · exact h
  · exact h
  · exact h
  · next e =>
    have := he e
    split
    · next e => rw [e] at this; exact this
    · next e => rw [e] at this; exact this
  · exact h

theorem keeps_evStore  (l : EvLine) (r : Nat) (x : Word) (h : Keeps s u) : OptKeeps s (u.evStore l r x) := by
  unfold State.evStore
  dsimp only
  split
  · exact keeps_barMask _ _ h
  · exact keeps_barArrive _ _ h
  · exact keeps_mutexUnlock _ _ h
  · exact Keeps.ite (fun _ => keeps_setMtx _ _ h) (fun _ => h)
  · exact keeps_eventPend _ _ h
  · exact keeps_eventSig _ _ h
  · trivial

theorem keeps_onServed  {done : Word → State → Eff} {ask : Eff} (h : Keeps s u)
    (hd : ∀ x v, Keeps s v → (done x v).Keeps s) (ha : ask.Keeps s) : (onServed u done ask).Keeps s := by
  unfold onServed
  split
  · exact hd _ _ (keeps_endWait h)
  · exact ha

theorem keeps_evEffect  {l : EvLine} {r : Nat} {done : Word → State → Eff} (h : Keeps s u)
    (hd : ∀ x v, Keeps s v → (done x v).Keeps s) : (u.evEffect l r done).Keeps s := by
  unfold State.evEffect
  have h₀ := keeps_published h
  refine keeps_onServed h hd ?_
  extract_lets v
  change Keeps s v at h₀
  clear_value v
  refine Eff.Keeps.ite (fun _ => h₀) fun _ => ?_
  have h₁ := keeps_evLoad l r h₀
  split
  · next e => rw [e] at h₁; exact hd _ _ h₁
  · next e => rw [e] at h₁; exact keeps_waitFor _ h₁

/-! Mailbox -/

theorem keeps_enterMessage (data : Vec) (h : Keeps s u) : Keeps s (State.enterMessage data u) := by
  unfold State.enterMessage
  try dsimp only
  repeat' first
    | with_reducible assumption | with_reducible apply keeps_request
    | with_reducible fail_if_no_progress refine Keeps.upd ?_ rfl | split

theorem keeps_unspill (h : Keeps s u) : Keeps s (State.unspill u) := by
  unfold State.unspill
  try dsimp only
  repeat' first
    | with_reducible assumption | with_reducible apply keeps_enterMessage | with_reducible apply keeps_homeStore
    | with_reducible fail_if_no_progress refine Keeps.upd ?_ rfl | split

theorem keeps_refill (k : Nat) (h : Keeps s u) : Keeps s (u.refill k) := by
  induction k generalizing u with
  | zero => exact h
  | succ k ih =>
    unfold State.refill
    refine Keeps.ite (fun _ => h) fun _ => Keeps.ite (fun _ => ih (keeps_unspill h)) fun _ => ?_
    split
    · exact h
    · refine ih (keeps_enterMessage _ ?_)
      exact Keeps.upd h rfl

theorem keeps_none : OptKeeps s none := trivial
theorem keeps_some {t : State} (h : Keeps s t) : OptKeeps s (some t) := h

theorem OptKeeps.ite {s : State} {c : Prop} [Decidable c] {x y : Option State} (h : c → OptKeeps s x) (g : ¬c → OptKeeps s y) :
    OptKeeps s (if c then x else y) := by
  split
  · exact h ‹_›
  · exact g ‹_›

theorem keeps_deliver (core : Nat) (x : Vec) (h : Keeps s u) : OptKeeps s (u.deliver core x) := by
  unfold State.deliver
  generalize u.cl.addrTable.find? (·.1 == core) = r
  cases r with
  | some r => 
    dsimp only
    with_reducible refine OptKeeps.ite (fun _ => keeps_none) fun _ => keeps_some ?_
    exact keeps_homeStore _ _ _ (keeps_homeStore _ _ _ h)
  | none =>
    dsimp only
    with_reducible refine OptKeeps.ite (fun _ => keeps_some h) fun _ => ?_
    with_reducible refine OptKeeps.ite (fun _ => keeps_some ?_) fun _ => ?_
    · exact Keeps.upd h rfl
    · with_reducible refine OptKeeps.ite (fun _ => keeps_none) fun _ => keeps_some ?_
      exact keeps_refill 16 (Keeps.upd h rfl)

theorem keeps_givesMessage (copy try_ : Bool) (f : Fields) (h : Keeps s u) : (givesMessage copy try_ f u).Keeps s := by
  unfold givesMessage
  split
  · exact Eff.Keeps.ite (fun _ => keeps_setV _ _ _ _ h (keeps_endWait h)) (fun _ => keeps_waitFor _ h)
  · refine Eff.Keeps.ite (fun _ => keeps_endWait h) fun _ => keeps_setV _ _ _ _ h (keeps_refill _ ?_)
    exact Keeps.upd (keeps_endWait h) rfl

theorem keeps_takeMessage (copy try_ : Bool) (f : Fields) (h : Keeps s u) : (takeMessage copy try_ f u).Keeps s := by
  have h₁ := keeps_caughtUp h
  unfold takeMessage
  generalize u.caughtUp = v at h₁ ⊢
  exact keeps_givesMessage copy try_ f h₁

/-! Station -/

theorem keeps_station {ret : Bool} {span : Nat} {find : State → Except Trap Reached} {acc : State → Reached → Eff}
 (h : Keeps s u) (ha : ∀ v r, Keeps s v → (acc v r).Keeps s) : (station ret span find u acc).Keeps s := by
  unfold station
  refine Eff.Keeps.ite (fun _ => h) fun _ => ?_
  have h₁ : Keeps s u.drainStreams := h.trans (behind_drainStreams _).keeps
  dsimp only
  split
  · trivial
  · split
    · exact h₁
    · trivial
    · exact Eff.Keeps.ite (fun _ => h₁) fun _ => ha _ _ (h₁.trans (behind_keep ..).keeps)

theorem keeps_enqueue (a : GAccess) (h : Keeps s u) : Keeps s (State.enqueue a u) := by
  unfold State.enqueue
  try dsimp only
  repeat' first
    | with_reducible assumption | with_reducible fail_if_no_progress refine Keeps.upd ?_ rfl

theorem keeps_acceptLoad (ea : Word) (ty : Option (BitVec 5)) (lw : Nat) (dest : Dest) (r : Reached) (h : Keeps s u) :
    (acceptLoad ea ty lw dest u r).Keeps s := by
  unfold acceptLoad
  dsimp only
  with_reducible refine Eff.Keeps.ite (fun _ => keeps_shadowRead h fun v x y g => ?_) fun _ => Eff.Keeps.ite (fun _ => ?_) fun _ => ?_
  · have g₁ := fun fl => keeps_land (.flags fl) g
    split
    · trivial
    · split
      · exact keeps_putSLocked _ _ (g₁ _)
      · exact keeps_putLocked _ _ (g₁ _)
      · exact g₁ _
  · have h₁ := fun a => keeps_perform a (keeps_performAll h)
    split
    · exact h₁ _
    · split
      · trivial
      · exact keeps_arrive _ (h₁ _)
  · exact keeps_enqueue _ h

theorem keeps_acceptStore (ea : Word) (parts : List Part) (h : Keeps s u) : Keeps s (acceptStore ea parts u) := by
  unfold acceptStore
  try dsimp only
  repeat' first
    | with_reducible assumption | with_reducible refine Keeps.ite (fun _ => ?_) (fun _ => ?_)
    | with_reducible apply keeps_enqueue | with_reducible apply keeps_sign
    | with_reducible refine Keeps.foldl (fun _ _ h => ?_) _ ?_

theorem keeps_storeLanes (ea : Word) (ty : Option (BitVec 5)) (data : Nat → Nat) (r : Reached) (h : Keeps s u) :
    (storeLanes ea ty data u r).Keeps s := by
  unfold storeLanes
  try dsimp only
  repeat' first
    | with_reducible assumption | with_reducible apply keeps_raiseFlags | with_reducible apply keeps_acceptStore
    | with_reducible exact Eff.keeps_trap | with_reducible apply Eff.keeps_ok | split

/-! ScalarMem -/

theorem keeps_ldlEvent (f : Fields) (ea : Word) (h : Keeps s u) : (ldlEvent f ea u).Keeps s := by
  unfold ldlEvent
  split
  · trivial
  · with_reducible exact keeps_evEffect h fun _ _ h => Eff.keeps_ok (keeps_setS _ _ _ h)

theorem keeps_ldlPlace (f : Fields) (ea : Word) (n : Nat) (pl : LPlace) (h : Keeps s u) : (ldlPlace f ea n pl u).Keeps s := by
  unfold ldlPlace
  try dsimp only
  repeat' first
    | with_reducible assumption | with_reducible refine Eff.Keeps.ite (fun _ => ?_) (fun _ => ?_)
    | with_reducible refine keeps_reading ?_ (fun _ _ h => ?_) | with_reducible apply keeps_setS
    | with_reducible apply Eff.keeps_ok

theorem keeps_ldlEffect (f : Fields) (h : Keeps s u) : (ldlEffect f u).Keeps s := by
  unfold ldlEffect
  try dsimp only
  repeat' first
    | with_reducible assumption | with_reducible apply keeps_caughtUp | with_reducible apply keeps_setS
    | with_reducible refine keeps_onServed ?_ (fun _ _ h => ?_) ?_ | with_reducible apply keeps_ldlEvent
    | with_reducible apply keeps_ldlPlace | with_reducible exact Eff.keeps_trap | with_reducible apply Eff.keeps_ok | split

theorem keeps_stlEvent (ea x : Word) (h : Keeps s u) : (stlEvent ea x u).Keeps s := by
  unfold stlEvent
  split
  · trivial
  · next l r _ =>
    have h₁ := keeps_evStore l r x (keeps_published h)
    split
    · trivial
    · next e => rw [e] at h₁; exact h₁

theorem keeps_stlPlace (ea x : Word) (n : Nat) (pl : LPlace) (h : Keeps s u) : (stlPlace ea x n pl u).Keeps s := by
  unfold stlPlace
  try dsimp only
  repeat' first
    | with_reducible assumption | with_reducible refine Eff.Keeps.ite (fun _ => ?_) (fun _ => ?_)
    | with_reducible apply keeps_dataWrite | with_reducible apply Eff.keeps_ok | with_reducible apply Eff.keeps_hold

theorem keeps_stlEffect (f : Fields) (h : Keeps s u) : (stlEffect f u).Keeps s := by
  unfold stlEffect
  dsimp only
  cases u.localAccess (u.val f.opA + u.val f.opB) (selBytes f.sel) true with
  | error => trivial
  | ok pl =>
    dsimp only
    with_reducible exact Eff.Keeps.ite (fun _ => keeps_stlEvent _ _ h) (fun _ => keeps_stlPlace _ _ _ _ (keeps_caughtUp h))

theorem keeps_ldgEffect (f : Fields) (h : Keeps s u) : (ldgEffect f u).Keeps s := by
  unfold ldgEffect
  try dsimp only
  repeat' first
    | with_reducible assumption | with_reducible refine keeps_station ?_ (fun _ _ h => ?_)
    | with_reducible apply keeps_acceptLoad

theorem keeps_stgEffect (f : Fields) (h : Keeps s u) : (stgEffect f u).Keeps s := by
  unfold stgEffect
  try dsimp only
  repeat' first
    | with_reducible assumption | with_reducible refine keeps_station ?_ (fun _ _ h => ?_)
    | with_reducible apply keeps_storeLanes

theorem keeps_prefEffect (f : Fields) (h : Keeps s u) : (prefEffect f u).Keeps s := by
  unfold prefEffect
  try dsimp only
  repeat' first
    | with_reducible assumption | with_reducible apply keeps_keep | with_reducible apply Eff.keeps_ok | split

end Sys2Proof.Machine
end

