-- ==== Sys2Proof/Laws/KeepsUnits.lean ====
section
/-! SUPPORT. What the effects and the operations of the scalar, vector, KILN, copy, order-first and context units keep: see Keeps.lean. -/

namespace Sys2Proof.Machine

variable {s u : State}

/-! Scalar -/

theorem keeps_alu (op : AluOp) (lat : Option Nat) (f : Fields) (h : Keeps s u) : (alu op lat f u).Keeps s := by
  unfold alu
  try dsimp only
  repeat' first
    | with_reducible assumption | with_reducible refine Eff.Keeps.ite (fun _ => ?_) (fun _ => ?_)
    | with_reducible apply keeps_setS | with_reducible exact Eff.keeps_trap | with_reducible apply Eff.keeps_ok

theorem keeps_extend (signed : Bool) (f : Fields) (h : Keeps s u) : (extend signed f u).Keeps s := by
  unfold extend
  try dsimp only
  repeat' first
    | with_reducible assumption | with_reducible apply keeps_setS | with_reducible apply Eff.keeps_ok

theorem keeps_cmpEffect (f : Fields) (h : Keeps s u) : (cmpEffect f u).Keeps s := by
  unfold cmpEffect
  try dsimp only
  repeat' first
    | with_reducible assumption | with_reducible apply keeps_setPred | with_reducible apply Eff.keeps_ok

theorem keeps_plogEffect (f : Fields) (h : Keeps s u) : (plogEffect f u).Keeps s := by
  unfold plogEffect
  try dsimp only
  repeat' first
    | with_reducible assumption | with_reducible apply keeps_setPred | with_reducible apply Eff.keeps_ok

theorem keeps_fop (op : FOp) (lat : Option Nat) (f : Fields) (h : Keeps s u) : (fop op lat f u).Keeps s := by
  unfold fop
  try dsimp only
  repeat' first
    | with_reducible assumption | with_reducible apply keeps_fpScalar

theorem keeps_fminmax (isMax : Bool) (f : Fields) (h : Keeps s u) : (fminmax isMax f u).Keeps s := by
  unfold fminmax
  try dsimp only
  repeat' first
    | with_reducible assumption | with_reducible apply keeps_fpScalar

theorem keeps_fcmpEffect (f : Fields) (h : Keeps s u) : (fcmpEffect f u).Keeps s := by
  unfold fcmpEffect
  try dsimp only
  repeat' first
    | with_reducible assumption | with_reducible apply keeps_raiseFlags | with_reducible apply keeps_setPred
    | with_reducible exact Eff.keeps_trap | with_reducible apply Eff.keeps_ok | split

theorem keeps_fcvtEffect (f : Fields) (h : Keeps s u) : (fcvtEffect f u).Keeps s := by
  unfold fcvtEffect
  try dsimp only
  repeat' first
    | with_reducible assumption | with_reducible apply keeps_fpScalar

theorem keeps_fcvtiEffect (f : Fields) (h : Keeps s u) : (fcvtiEffect f u).Keeps s := by
  unfold fcvtiEffect
  try dsimp only
  repeat' first
    | with_reducible assumption | with_reducible apply keeps_fpScalar

theorem keeps_icvtfEffect (f : Fields) (h : Keeps s u) : (icvtfEffect f u).Keeps s := by
  unfold icvtfEffect
  try dsimp only
  repeat' first
    | with_reducible assumption | with_reducible apply keeps_fpScalar

/-! Vector -/

theorem keeps_withDest {s u v : State} {o : Operand} {k : Eff} (h : Keeps s u) (hk : k.Keeps s) : (withDest u o v k).Keeps s := by
  unfold withDest
  split
  · split
    · trivial
    · exact h
    · trivial
  · exact hk

theorem keeps_vint (op : AluOp) (lat : Nat) (f : Fields) (h : Keeps s u) : (vint op lat f u).Keeps s := by
  unfold vint
  try dsimp only
  repeat' first
    | with_reducible assumption | with_reducible refine keeps_withSources ?_ (fun _ _ _ h => ?_)
    | with_reducible apply keeps_setV

theorem keeps_vcmpEffect (f : Fields) (h : Keeps s u) : (vcmpEffect f u).Keeps s := by
  unfold vcmpEffect
  try dsimp only
  repeat' first
    | with_reducible assumption | with_reducible refine keeps_withSources ?_ (fun _ _ _ h => ?_)
    | with_reducible apply keeps_setMask | with_reducible apply Eff.keeps_ok

theorem keeps_vselEffect (f : Fields) (h : Keeps s u) : (vselEffect f u).Keeps s := by
  unfold vselEffect
  try dsimp only
  repeat' first
    | with_reducible assumption | with_reducible refine keeps_withSources ?_ (fun _ _ _ h => ?_)
    | with_reducible apply keeps_setV | with_reducible apply keeps_withDest

theorem keeps_vclampEffect (f : Fields) (h : Keeps s u) : (vclampEffect f u).Keeps s := by
  unfold vclampEffect
  try dsimp only
  repeat' first
    | with_reducible assumption | with_reducible refine keeps_withSources ?_ (fun _ _ _ h => ?_)
    | with_reducible apply keeps_setV | with_reducible apply keeps_withDest

theorem keeps_vfop (op : FOp) (lat : Option Nat) (f : Fields) (h : Keeps s u) : (vfop op lat f u).Keeps s := by
  unfold vfop
  try dsimp only
  repeat' first
    | with_reducible assumption | with_reducible refine Eff.Keeps.ite (fun _ => ?_) (fun _ => ?_)
    | with_reducible refine keeps_withSources ?_ (fun _ _ _ h => ?_) | with_reducible apply keeps_fpVector
    | with_reducible apply keeps_withDest

theorem keeps_vfminmax (isMax : Bool) (f : Fields) (h : Keeps s u) : (vfminmax isMax f u).Keeps s := by
  unfold vfminmax
  try dsimp only
  repeat' first
    | with_reducible assumption | with_reducible refine keeps_withSources ?_ (fun _ _ _ h => ?_)
    | with_reducible apply keeps_fpVector

theorem keeps_vfcmpEffect (f : Fields) (h : Keeps s u) : (vfcmpEffect f u).Keeps s := by
  unfold vfcmpEffect
  try dsimp only
  repeat' first
    | with_reducible assumption | with_reducible apply keeps_raiseFlags
    | with_reducible refine keeps_withSources ?_ (fun _ _ _ h => ?_) | with_reducible apply keeps_setMask
    | with_reducible exact Eff.keeps_trap | with_reducible apply Eff.keeps_ok | split

theorem keeps_vcvtEffect (f : Fields) (h : Keeps s u) : (vcvtEffect f u).Keeps s := by
  unfold vcvtEffect
  try dsimp only
  repeat' first
    | with_reducible assumption | with_reducible refine keeps_withSources ?_ (fun _ _ _ h => ?_)
    | with_reducible apply keeps_fpVector | with_reducible apply keeps_withDest

theorem keeps_vpackEffect (f : Fields) (h : Keeps s u) : (vpackEffect f u).Keeps s := by
  unfold vpackEffect
  try dsimp only
  repeat' first
    | with_reducible assumption | with_reducible refine keeps_withSources ?_ (fun _ _ _ h => ?_)
    | with_reducible apply keeps_setV

theorem keeps_vunpkEffect (f : Fields) (h : Keeps s u) : (vunpkEffect f u).Keeps s := by
  unfold vunpkEffect
  try dsimp only
  repeat' first
    | with_reducible assumption | with_reducible refine keeps_withSources ?_ (fun _ _ _ h => ?_)
    | with_reducible apply keeps_setV

theorem keeps_vshufEffect (f : Fields) (h : Keeps s u) : (vshufEffect f u).Keeps s := by
  unfold vshufEffect
  try dsimp only
  repeat' first
    | with_reducible assumption | with_reducible refine keeps_withSources ?_ (fun _ _ _ h => ?_)
    | with_reducible apply keeps_setV

theorem keeps_vbcastEffect (f : Fields) (h : Keeps s u) : (vbcastEffect f u).Keeps s := by
  unfold vbcastEffect
  try dsimp only
  repeat' first
    | with_reducible assumption | with_reducible refine keeps_withSources ?_ (fun _ _ _ h => ?_)
    | with_reducible apply keeps_setV

theorem keeps_vextrEffect (f : Fields) (h : Keeps s u) : (vextrEffect f u).Keeps s := by
  unfold vextrEffect
  try dsimp only
  repeat' first
    | with_reducible assumption | with_reducible apply keeps_setS
    | with_reducible refine keeps_withSources ?_ (fun _ _ _ h => ?_) | with_reducible apply Eff.keeps_ok

theorem keeps_vinsEffect (f : Fields) (h : Keeps s u) : (vinsEffect f u).Keeps s := by
  unfold vinsEffect
  try dsimp only
  repeat' first
    | with_reducible assumption | with_reducible apply keeps_setV

theorem keeps_vredEffect (f : Fields) (h : Keeps s u) : (vredEffect f u).Keeps s := by
  unfold vredEffect
  try dsimp only
  repeat' first
    | with_reducible assumption | with_reducible apply keeps_setS | with_reducible apply keeps_raiseFlags
    | with_reducible refine keeps_withSources ?_ (fun _ _ _ h => ?_) | with_reducible exact Eff.keeps_trap
    | with_reducible apply Eff.keeps_ok | split

theorem keeps_vscanEffect (f : Fields) (h : Keeps s u) : (vscanEffect f u).Keeps s := by
  unfold vscanEffect
  try dsimp only
  repeat' first
    | with_reducible assumption | with_reducible refine Eff.Keeps.ite (fun _ => ?_) (fun _ => ?_)
    | with_reducible refine keeps_withSources ?_ (fun _ _ _ h => ?_) | with_reducible apply keeps_setV
    | with_reducible apply keeps_fpVector

theorem keeps_vqntEffect (f : Fields) (h : Keeps s u) : (vqntEffect f u).Keeps s := by
  unfold vqntEffect
  try dsimp only
  repeat' first
    | with_reducible assumption | with_reducible refine keeps_withSources ?_ (fun _ _ _ h => ?_)
    | with_reducible apply keeps_fpVector | with_reducible apply keeps_withDest

theorem keeps_vdqntEffect (f : Fields) (h : Keeps s u) : (vdqntEffect f u).Keeps s := by
  unfold vdqntEffect
  try dsimp only
  repeat' first
    | with_reducible assumption | with_reducible refine keeps_withSources ?_ (fun _ _ _ h => ?_)
    | with_reducible apply keeps_fpVector

theorem keeps_vcbdEffect (f : Fields) (h : Keeps s u) : (vcbdEffect f u).Keeps s := by
  unfold vcbdEffect
  try dsimp only
  repeat' first
    | with_reducible assumption | with_reducible refine keeps_withSources ?_ (fun _ _ _ h => ?_)
    | with_reducible apply keeps_fpVector

theorem keeps_tables {v : State} (t : Memory) (ht : v.memoriesWf = true → t.wf = true) (c : Prop) [Decidable c] (h : Keeps s v) :
    Keeps s (if c then { v with ctx := { v.ctx with cb2 := t } } else { v with ctx := { v.ctx with mq8 := t } }) := by
  refine Keeps.ite (fun _ => Keeps.updWf h rfl rfl rfl rfl rfl fun hw => ?_) (fun _ => Keeps.updWf h rfl rfl rfl rfl rfl fun hw => ?_)
  all_goals
    have ho := ht hw
    rw [memoriesWf_iff] at hw ⊢
    obtain ⟨m₁, m₂, m₃, m₄, m₅, m₆, m₇, m₈, m₉, n₁, n₂, n₃, n₄⟩ := hw
  · exact ⟨m₁, m₂, m₃, m₄, m₅, m₆, m₇, m₈, m₉, n₁, ho, n₃, n₄⟩
  · exact ⟨m₁, m₂, m₃, m₄, m₅, m₆, m₇, m₈, m₉, n₁, n₂, ho, n₄⟩

theorem keeps_vcbdLtEffect (f : Fields) (h : Keeps s u) : (vcbdLtEffect f u).Keeps s := by
  unfold vcbdLtEffect
  extract_lets a n inStore inSpad pl v src t
  refine Eff.Keeps.ite (fun _ => trivial) fun _ => Eff.Keeps.ite (fun _ => trivial) fun _ => ?_
  split
  · trivial
  · refine Eff.Keeps.ite (fun _ => trivial) fun _ => keeps_tables t (fun hw => Memory.slice_wf ?_) _ (keeps_caughtUp h)
    show Memory.wf (if inStore then v.own else v.cl.spad) = true
    split
    · exact own_wf hw
    · exact (memoriesWf_iff.1 hw).2.2.2.2.2.2.1

theorem keeps_lsupdEffect (f : Fields) (h : Keeps s u) : (lsupdEffect f u).Keeps s := by
  unfold lsupdEffect
  try dsimp only
  repeat' first
    | with_reducible assumption | with_reducible apply keeps_setS | with_reducible apply Eff.keeps_ok
    | with_reducible fail_if_no_progress refine Keeps.upd ?_ rfl

/-! Kiln -/

theorem keeps_enterQueue (c : KilnCmd) (h : Keeps s u) : Keeps s (State.enterQueue c u) := by
  unfold State.enterQueue
  try dsimp only
  repeat' first
    | with_reducible assumption | with_reducible fail_if_no_progress refine Keeps.upd ?_ rfl

theorem keeps_kilnIssue (h' : TileHeader) (spans : List (Nat × Nat)) (mk : State → List (Nat × Nat) → KilnCmd) (h : Keeps s u) :
    (kilnIssue h' spans mk u).Keeps s := by
  unfold kilnIssue
  refine Eff.Keeps.ite (fun _ => h) fun _ => ?_
  split
  · trivial
  · split
    · exact h
    · trivial
    · exact keeps_enterQueue _ (keeps_keep _ h)

theorem keeps_kldbEffect (f : Fields) (h : Keeps s u) : (kldbEffect f u).Keeps s := by
  unfold kldbEffect
  try dsimp only
  repeat' first
    | with_reducible assumption | with_reducible apply keeps_kilnIssue

theorem keeps_kmulEffect (f : Fields) (h : Keeps s u) : (kmulEffect f u).Keeps s := by
  unfold kmulEffect
  try dsimp only
  repeat' first
    | with_reducible assumption | with_reducible apply keeps_kilnIssue

theorem keeps_kmulbEffect (f : Fields) (h : Keeps s u) : (kmulbEffect f u).Keeps s := by
  unfold kmulbEffect
  try dsimp only
  repeat' first
    | with_reducible assumption | with_reducible apply keeps_kilnIssue

theorem keeps_kzeroEffect (f : Fields) (h : Keeps s u) : (kzeroEffect f u).Keeps s := by
  unfold kzeroEffect
  try dsimp only
  repeat' first
    | with_reducible assumption | with_reducible refine Eff.Keeps.ite (fun _ => ?_) (fun _ => ?_)
    | with_reducible apply keeps_enterQueue | with_reducible apply Eff.keeps_ok | with_reducible apply Eff.keeps_hold

theorem keeps_knormEffect (f : Fields) (h : Keeps s u) : (knormEffect f u).Keeps s := by
  unfold knormEffect
  try dsimp only
  repeat' first
    | with_reducible assumption | with_reducible apply keeps_kilnIssue

theorem keeps_knormRelEffect (f : Fields) (h : Keeps s u) : (knormRelEffect f u).Keeps s := by
  unfold knormRelEffect
  try dsimp only
  repeat' first
    | with_reducible assumption | with_reducible refine Eff.Keeps.ite (fun _ => ?_) (fun _ => ?_)
    | with_reducible apply keeps_enterQueue | with_reducible apply Eff.keeps_ok | with_reducible apply Eff.keeps_hold

theorem keeps_kestEffect (f : Fields) (h : Keeps s u) : (kestEffect f u).Keeps s := by
  unfold kestEffect
  try dsimp only
  repeat' first
    | with_reducible assumption | with_reducible refine Eff.Keeps.ite (fun _ => ?_) (fun _ => ?_)
    | with_reducible apply keeps_kilnIssue | with_reducible exact Eff.keeps_trap

theorem keeps_joined  {k : Eff} (h : Keeps s u) (hk : k.Keeps s) : (joined u k).Keeps s := by
  unfold joined
  exact Eff.Keeps.ite (fun _ => hk) (fun _ => h)

theorem keeps_setAcc (m : Memory) (hm : u.memoriesWf = true → m.wf = true) (h : Keeps s u) : Keeps s (u.setAcc m) := by
  refine Keeps.updWf h rfl rfl rfl rfl rfl fun hw => ?_
  have ho := hm hw
  rw [memoriesWf_iff] at hw ⊢
  obtain ⟨m₁, m₂, m₃, m₄, m₅, m₆, m₇, m₈, m₉, n₁, n₂, n₃, n₄⟩ := hw
  exact ⟨m₁, m₂, m₃, m₄, m₅, m₆, m₇, m₈, m₉, ho, n₂, n₃, n₄⟩

theorem keeps_chunkSound  {a : Nat} {k : Eff} (hk : k.Keeps s) : (chunkSound a u k).Keeps s := by
  unfold chunkSound
  exact Eff.Keeps.ite (fun _ => trivial) (fun _ => hk)

theorem keeps_healAcc (p : Nat → Bool) (h : Keeps s u) : Keeps s (State.healAcc p u) := by
  unfold State.healAcc
  try dsimp only
  repeat' first
    | with_reducible assumption | with_reducible fail_if_no_progress refine Keeps.upd ?_ rfl

theorem keeps_kmovREffect (f : Fields) (h : Keeps s u) : (kmovREffect f u).Keeps s := by
  unfold kmovREffect
  try dsimp only
  repeat' first
    | with_reducible assumption | with_reducible apply keeps_setV | with_reducible apply keeps_joined
    | with_reducible apply keeps_chunkSound

theorem acc_wf (h : u.memoriesWf = true) : u.ctx.tiles.acc.wf = true := (memoriesWf_iff.1 h).2.2.2.2.2.2.2.2.2.1

theorem keeps_kmovWEffect (f : Fields) (h : Keeps s u) : (kmovWEffect f u).Keeps s := by
  unfold kmovWEffect
  exact keeps_joined h (keeps_healAcc _ (keeps_setAcc _ (fun hw => Memory.store_wf (acc_wf hw)) h))

theorem keeps_kmovRzEffect (f : Fields) (h : Keeps s u) : (kmovRzEffect f u).Keeps s := by
  unfold kmovRzEffect
  exact keeps_joined h (keeps_chunkSound (keeps_setV _ _ _ _ h (keeps_setAcc _ (fun hw => Memory.store_wf (acc_wf hw)) h)))

theorem keeps_kstatJcEffect (f : Fields) (h : Keeps s u) : (kstatJcEffect f u).Keeps s := by
  unfold kstatJcEffect
  try dsimp only
  repeat' first
    | with_reducible assumption | with_reducible apply keeps_setS | with_reducible apply keeps_joined
    | with_reducible apply Eff.keeps_ok | with_reducible fail_if_no_progress refine Keeps.upd ?_ rfl

theorem keeps_setCmd (k : Nat) (c : KilnCmd) (h : Keeps s u) : Keeps s (State.setCmd k c u) := by
  unfold State.setCmd
  try dsimp only
  repeat' first
    | with_reducible assumption | with_reducible fail_if_no_progress refine Keeps.upd ?_ rfl

theorem keeps_setNorm (j : Nat) (z : Option NormSlot) (h : Keeps s u) : Keeps s (State.setNorm j z u) := by
  unfold State.setNorm
  try dsimp only
  repeat' first
    | with_reducible assumption | with_reducible fail_if_no_progress refine Keeps.upd ?_ rfl

theorem keeps_beginCmd (k : Nat) (h : Keeps s u) : Keeps s (State.beginCmd k u) := by
  unfold State.beginCmd
  try dsimp only
  repeat' first
    | with_reducible assumption | with_reducible apply keeps_caughtUp | with_reducible apply keeps_published
    | with_reducible apply keeps_setCmd | with_reducible apply keeps_setNorm
    | with_reducible fail_if_no_progress refine Keeps.upd ?_ rfl | split

theorem keeps_rereadCmd (k : Nat) (h : Keeps s u) : Keeps s (State.rereadCmd k u) := by
  unfold State.rereadCmd
  try dsimp only
  repeat' first
    | with_reducible assumption | with_reducible apply keeps_setCmd | with_reducible apply keeps_setNorm | split

theorem keeps_startCmd (k : Nat) (h : Keeps s u) : Keeps s (State.startCmd k u) := by
  unfold State.startCmd
  try dsimp only
  repeat' first
    | with_reducible assumption | with_reducible refine Keeps.ite (fun _ => ?_) (fun _ => ?_)
    | with_reducible apply keeps_beginCmd | with_reducible apply keeps_rereadCmd

theorem keeps_selectEst (h : Keeps s u) : Keeps s (State.selectEst u) := by
  unfold State.selectEst
  try dsimp only
  repeat' first
    | with_reducible assumption | with_reducible apply keeps_setCmd | split

theorem keeps_judge (c : KilnCmd) (h : Keeps s u) : Keeps s (u.judge c).1 := by
  unfold State.judge
  dsimp only
  refine Keeps.iteFst (fun _ => Keeps.iteFst (fun _ => h) fun _ => ?_) (fun _ => h)
  exact keeps_setAcc _ (fun hw => Memory.copy_wf (acc_wf hw)) h

theorem keeps_endTurn  (h : Keeps s u) : Keeps s (State.endTurn u) := by
  unfold State.endTurn
  try dsimp only
  repeat' first
    | with_reducible assumption | with_reducible refine Keeps.ite (fun _ => ?_) (fun _ => ?_)
    | with_reducible fail_if_no_progress refine Keeps.upd ?_ rfl

theorem keeps_startPass (i m : Nat) (f64 : Bool) (cycles : Nat) (h : Keeps s u) : Keeps s (State.startPass i m f64 cycles u) := by
  unfold State.startPass
  try dsimp only
  repeat' first
    | with_reducible assumption | with_reducible fail_if_no_progress refine Keeps.upd ?_ rfl

theorem keeps_grantPass  (h : Keeps s u) : Keeps s (State.grantPass u) := by
  unfold State.grantPass
  try dsimp only
  repeat' first
    | with_reducible assumption | with_reducible apply keeps_setCmd | with_reducible apply keeps_endTurn
    | with_reducible apply keeps_startPass | split

theorem keeps_budgetWindow (h : Keeps s u) : Keeps s (State.budgetWindow u) := by
  unfold State.budgetWindow
  try dsimp only
  repeat' first
    | with_reducible assumption | with_reducible refine Keeps.ite (fun _ => ?_) (fun _ => ?_)
    | with_reducible fail_if_no_progress refine Keeps.upd ?_ rfl

theorem accWrite_wf {m : Memory} (k : AccumKind) (d : Nat) (xs : List Nat) (h : m.wf = true) : (accWrite m k d xs).wf = true := by
  suffices ∀ p : Memory × Nat, p.1.wf = true →
      (xs.foldl (fun (p : Memory × Nat) x => (p.1.store p.2 k.bytes x, p.2 + k.bytes)) p).1.wf = true from this (m, 1024 * d) h
  induction xs with
  | nil => exact fun _ h => h
  | cons x xs ih => exact fun p h => ih _ (Memory.store_wf h)

theorem keeps_finishPass (h : Keeps s u) : Keeps s u.finishPass := by
  unfold State.finishPass
  split
  · exact h
  · split
    · exact h
    · split
      · exact h
      · exact keeps_setCmd _ _ (keeps_judge _ (keeps_setAcc _ (fun hw => accWrite_wf _ _ _ (acc_wf hw)) h))

theorem spoil_wf {m : Memory} (k : AccumKind) (d : Nat) (h : m.wf = true) : (spoil m k d).wf = true := accWrite_wf _ _ _ h

theorem loadPanel_wf {b : Memory} (x : TileHeader) (c i q : Nat) (src table : Memory) (h : b.wf = true) :
    (loadPanel x c i q src table b).wf = true := by
  unfold loadPanel
  extract_lets
  split
  · exact foldl_wf (fun _ _ => Memory.copy_wf) _ _ (Memory.write_wf (Memory.copy_wf h))
  · have h₁ := foldl_wf (g := fun (b : Memory) (y : Nat) => b.store (q + y * tileElem x.fmt) (tileElem x.fmt)
        (if y / 16 < x.valid.toNat then src.load (if x.t = true then x.addr.toNat + y % 16 * (16 * x.stride.toNat) +
          (16 * i + y / 16) * tileElem x.fmt else x.addr.toNat + (16 * i + y / 16) * (16 * x.stride.toNat) + y % 16 * tileElem x.fmt)
          (tileElem x.fmt) else 0)) (fun _ _ => Memory.store_wf) (List.range 256) b h
    split
    · exact Memory.write_wf (foldl_wf (fun _ _ => Memory.write_wf) _ _ h₁)
    · exact h₁

/-- The memories of a cluster. -/
def Cluster.memoriesWf (c : Cluster) : Prop :=
  c.stores.all Memory.wf = true ∧ c.spad.wf = true ∧ c.bstore.wf = true ∧ c.snaps.wf = true

theorem install_wf (c : KilnCmd) {l : Cluster} (i p : Nat) (h : l.memoriesWf) : (c.install l i p).1.memoriesWf := by
  obtain ⟨h₁, h₂, h₃, h₄⟩ := h
  unfold KilnCmd.install
  extract_lets
  split
  · exact ⟨h₁, h₂, h₃, h₄⟩
  · exact ⟨h₁, h₂, loadPanel_wf _ _ _ _ _ _ h₃, Memory.store_wf h₄⟩

theorem installs_wf (c : KilnCmd) (l : List (Nat × Nat)) {x : Cluster × Word} (h : x.1.memoriesWf) :
    (l.foldl (fun (acc : Cluster × Word) y =>
      let z := c.install acc.1 y.2 y.1
      (z.1, acc.2 ||| z.2)) x).1.memoriesWf := by
  induction l generalizing x with
  | nil => exact h
  | cons y l ih => exact ih (install_wf c _ _ h)

theorem installs_wf' (c : KilnCmd) (l : List (Nat × Nat)) {x : Cluster} (h : x.memoriesWf) :
    (l.foldl (fun acc y => (c.install acc y.2 y.1).1) x).memoriesWf := by
  induction l generalizing x with
  | nil => exact h
  | cons y l ih => exact ih (install_wf c _ _ h)

theorem keeps_finishCmd (k : Nat) (h : Keeps s u) : Keeps s (u.finishCmd k) := by
  unfold State.finishCmd
  refine Keeps.ite (fun _ => h) fun _ => ?_
  split
  · exact h
  · next c _ =>
    extract_lets t r acc var status v
    have hv : Keeps u v := Keeps.ite (fun _ => Keeps.foldl (fun _ _ g => keeps_uncorrectable _ g) _ (Keeps.refl u)) (fun _ => Keeps.refl u)
    refine h.trans (Keeps.updFrom hv rfl rfl rfl rfl rfl fun hw => ?_)
    have hx := memoriesWf_iff.1 (hv.wf hw)
    have ha := acc_wf hw
    rw [memoriesWf_iff] at hw ⊢
    obtain ⟨m₁, m₂, m₃, m₄, m₅, -, -, -, -, -, n₂, n₃, n₄⟩ := hx
    have hl : r.1.memoriesWf := by
      have hc : u.cl.memoriesWf := ⟨hw.2.2.2.2.2.1, hw.2.2.2.2.2.2.1, hw.2.2.2.2.2.2.2.1, hw.2.2.2.2.2.2.2.2.1⟩
      show Cluster.memoriesWf (Prod.fst (ite _ _ _))
      split
      · exact installs_wf c _ hc
      · exact hc
    have hb : acc.wf = true := by
      show Memory.wf (match c.op with
        | .zero => c.tiles.foldl (fun m x => m.store (1024 * x) 1024 0) t.acc
        | .mul | .est => if c.ecode = 3 then spoil t.acc c.kind c.d else t.acc
        | .mulb => if c.ecode = 3 then
              (List.range (bSpec c.bspec).n).foldl (fun m i => spoil m c.kind (c.d + i * c.width)) t.acc
            else t.acc
        | _ => t.acc) = true
      repeat' first
        | exact ha
        | exact spoil_wf _ _ ha
        | exact foldl_wf (fun _ _ => Memory.store_wf) _ _ ha
        | exact foldl_wf (fun _ _ => spoil_wf _ _) _ _ ha
        | split
    exact ⟨m₁, m₂, m₃, m₄, m₅, hl.1, hl.2.1, hl.2.2.1, hl.2.2.2, hb, n₂, n₃, n₄⟩

theorem keeps_otherIssues (core : Nat) (op : KilnOp) (header bspec : Word) (d : Nat) (cb top : Bool) (table : Memory) (pages : List (Nat × Nat)) (h : Keeps s u) : Keeps s (State.otherIssues core op header bspec d cb top table pages u) := by
  unfold State.otherIssues
  try dsimp only
  repeat' first
    | with_reducible assumption | with_reducible fail_if_no_progress refine Keeps.upd ?_ rfl

theorem keeps_otherStarts (k : Nat) (h : Keeps s u) : Keeps s (State.otherStarts k u) := by
  unfold State.otherStarts
  try dsimp only
  repeat' first
    | with_reducible assumption | with_reducible fail_if_no_progress refine Keeps.upd ?_ rfl | split

theorem keeps_otherCompletes (k : Nat) (h : Keeps s u) : Keeps s (State.otherCompletes k u) := by
  unfold State.otherCompletes
  split
  · exact h
  · next c _ =>
    refine Keeps.ite (fun _ => h) fun _ => ?_
    extract_lets cl v
    have hv : Keeps u v := Keeps.ite (fun _ => Keeps.foldl (fun _ _ g => keeps_uncorrectable _ g) _ (Keeps.refl u)) (fun _ => Keeps.refl u)
    refine h.trans (Keeps.updFrom hv rfl rfl rfl rfl rfl fun hw => ?_)
    have hx := memoriesWf_iff.1 (hv.wf hw)
    rw [memoriesWf_iff] at hw ⊢
    obtain ⟨m₁, m₂, m₃, m₄, m₅, -, -, -, -, n₁, n₂, n₃, n₄⟩ := hx
    have hc : u.cl.memoriesWf := ⟨hw.2.2.2.2.2.1, hw.2.2.2.2.2.2.1, hw.2.2.2.2.2.2.2.1, hw.2.2.2.2.2.2.2.2.1⟩
    have hl : cl.memoriesWf := by
      show Cluster.memoriesWf (ite _ _ _)
      split
      · exact installs_wf' c _ hc
      · exact hc
    exact ⟨m₁, m₂, m₃, m₄, m₅, hl.1, hl.2.1, hl.2.2.1, hl.2.2.2, n₁, n₂, n₃, n₄⟩

theorem keeps_otherPass (core m : Nat) (f64 : Bool) (cycles : Nat) (h : Keeps s u) : Keeps s (State.otherPass core m f64 cycles u) := by
  unfold State.otherPass
  try dsimp only
  repeat' first
    | with_reducible assumption | with_reducible refine Keeps.ite (fun _ => ?_) (fun _ => ?_)
    | with_reducible apply keeps_startPass

theorem keeps_otherQueue (core : Nat) (kwgt : Word) (ready : Bool) (h : Keeps s u) : Keeps s (State.otherQueue core kwgt ready u) := by
  unfold State.otherQueue
  try dsimp only
  repeat' first
    | with_reducible assumption | with_reducible apply keeps_endTurn
    | with_reducible fail_if_no_progress refine Keeps.upd ?_ rfl

/-! Copy -/

theorem keeps_setCb (b : Nat) (c : CircBuf) (h : Keeps s u) : Keeps s (State.setCb b c u) := by
  unfold State.setCb
  try dsimp only
  repeat' first
    | with_reducible assumption | with_reducible fail_if_no_progress refine Keeps.upd ?_ rfl

theorem keeps_slotsTo (o last n : Nat) (x : BufHeld) (h : Keeps s u) : Keeps s (State.slotsTo o last n x u).1 := by
  induction n generalizing x u with
  | zero => exact h
  | succ n ih =>
    rw [State.slotsTo]
    refine Keeps.iteFst (fun _ => ih _ (keeps_setCb _ _ h)) fun _ => Keeps.iteFst (fun _ => h) fun _ => ?_
    split
    · exact h
    · exact ih _ (keeps_setCb _ _ h)

theorem keeps_job_handOver (j : Job) (h : Keeps s u) : Keeps s (Job.handOver j u).1 := by
  unfold Job.handOver
  try dsimp only
  repeat' first
    | with_reducible assumption | with_reducible apply keeps_setCb | with_reducible refine Keeps.foldl (fun _ _ h => ?_) _ ?_

theorem keeps_spoilGlobal (pa n : Nat) (h : Keeps s u) : Keeps s (State.spoilGlobal pa n u) := by
  unfold State.spoilGlobal
  try dsimp only
  repeat' first
    | with_reducible assumption | with_reducible fail_if_no_progress refine Keeps.upd ?_ rfl

theorem keeps_spoilLocal (owner a n : Nat) (h : Keeps s u) : Keeps s (State.spoilLocal owner a n u) := by
  unfold State.spoilLocal
  try dsimp only
  repeat' first
    | with_reducible assumption | with_reducible fail_if_no_progress refine Keeps.upd ?_ rfl

theorem keeps_job_inPlace (j : Job) (a : Int) (scale : Option Int) (o : Nat) (h : Keeps s u) : Keeps s (Job.inPlace j a scale o u).1 := by
  unfold Job.inPlace
  exact Keeps.iteFst (fun _ => keeps_slotsTo _ _ _ _ h) fun _ => h

theorem keeps_job_outPlace (j : Job) (a : Int) (o : Nat) (h : Keeps s u) : Keeps s (Job.outPlace j a o u).1 := by
  unfold Job.outPlace
  exact Keeps.iteFst (fun _ => keeps_slotsTo _ _ _ _ h) fun _ => h

theorem keeps_job_close (j : Job) (h : Keeps s u) : Keeps s (Job.close j u).1 := by
  unfold Job.close
  exact Keeps.iteFst (fun _ => h) fun _ => keeps_job_handOver _ h

theorem keeps_engineReach (who : Requester) (k : AccKind) (va : Word) (h : Keeps s u) : (u.engineReach who k va).Keeps s := by
  unfold State.engineReach
  split
  · split <;> trivial
  · split
    · trivial
    · split
      · trivial
      · exact keeps_touch _ _ (keeps_keep _ h)

theorem keeps_engineLoad (who : Requester) (va : Word) (pa n : Nat) (h : Keeps s u) : (State.engineLoad who va pa n u).Keeps s := by
  unfold State.engineLoad
  split
  · split
    · trivial
    · exact keeps_claimAt _ h
  · exact h

theorem keeps_engineRead (who : Requester) (sp core : Nat) (a : Int) (n : Nat) (h : Keeps s u) :
    (u.engineRead who sp core a n).Keeps s := by
  unfold State.engineRead
  split
  · have h₁ := keeps_engineReach who .read (BitVec.ofInt 64 a) h
    split
    · next e => rw [e] at h₁; exact keeps_engineLoad _ _ _ _ h₁
    · trivial
    · trivial
  · exact h
  · exact h

theorem keeps_readPieces (who : Requester) (sp core : Nat) (l : List Piece) (h : Keeps s u) :
    (State.readPieces who sp core l u).Keeps s := by
  induction l generalizing u with
  | nil => exact h
  | cons x l ih =>
    rw [State.readPieces]
    have h₁ := keeps_engineRead who sp core x.1 x.2 h
    split
    · trivial
    · trivial
    · next e =>
      rw [e] at h₁
      have h₂ := ih h₁
      split
      · trivial
      · trivial
      · next e => rw [e] at h₂; exact h₂

theorem keeps_engineScale (who : Requester) (sp core : Nat) (a : Option Int) (h : Keeps s u) :
    (u.engineScale who sp core a).Keeps s := by
  unfold State.engineScale
  split
  · exact h
  · next a => 
    have h₁ := keeps_engineRead who sp core a 1 h
    split
    · next e => rw [e] at h₁; exact h₁
    · trivial
    · trivial

theorem keeps_coverBurst (who : Requester) (j : Job) (d : Int) (h : Keeps s u) : Keeps s (State.coverBurst who j d u) := by
  unfold State.coverBurst
  try dsimp only
  repeat' first
    | with_reducible assumption | with_reducible apply keeps_cover | split

theorem keeps_reportAll (gs : List Nat) (j : Job) (h : Keeps s u) : Keeps s (State.reportAll gs j u).1 :=
  Keeps.foldlFst (fun _ _ h => Keeps.iteFst (fun _ => h) fun _ => keeps_uncorrectable _ h) _ h

theorem keeps_engineWrite (who : Requester) (sp core : Nat) (a : Int) (n x : Nat) (bad : Bool) (h : Keeps s u) :
    (u.engineWrite who sp core a n x bad).Keeps s := by
  unfold State.engineWrite
  split
  · have h₁ := keeps_engineReach who .write (BitVec.ofInt 64 a) h
    split
    · next e =>
      rw [e] at h₁
      have h₂ := fun pa => keeps_restartQueues (keeps_homeStore pa n x h₁)
      exact Keeps.ite (fun _ => keeps_spoilGlobal _ _ (h₂ _)) (fun _ => h₂ _)
    · trivial
    · trivial
  · exact h
  · have h₂ := keeps_storeWrite core a.toNat n x h
    exact Keeps.ite (fun _ => keeps_spoilLocal _ _ _ h₂) (fun _ => h₂)
  · have h₂ := keeps_spadWrite a.toNat n x h
    exact Keeps.ite (fun _ => keeps_spoilLocal _ _ _ h₂) (fun _ => h₂)

theorem keeps_writePieces (who : Requester) (sp core : Nat) (bad : Bool) (l : List Piece) (x : Nat) (h : Keeps s u) :
    (State.writePieces who sp core bad l x u).Keeps s := by
  induction l generalizing x u with
  | nil => exact h
  | cons y l ih =>
    rw [State.writePieces]
    have h₁ := keeps_engineWrite who sp core y.1 y.2 x bad h
    split
    · next e => rw [e] at h₁; exact ih _ h₁
    · trivial
    · trivial

theorem keeps_moveElem (j : Job) (src : Int) (scale : Option Int) (dst : Int) (i o : Nat) (h : Keeps s u) :
    (moveElem j src scale dst i o u).Keeps s := by
  unfold moveElem
  have h₁ := keeps_job_inPlace j src scale i h
  dsimp only
  split
  · next e => rw [e] at h₁; exact h₁
  · next v j' a sc e =>
    rw [e] at h₁
    have h₂ := keeps_job_outPlace j' dst o h₁
    split
    · next e => rw [e] at h₂; exact h₂
    · next v' j₂ d e =>
      rw [e] at h₂
      have h₃ := keeps_readPieces (u.engineWho (u.queueOf j)) j₂.ssp j₂.score a h₂
      split
      · exact h₂
      · exact h₂
      · next v₃ x e =>
        rw [e] at h₃
        have h₄ := keeps_engineScale (u.engineWho (u.queueOf j)) j₂.ssp j₂.score sc h₃
        split
        · exact h₃
        · exact h₃
        · next v₄ sc e =>
          rw [e] at h₄
          have h₅ := keeps_writePieces (u.engineWho (u.queueOf j)) j₂.dsp j₂.dcore (x.2 ++ sc.2.toList != []) d (j₂.convert x.1 sc.1).1
            (keeps_coverBurst (u.engineWho (u.queueOf j)) j₂ dst h₄)
          split
          · exact h₄
          · exact h₄
          · next v₅ _ e =>
            rw [e] at h₅
            have h₆ := keeps_reportAll (x.2 ++ sc.2.toList) j₂ h₅
            exact Keeps.ite (fun _ => h₆) (fun _ => keeps_setStat _ _ _ h₆)

theorem keeps_stepJob (j : Job) (h : Keeps s u) : (u.stepJob j).Keeps s := by
  unfold State.stepJob
  dsimp only
  split
  · exact keeps_moveElem _ _ _ _ _ _ h
  · exact h
  · exact h

theorem keeps_burst (k : Nat) (j : Job) (h : Keeps s u) : Keeps s (State.burst k j u).1 := by
  induction k generalizing j u with
  | zero => exact h
  | succ k ih =>
    unfold State.burst
    refine Keeps.iteFst (fun _ => keeps_job_close _ h) fun _ => ?_
    have h₁ := keeps_stepJob j h
    split
    · next e => rw [e] at h₁; exact ih _ h₁
    · next e => rw [e] at h₁; exact h₁
    · next e => rw [e] at h₁; exact keeps_job_close _ (keeps_setStat _ _ _ h₁)

theorem keeps_setJob (i : Nat) (j : Job) (h : Keeps s u) : Keeps s (State.setJob i j u) := by
  unfold State.setJob
  try dsimp only
  repeat' first
    | with_reducible assumption | with_reducible fail_if_no_progress refine Keeps.upd ?_ rfl

theorem keeps_job_take (j : Job) (w : Vector Word 8) (h : Keeps s u) : Keeps s (Job.take j w u).1 := by
  unfold Job.take
  try dsimp only
  repeat' first
    | with_reducible assumption | with_reducible refine Keeps.iteFst (fun _ => ?_) (fun _ => ?_)
    | with_reducible apply keeps_setStat | with_reducible apply keeps_job_handOver

theorem keeps_haltQueue (i bit : Nat) (va : Word) (h : Keeps s u) : Keeps s (State.haltQueue i bit va u) := by
  unfold State.haltQueue
  try dsimp only
  repeat' first
    | with_reducible assumption | with_reducible apply keeps_setStat
    | with_reducible fail_if_no_progress refine Keeps.upd ?_ rfl | split

theorem keeps_readPacket (i : Nat) (h : Keeps s u) : Keeps s (State.readPacket i u) := by
  unfold State.readPacket
  try dsimp only
  repeat' first
    | with_reducible assumption | with_reducible apply keeps_job_take | with_reducible apply keeps_haltQueue
    | with_reducible apply keeps_homeStore | with_reducible apply keeps_uncorrectable
    | with_reducible fail_if_no_progress refine Keeps.upd ?_ rfl | split

theorem keeps_startJob (i : Nat) (h : Keeps s u) : Keeps s (State.startJob i u) := by
  unfold State.startJob
  try dsimp only
  repeat' first
    | with_reducible assumption | with_reducible apply keeps_setJob | split

theorem keeps_burstJob (i : Nat) (h : Keeps s u) : Keeps s (u.burstJob i) := by
  unfold State.burstJob
  split
  · exact Keeps.ite (fun _ => keeps_setJob _ _ (keeps_burst _ _ h)) (fun _ => h)
  · exact h

theorem keeps_deliverClip (core : Nat) (data : Vec) (h : Keeps s u) : OptKeeps s (State.deliverClip core data u) := by
  unfold State.deliverClip
  with_reducible refine OptKeeps.ite (fun _ => OptKeeps.ite (fun _ => keeps_none) fun _ => keeps_some ?_) fun _ => keeps_deliver _ _ h
  exact keeps_enterMessage _ h

theorem keeps_clipMsg (i : Nat) (h : Keeps s u) : Keeps s (u.clipMsg i) := by
  unfold State.clipMsg
  split
  · next j _ =>
    refine Keeps.ite (fun _ => ?_) (fun _ => h)
    have h₁ := keeps_deliverClip j.mailTo (j.message (u.queueOf j).va) h
    split
    · next e => rw [e] at h₁; exact keeps_setJob _ _ h₁
    · exact h
  · exact h

theorem keeps_writeStamp (j : Job) (h : Keeps s u) : OptKeeps s (u.writeStamp j) := by
  unfold State.writeStamp
  dsimp only
  split
  · exact h
  · generalize hx : State.engineWrite _ _ _ _ _ _ _ u = x
    have h₁ : x.Keeps s := hx ▸ keeps_engineWrite _ _ _ _ _ _ _ h
    cases x with
    | ok => exact h₁
    | wait => trivial
    | fault =>
      exact Keeps.upd (keeps_setStat _ _ _ h) rfl

theorem keeps_stampJob (i : Nat) (h : Keeps s u) : Keeps s (u.stampJob i) := by
  unfold State.stampJob
  split
  · refine Keeps.ite (fun _ => ?_) (fun _ => h)
    dsimp only
    generalize hx : u.writeStamp _ = x
    have h₁ : OptKeeps s x := hx ▸ keeps_writeStamp _ h
    cases x with
    | none => exact h
    | some v =>
      refine Keeps.ite (fun _ => keeps_setJob _ _ h₁) fun _ => ?_
      exact Keeps.upd (keeps_homeStore _ _ _ h₁) rfl
  · exact h

theorem keeps_linkJob (i : Nat) (h : Keeps s u) : Keeps s (u.linkJob i) := by
  unfold State.linkJob
  split
  · next j _ =>
    refine Keeps.ite (fun _ => ?_) (fun _ => h)
    dsimp only
    generalize hx : u.engineReach _ _ _ = x
    have h₁ : x.Keeps s := hx ▸ keeps_engineReach _ _ _ h
    cases x with
    | wait => exact h
    | fault => exact keeps_setJob _ _ (keeps_job_handOver _ (keeps_setStat _ _ _ h))
    | ok v pa =>
      refine Keeps.ite (fun _ => keeps_setJob _ _ (keeps_job_handOver _ (keeps_setStat _ _ _ (keeps_uncorrectable _ h₁)))) fun _ => ?_
      exact keeps_setJob _ _ (keeps_job_take _ _ h₁)
  · exact h

theorem keeps_writePacket (pa x : Nat) (h : Keeps s u) : Keeps s (State.writePacket u pa x) := by
  unfold State.writePacket
  try dsimp only
  repeat' first
    | with_reducible assumption | with_reducible apply keeps_homeStore | with_reducible apply keeps_touch
    | with_reducible apply keeps_waitRefresh

theorem keeps_submitted (f : Fields) (a slot : Word) (x i : Nat) (table : List Claim) (h : Keeps s u) : Keeps s (State.submitted u f a slot x i table) := by
  unfold State.submitted
  try dsimp only
  repeat' first
    | with_reducible assumption | with_reducible apply keeps_sign | with_reducible apply keeps_setS
    | with_reducible fail_if_no_progress refine Keeps.upd ?_ rfl

theorem keeps_submitInto (kind : Nat) (f : Fields) (a : Word) (img pa i : Nat) (table : List Claim) (h : Keeps s u) : (submitInto kind f a img pa i table u).Keeps s := by
  unfold submitInto
  try dsimp only
  repeat' first
    | with_reducible assumption | with_reducible apply keeps_writePacket | with_reducible apply keeps_submitted
    | with_reducible exact Eff.keeps_trap | with_reducible apply Eff.keeps_ok | split

theorem keeps_submitAnswer {s : State} (kind : Nat) (f : Fields) (a : Word) (img pa : Nat) (table : List Claim) (r : State × Word)
 (h : Keeps s r.1) : (submitAnswer kind f a img pa table r).Keeps s := by
  unfold submitAnswer
  exact Eff.Keeps.ite (fun _ => keeps_waitFor _ h) (fun _ => keeps_submitInto _ _ _ _ _ _ _ (keeps_endWait h))

theorem keeps_submitShadow (kind : Nat) (f : Fields) (a : Word) (img pa : Nat) (x : Word) (table : List Claim) (h : Keeps s u) : (submitShadow kind f a img pa x table u).Keeps s := by
  unfold submitShadow
  try dsimp only
  repeat' first
    | with_reducible assumption | with_reducible refine Eff.Keeps.ite (fun _ => ?_) (fun _ => ?_)
    | with_reducible apply keeps_submitted | with_reducible apply Eff.keeps_ok | with_reducible apply Eff.keeps_hold

theorem keeps_submitClaim {v : State} (kind : Nat) (f : Fields) (a : Word) (img pa : Nat) (h : Keeps s u) (g : Keeps s v) :
    (submitClaim kind f a img pa u v).Keeps s := by
  unfold submitClaim
  cases v.claimRoom a with
  | none => exact keeps_waitFor _ h
  | some t =>
    dsimp only
    with_reducible refine Eff.Keeps.ite (fun _ => keeps_shadowRead g fun _ _ _ g => keeps_submitShadow _ _ _ _ _ _ _ g) fun _ => ?_
    with_reducible exact keeps_submitAnswer _ _ _ _ _ _ _ (keeps_claimAt _ (keeps_published g))

theorem keeps_submitEffect (kind : Nat) (f : Fields) (h : Keeps s u) : (submitEffect kind f u).Keeps s := by
  unfold submitEffect
  try dsimp only
  repeat' first
    | with_reducible assumption | with_reducible apply keeps_submitClaim | with_reducible apply keeps_keep
    | with_reducible exact Eff.keeps_trap | with_reducible apply Eff.keeps_hold | split

theorem keeps_clinkEffect (f : Fields) (h : Keeps s u) : (clinkEffect f u).Keeps s := by
  unfold clinkEffect
  try dsimp only
  repeat' first
    | with_reducible assumption | with_reducible apply keeps_caughtUp | with_reducible apply keeps_dataWrite
    | with_reducible exact Eff.keeps_trap | with_reducible apply Eff.keeps_ok | with_reducible apply Eff.keeps_hold | split

theorem keeps_cbinitEffect (f : Fields) (h : Keeps s u) : (cbinitEffect f u).Keeps s := by
  unfold cbinitEffect
  try dsimp only
  repeat' first
    | with_reducible assumption | with_reducible refine Eff.Keeps.ite (fun _ => ?_) (fun _ => ?_)
    | with_reducible apply keeps_setCb | with_reducible apply Eff.keeps_ok | with_reducible apply Eff.keeps_hold

theorem keeps_cbgetEffect (f : Fields) (h : Keeps s u) : (cbgetEffect f u).Keeps s := by
  unfold cbgetEffect
  try dsimp only
  repeat' first
    | with_reducible assumption | with_reducible apply keeps_published | with_reducible apply keeps_setS
    | with_reducible apply keeps_waitFor | with_reducible apply keeps_endWait | with_reducible apply keeps_setCb
    | with_reducible exact Eff.keeps_trap | with_reducible apply Eff.keeps_ok | with_reducible apply Eff.keeps_hold | split

theorem keeps_cbputEffect (f : Fields) (h : Keeps s u) : (cbputEffect f u).Keeps s := by
  unfold cbputEffect
  try dsimp only
  repeat' first
    | with_reducible assumption | with_reducible apply keeps_published | with_reducible apply keeps_setCb
    | with_reducible exact Eff.keeps_trap | with_reducible apply Eff.keeps_ok | split

/-! Sync -/

theorem keeps_acceptHome (kind : GKind) (ea b : Word) (dest : Dest) (r : Reached) (h : Keeps s u) : (acceptHome kind ea b dest u r).Keeps s := by
  unfold acceptHome
  have hs : ∀ v, Keeps s v → Keeps s (r.parts.foldl (fun s p => s.sign p.va.toNat p.n (b.toNat % 2 ^ (8 * p.n))) v) := fun v g =>
    Keeps.foldl (fun _ _ g => keeps_sign _ _ _ g) _ g
  dsimp only
  with_reducible refine Eff.Keeps.ite (fun _ => keeps_shadowRead h fun v x y g => ?_) fun _ => Eff.keeps_ok (keeps_enqueue _ (hs _ h))
  split
  · exact keeps_putSLocked _ _ (keeps_land _ (hs _ g))
  · exact hs _ g

theorem keeps_atomicEffect (op : AtomOp) (f : Fields) (h : Keeps s u) : (atomicEffect op f u).Keeps s := by
  unfold atomicEffect
  try dsimp only
  repeat' first
    | with_reducible assumption | with_reducible refine keeps_station ?_ (fun _ _ h => ?_)
    | with_reducible apply keeps_acceptHome

theorem keeps_redaEffect (f : Fields) (h : Keeps s u) : (redaEffect f u).Keeps s := by
  unfold redaEffect
  try dsimp only
  repeat' first
    | with_reducible assumption | with_reducible refine keeps_station ?_ (fun _ _ h => ?_)
    | with_reducible apply keeps_acceptHome

theorem keeps_putEffect (f : Fields) (h : Keeps s u) : (putEffect f u).Keeps s := by
  unfold putEffect
  try dsimp only
  repeat' first
    | with_reducible assumption | with_reducible refine keeps_station ?_ (fun _ _ h => ?_)
    | with_reducible apply keeps_acceptHome

theorem keeps_takeAtHome (keep : Bool) (f : Fields) (ea : Word) (r : Reached) (h : Keeps s u) : (takeAtHome keep f ea u r).Keeps s := by
  unfold takeAtHome
  split
  · exact h
  · next p _ _ =>
    refine Eff.Keeps.ite (fun _ => keeps_reading h fun _ _ g => keeps_setS _ _ _ g) fun _ => Eff.Keeps.ite (fun _ => trivial) fun _ => ?_
    have h₁ := keeps_takeAt u.performAll.cl.index p.pa keep none (keeps_performAll h)
    split
    · next e => rw [e] at h₁; exact keeps_setS _ _ _ h₁
    · next e => rw [e] at h₁; exact keeps_waitFor _ h₁
    · trivial

theorem keeps_takeEffect (keep : Bool) (f : Fields) (h : Keeps s u) : (takeEffect keep f u).Keeps s := by
  unfold takeEffect
  try dsimp only
  repeat' first
    | with_reducible assumption | with_reducible refine Eff.Keeps.ite (fun _ => ?_) (fun _ => ?_)
    | with_reducible apply keeps_setS | with_reducible refine keeps_onServed ?_ (fun _ _ h => ?_) ?_
    | with_reducible refine keeps_station ?_ (fun _ _ h => ?_) | with_reducible apply keeps_takeAtHome
    | with_reducible apply Eff.keeps_ok | with_reducible apply Eff.keeps_hold

theorem keeps_mwaitDone (f : Fields) (w : Word) (h : Keeps s u) : (mwaitDone f w u).Keeps s := by
  unfold mwaitDone
  try dsimp only
  repeat' first
    | with_reducible assumption | with_reducible refine Eff.Keeps.ite (fun _ => ?_) (fun _ => ?_)
    | with_reducible apply keeps_setS | with_reducible exact Eff.keeps_trap | with_reducible apply Eff.keeps_ok

theorem keeps_mwaitRead {v : State} (f : Fields) (k : WaitKind) (ne : Bool) (w b : Word) (h : Keeps s u) (g : Keeps s v) :
    (mwaitRead f k ne w b u v).Keeps s := by
  unfold mwaitRead
  exact Eff.Keeps.ite (fun _ => keeps_mwaitDone _ _ (keeps_endWait g)) (fun _ => keeps_waitFor _ h)

theorem keeps_mwaitGlobal (f : Fields) (ea b : Word) (ne : Bool) (r : Reached) (h : Keeps s u) : (mwaitGlobal f ea b ne u r).Keeps s := by
  unfold mwaitGlobal
  split
  · exact h
  · next p _ _ =>
    have h₁ := keeps_touch u.cl.index p.pa (keeps_performAll h)
    with_reducible refine Eff.Keeps.ite (fun _ => keeps_shadowRead h fun _ _ _ g => keeps_mwaitDone _ _ g) fun _ =>
      Eff.Keeps.ite (fun _ => Eff.keeps_hold h) fun _ => ?_
    have h₂ := keeps_streamWord p.pa h₁
    with_reducible exact Eff.Keeps.ite (fun _ => Eff.keeps_trap) fun _ => keeps_mwaitRead _ _ _ _ _ h₂ h₂

theorem keeps_mwaitEffect (f : Fields) (h : Keeps s u) : (mwaitEffect f u).Keeps s := by
  unfold mwaitEffect
  refine keeps_onServed h (fun _ _ g => keeps_mwaitDone _ _ g) (Eff.Keeps.ite (fun _ => ?_) fun _ =>
    keeps_station h fun _ _ g => keeps_mwaitGlobal _ _ _ _ _ g)
  cases u.lmemCheck (u.val f.opA) 8 false with
  | error => trivial
  | ok pl =>
    dsimp only
    with_reducible refine Eff.Keeps.ite (fun _ => Eff.keeps_trap) fun _ => ?_
    cases u.footprint pl (u.val f.opA).toNat 8 false with
    | some => trivial
    | none =>
      dsimp only
      with_reducible exact Eff.Keeps.ite (fun _ => keeps_shadowRead (keeps_caughtUp h) fun _ _ _ g => keeps_mwaitDone _ _ g) fun _ =>
        keeps_mwaitRead _ _ _ _ _ (keeps_caughtUp h) (keeps_caughtUp h)

theorem keeps_evwaitEffect (f : Fields) (h : Keeps s u) : (evwaitEffect f u).Keeps s := by
  unfold evwaitEffect
  with_reducible exact keeps_evEffect h fun _ _ h => Eff.keeps_ok (keeps_setS _ _ _ h)

theorem keeps_partitioned  {op : BitVec 10} {k : Eff} (hk : k.Keeps s) : (partitioned op u k).Keeps s := by
  unfold partitioned
  exact Eff.Keeps.ite (fun _ => hk) (fun _ => trivial)

theorem keeps_evsigREffect (f : Fields) (h : Keeps s u) : (evsigREffect f u).Keeps s := by
  unfold evsigREffect
  try dsimp only
  repeat' first
    | with_reducible assumption | with_reducible refine Eff.Keeps.ite (fun _ => ?_) (fun _ => ?_)
    | with_reducible apply keeps_published | with_reducible apply keeps_eventSig | with_reducible apply keeps_partitioned
    | with_reducible exact Eff.keeps_trap | with_reducible apply Eff.keeps_ok

theorem keeps_barEffect (f : Fields) (h : Keeps s u) : (barEffect f u).Keeps s := by
  unfold barEffect
  with_reducible exact keeps_evEffect h fun _ _ h => Eff.keeps_ok h

theorem keeps_gangArrive (core : Nat) (h : Keeps s u) : Keeps s (State.gangArrive core u) := by
  unfold State.gangArrive
  try dsimp only
  repeat' first
    | with_reducible assumption | with_reducible refine Keeps.ite (fun _ => ?_) (fun _ => ?_) | with_reducible apply keeps_serve
    | with_reducible fail_if_no_progress refine Keeps.upd ?_ rfl

theorem keeps_barGEffect  (h : Keeps s u) : (barGEffect u).Keeps s := by
  unfold barGEffect
  try dsimp only
  repeat' first
    | with_reducible assumption | with_reducible apply keeps_published | with_reducible apply keeps_waitFor
    | with_reducible apply keeps_endWait | with_reducible refine keeps_onServed ?_ (fun _ _ h => ?_) ?_
    | with_reducible apply keeps_gangArrive | with_reducible apply Eff.keeps_ok | with_reducible apply Eff.keeps_hold | split

theorem keeps_fenceEffect (h : Keeps s u) : (fenceEffect u).Keeps s := by
  unfold fenceEffect
  try dsimp only
  repeat' first
    | with_reducible assumption | with_reducible refine Eff.Keeps.ite (fun _ => ?_) (fun _ => ?_)
    | with_reducible apply keeps_drainStreams | with_reducible apply Eff.keeps_ok | with_reducible apply Eff.keeps_hold
    | with_reducible fail_if_no_progress refine Keeps.upd ?_ rfl

theorem keeps_completeFence (h : Keeps s u) : Keeps s (State.completeFence u) := by
  unfold State.completeFence
  try dsimp only
  repeat' first
    | with_reducible assumption | with_reducible refine Keeps.ite (fun _ => ?_) (fun _ => ?_)
    | with_reducible fail_if_no_progress refine Keeps.upd ?_ rfl

theorem keeps_byOther (core : Nat) {g : State → State} (hg : ∀ v, Keeps s v → Keeps s (g v)) (h : Keeps s u) :
    Keeps s (u.byOther core g) := by
  unfold State.byOther
  exact Keeps.ite (fun _ => h) (fun _ => hg _ h)

theorem keeps_returnNth (k : Nat) (h : Keeps s u) : Keeps s (State.returnNth k u) := by
  unfold State.returnNth
  try dsimp only
  repeat' first
    | with_reducible assumption | with_reducible apply keeps_enterTrap | with_reducible apply keeps_arrive
    | with_reducible fail_if_no_progress refine Keeps.upd ?_ rfl | split

theorem keeps_otherAtomic (x : AtomForm) (fmt : BitVec 5) (pa : Nat) (b d : Word) (h : Keeps s u) : Keeps s (State.otherAtomic x fmt pa b d u) := by
  unfold State.otherAtomic
  try dsimp only
  repeat' first
    | with_reducible assumption | with_reducible apply keeps_uncorrectable | with_reducible apply keeps_place
    | with_reducible apply keeps_atomicAt | with_reducible apply keeps_restartQueues | with_reducible apply keeps_waitRefresh
    | split

theorem keeps_lineHome (x : LineReturn) (h : Keeps s u) : Keeps s (State.lineHome x u) := by
  unfold State.lineHome
  try dsimp only
  repeat' first
    | with_reducible assumption | with_reducible apply keeps_lineReturn | with_reducible apply keeps_sendHome | split

theorem keeps_otherArrives (cluster pa : Nat) (rank : BitVec 16) (v : Word) (h : Keeps s u) : Keeps s (State.otherArrives cluster pa rank v u) := by
  unfold State.otherArrives
  try dsimp only
  repeat' first
    | with_reducible assumption | with_reducible refine Keeps.ite (fun _ => ?_) (fun _ => ?_)
    | with_reducible apply keeps_uncorrectable | with_reducible apply keeps_redaAt

theorem keeps_otherTakes (cluster pa : Nat) (keep : Bool) (core : Nat) (h : Keeps s u) :
    Keeps s (State.otherTakes cluster pa keep core u) := by
  unfold State.otherTakes
  refine Keeps.ite (fun _ => h) fun _ => Keeps.ite (fun _ => keeps_uncorrectable _ h) fun _ => ?_
  have h₁ := keeps_takeAt cluster pa keep (some core) h
  split
  · next e => rw [e] at h₁; exact h₁
  · next e => rw [e] at h₁; exact h₁
  · exact h

theorem keeps_otherPuts (cluster pa : Nat) (v : Word) (h : Keeps s u) : Keeps s (State.otherPuts cluster pa v u) := by
  unfold State.otherPuts
  try dsimp only
  repeat' first
    | with_reducible assumption | with_reducible refine Keeps.ite (fun _ => ?_) (fun _ => ?_)
    | with_reducible apply keeps_uncorrectable | with_reducible apply keeps_putAt

/-! OrderFirst -/

theorem keeps_setTx (t : Tx) (h : Keeps s u) : Keeps s (State.setTx t u) := by
  unfold State.setTx
  try dsimp only
  repeat' first
    | with_reducible assumption | with_reducible fail_if_no_progress refine Keeps.upd ?_ rfl

theorem keeps_gangSubmits (mine : Bool) (x : GangTx) (h : Keeps s u) : Keeps s (State.gangSubmits mine x u) := by
  unfold State.gangSubmits
  try dsimp only
  repeat' first
    | with_reducible assumption | with_reducible refine Keeps.ite (fun _ => ?_) (fun _ => ?_)
    | with_reducible fail_if_no_progress refine Keeps.upd ?_ rfl

theorem keeps_shadowSubmits (x : GangTx) (t : Tx) (f : Fields) (h : Keeps s u) : (shadowSubmits x t f u).Keeps s := by
  unfold shadowSubmits
  refine keeps_reading h fun _ _ h => Eff.keeps_ok (keeps_setS _ _ _ (keeps_setTx _ ?_))
  exact Keeps.ite (fun _ => keeps_gangSubmits _ _ h) fun _ => h

theorem keeps_tdeclEffect (write : Bool) (f : Fields) (h : Keeps s u) : (tdeclEffect write f u).Keeps s := by
  unfold tdeclEffect
  try dsimp only
  repeat' first
    | with_reducible assumption | with_reducible refine Eff.Keeps.ite (fun _ => ?_) (fun _ => ?_)
    | with_reducible apply keeps_setTx | with_reducible exact Eff.keeps_trap | with_reducible apply Eff.keeps_ok

theorem keeps_setSeq (q : Sequencer) (h : Keeps s u) : Keeps s (State.setSeq q u) := by
  unfold State.setSeq
  try dsimp only
  repeat' first
    | with_reducible assumption | with_reducible fail_if_no_progress refine Keeps.upd ?_ rfl

theorem keeps_submitKey (key : TxKey) (tiles : List (Nat × Bool)) (h : Keeps s u) : Keeps s (State.submitKey key tiles u) := by
  unfold State.submitKey
  try dsimp only
  repeat' first
    | with_reducible assumption | with_reducible refine Keeps.ite (fun _ => ?_) (fun _ => ?_) | with_reducible apply keeps_setTx
    | with_reducible apply keeps_setSeq | with_reducible apply keeps_gangSubmits

theorem keeps_endBeat (b : Nat) (h : Keeps s u) : Keeps s (State.endBeat b u) := by
  unfold State.endBeat
  try dsimp only
  repeat' first
    | with_reducible assumption | with_reducible refine Keeps.ite (fun _ => ?_) (fun _ => ?_)
    | with_reducible apply keeps_setSeq

theorem keeps_mergeOrder (b : Nat) (others : List Entry) (h : Keeps s u) : Keeps s (State.mergeOrder b others u) := by
  unfold State.mergeOrder
  try dsimp only
  repeat' first
    | with_reducible assumption | with_reducible refine Keeps.ite (fun _ => ?_) (fun _ => ?_)
    | with_reducible apply keeps_setSeq

theorem keeps_grantTile (k : Nat) (h : Keeps s u) : Keeps s (State.grantTile k u) := by
  unfold State.grantTile
  try dsimp only
  repeat' first
    | with_reducible assumption | with_reducible apply keeps_setSeq | split

theorem keeps_deliverGrant (h : Keeps s u) : Keeps s (State.deliverGrant u) := by
  unfold State.deliverGrant
  try dsimp only
  repeat' first
    | with_reducible assumption | with_reducible refine Keeps.ite (fun _ => ?_) (fun _ => ?_) | with_reducible apply keeps_setTx

theorem keeps_release (k : TxKey) (h : Keeps s u) : Keeps s (State.release k u) := by
  unfold State.release
  try dsimp only
  repeat' first
    | with_reducible assumption | with_reducible apply keeps_setSeq

theorem keeps_abandon (k : TxKey) (h : Keeps s u) : Keeps s (State.abandon k u) := by
  unfold State.abandon
  try dsimp only
  repeat' first
    | with_reducible assumption | with_reducible refine Keeps.ite (fun _ => ?_) (fun _ => ?_)
    | with_reducible apply keeps_setSeq | with_reducible apply keeps_release

theorem keeps_joinTx (f : Fields) (h : Keeps s u) : (joinTx f u).Keeps s := by
  unfold joinTx
  try dsimp only
  repeat' first
    | with_reducible assumption | with_reducible refine Eff.Keeps.ite (fun _ => ?_) (fun _ => ?_)
    | with_reducible apply keeps_setS | with_reducible apply keeps_waitFor | with_reducible apply keeps_endWait
    | with_reducible apply keeps_setTx | with_reducible apply Eff.keeps_ok | with_reducible apply Eff.keeps_hold

theorem keeps_submitted_own (d : Bool) (f : Fields) (h : Keeps s u) : (submitted d f u).Keeps s := by
  unfold submitted
  try dsimp only
  repeat' first
    | with_reducible assumption | with_reducible refine Eff.Keeps.ite (fun _ => ?_) (fun _ => ?_)
    | with_reducible apply keeps_setS | with_reducible apply keeps_endWait | with_reducible apply keeps_joinTx
    | with_reducible apply Eff.keeps_ok

theorem keeps_submitOwn (d g : Bool) (f : Fields) (h : Keeps s u) : (submitOwn d g f u).Keeps s := by
  unfold submitOwn
  try dsimp only
  repeat' first
    | with_reducible assumption | with_reducible apply keeps_keep | with_reducible apply keeps_sign
    | with_reducible apply keeps_setTx | with_reducible apply keeps_submitted_own | with_reducible apply keeps_shadowSubmits
    | with_reducible refine Keeps.foldl (fun _ _ h => ?_) _ ?_ | with_reducible exact Eff.keeps_trap | split

theorem keeps_tsubEffect (d : Bool) (f : Fields) (h : Keeps s u) : (tsubEffect d f u).Keeps s := by
  unfold tsubEffect
  dsimp only
  refine Eff.Keeps.ite (fun _ => keeps_joinTx _ h) fun _ => Eff.Keeps.ite (fun _ => trivial) fun _ => Eff.Keeps.ite (fun _ => ?_) fun _ => ?_
  · split
    · exact h
    · exact Eff.Keeps.ite (fun _ => trivial) fun _ => Eff.Keeps.ite (fun _ => keeps_shadowSubmits _ _ _ h) fun _ =>
        keeps_joinTx _ (keeps_setTx _ h)
  · have h₁ := fun g => keeps_submitOwn d g f h
    split
    · next e => exact (e ▸ h₁ _ : Eff.Keeps s (.ok _))
    · exact h₁ _

theorem keeps_clearTx (h : Keeps s u) : Keeps s (State.clearTx u) := by
  unfold State.clearTx
  try dsimp only
  repeat' first
    | with_reducible assumption | with_reducible apply keeps_setTx

theorem keeps_gangRelease (x : GangTx) (h : Keeps s u) : Keeps s (State.gangRelease x u) := by
  unfold State.gangRelease
  try dsimp only
  repeat' first
    | with_reducible assumption | with_reducible refine Keeps.ite (fun _ => ?_) (fun _ => ?_)
    | with_reducible apply keeps_abandon

theorem keeps_setGangTx (x : Option GangTx) (h : Keeps s u) : Keeps s (State.setGangTx x u) := by
  unfold State.setGangTx
  try dsimp only
  repeat' first
    | with_reducible assumption | with_reducible fail_if_no_progress refine Keeps.upd ?_ rfl

theorem keeps_gangEnd (core : Nat) (h : Keeps s u) : Keeps s (State.gangEnd core u) := by
  unfold State.gangEnd
  try dsimp only
  repeat' first
    | with_reducible assumption | with_reducible apply keeps_gangRelease | with_reducible apply keeps_setGangTx | split

theorem keeps_gangEndAll  (h : Keeps s u) : Keeps s (State.gangEndAll u) := by
  unfold State.gangEndAll
  try dsimp only
  repeat' first
    | with_reducible assumption | with_reducible apply keeps_gangRelease | with_reducible apply keeps_setGangTx | split

theorem keeps_savedReleases  (h : Keeps s u) : Keeps s (State.savedReleases u) := by
  unfold State.savedReleases
  try dsimp only
  repeat' first
    | with_reducible assumption | with_reducible apply keeps_gangRelease
    | with_reducible refine Keeps.foldl (fun _ _ h => ?_) _ ?_ | with_reducible fail_if_no_progress refine Keeps.upd ?_ rfl
    | split

theorem keeps_otherTend (core : Nat) (h : Keeps s u) : Keeps s (State.otherTend core u) := by
  unfold State.otherTend
  try dsimp only
  repeat' first
    | with_reducible assumption | with_reducible refine Keeps.ite (fun _ => ?_) (fun _ => ?_)
    | with_reducible apply keeps_gangEnd | with_reducible apply keeps_savedReleases
    | with_reducible fail_if_no_progress refine Keeps.upd ?_ rfl

theorem keeps_endTx  (h : Keeps s u) : Keeps s (State.endTx u) := by
  unfold State.endTx
  try dsimp only
  repeat' first
    | with_reducible assumption | with_reducible refine Keeps.ite (fun _ => ?_) (fun _ => ?_) | with_reducible apply keeps_setTx
    | with_reducible apply keeps_submitKey | with_reducible apply keeps_abandon | with_reducible apply keeps_gangEnd

theorem keeps_tendEffect (g : Bool) (h : Keeps s u) : (tendEffect g u).Keeps s := by
  unfold tendEffect
  try dsimp only
  repeat' first
    | with_reducible assumption | with_reducible refine Eff.Keeps.ite (fun _ => ?_) (fun _ => ?_)
    | with_reducible refine Keeps.ite (fun _ => ?_) (fun _ => ?_) | with_reducible apply keeps_drainStreams
    | with_reducible apply keeps_waitFor | with_reducible apply keeps_endWait | with_reducible apply keeps_release
    | with_reducible apply keeps_clearTx | with_reducible apply keeps_gangEnd | with_reducible exact Eff.keeps_trap
    | with_reducible apply Eff.keeps_ok | with_reducible apply Eff.keeps_hold

theorem keeps_tstatWEffect (f : Fields) (h : Keeps s u) : (tstatWEffect f u).Keeps s := by
  unfold tstatWEffect
  try dsimp only
  repeat' first
    | with_reducible assumption | with_reducible refine Eff.Keeps.ite (fun _ => ?_) (fun _ => ?_)
    | with_reducible refine Keeps.ite (fun _ => ?_) (fun _ => ?_) | with_reducible apply keeps_setS
    | with_reducible apply keeps_waitFor | with_reducible apply keeps_endWait | with_reducible apply keeps_setTx
    | with_reducible exact Eff.keeps_trap | with_reducible apply Eff.keeps_ok | with_reducible apply Eff.keeps_hold

/-! Gears -/

theorem keeps_setGear (g : Gear) (h : Keeps s u) : Keeps s (State.setGear g u) := by
  unfold State.setGear
  try dsimp only
  repeat' first
    | with_reducible assumption | with_reducible fail_if_no_progress refine Keeps.upd ?_ rfl

theorem keeps_newGear (n : Bool) (h : Keeps s u) : Keeps s (State.newGear n u) := by
  unfold State.newGear
  try dsimp only
  repeat' first
    | with_reducible assumption | with_reducible apply keeps_setGear | with_reducible apply keeps_trace
    | with_reducible fail_if_no_progress refine Keeps.upd ?_ rfl

theorem keeps_endPasses  (h : Keeps s u) : Keeps s (State.endPasses u) := by
  unfold State.endPasses
  try dsimp only
  repeat' first
    | with_reducible assumption | with_reducible apply keeps_advance | with_reducible apply keeps_finishPass
    | with_reducible refine Keeps.foldl (fun _ _ h => ?_) _ ?_

theorem keeps_endBursts  (h : Keeps s u) : Keeps s (State.endBursts u) := by
  unfold State.endBursts
  try dsimp only
  repeat' first
    | with_reducible assumption | with_reducible refine Keeps.ite (fun _ => ?_) (fun _ => ?_)
    | with_reducible apply keeps_burstJob | with_reducible refine Keeps.foldl (fun _ _ h => ?_) _ ?_

theorem keeps_handOver (n : Bool) (h : Keeps s u) : Keeps s (State.handOver n u) := by
  unfold State.handOver
  try dsimp only
  repeat' first
    | with_reducible assumption | with_reducible refine Keeps.ite (fun _ => ?_) (fun _ => ?_)
    | with_reducible apply keeps_fabric | with_reducible apply keeps_newGear | with_reducible apply keeps_endPasses
    | with_reducible apply keeps_endBursts

theorem keeps_startHandover (n : Bool) (h : Keeps s u) : Keeps s (State.startHandover n u) := by
  unfold State.startHandover
  try dsimp only
  repeat' first
    | with_reducible assumption | with_reducible refine Keeps.ite (fun _ => ?_) (fun _ => ?_)
    | with_reducible apply keeps_setGear

theorem keeps_gearEffect (n : Bool) (f : Fields) (h : Keeps s u) : (gearEffect n f u).Keeps s := by
  unfold gearEffect
  try dsimp only
  repeat' first
    | with_reducible assumption | with_reducible refine Keeps.ite (fun _ => ?_) (fun _ => ?_) | with_reducible apply keeps_setS
    | with_reducible apply keeps_handOver | with_reducible apply Eff.keeps_ok
    | with_reducible fail_if_no_progress refine Keeps.upd ?_ rfl

theorem keeps_liftGear (on : Bool) (h : Keeps s u) : Keeps s (State.liftGear on u) := by
  unfold State.liftGear
  try dsimp only
  repeat' first
    | with_reducible assumption | with_reducible refine Keeps.ite (fun _ => ?_) (fun _ => ?_)
    | with_reducible apply keeps_setGear | with_reducible apply keeps_startHandover

theorem keeps_changeRail (n : Bool) (h : Keeps s u) : Keeps s (State.changeRail n u) := by
  unfold State.changeRail
  try dsimp only
  repeat' first
    | with_reducible assumption | with_reducible refine Keeps.ite (fun _ => ?_) (fun _ => ?_)
    | with_reducible apply keeps_startHandover

theorem keeps_endHandover (h : Keeps s u) : Keeps s (State.endHandover u) := by
  unfold State.endHandover
  try dsimp only
  repeat' first
    | with_reducible assumption | with_reducible apply keeps_newGear | with_reducible apply keeps_fabric | split

theorem keeps_setMult (i m : Nat) (h : Keeps s u) : Keeps s (State.setMult i m u) := by
  unfold State.setMult
  try dsimp only
  repeat' first
    | with_reducible assumption | with_reducible refine Keeps.ite (fun _ => ?_) (fun _ => ?_)
    | with_reducible fail_if_no_progress refine Keeps.upd ?_ rfl

theorem keeps_noteDram (die layer r : Nat) (h : Keeps s u) : Keeps s (State.noteDram die layer r u) := by
  unfold State.noteDram
  try dsimp only
  repeat' first
    | with_reducible assumption | with_reducible apply keeps_setMult
    | with_reducible fail_if_no_progress refine Keeps.upd ?_ rfl

theorem keeps_noteJunction (r : Nat) (h : Keeps s u) : Keeps s (State.noteJunction r u) := by
  unfold State.noteJunction
  try dsimp only
  repeat' first
    | with_reducible assumption | with_reducible refine Keeps.ite (fun _ => ?_) (fun _ => ?_)
    | with_reducible apply keeps_request | with_reducible apply keeps_setGear | with_reducible apply keeps_sherd
    | with_reducible fail_if_no_progress refine Keeps.upd ?_ rfl

theorem keeps_note (die kind r : Nat) (h : Keeps s u) : Keeps s (State.note die kind r u) := by
  unfold State.note
  try dsimp only
  repeat' first
    | with_reducible assumption | with_reducible refine Keeps.ite (fun _ => ?_) (fun _ => ?_)
    | with_reducible apply keeps_noteDram | with_reducible apply keeps_noteJunction

theorem keeps_sensor (die kind n : Nat) (t : BitVec 8) (h : Keeps s u) : Keeps s (State.sensor die kind n t u) := by
  unfold State.sensor
  try dsimp only
  repeat' first
    | with_reducible assumption | with_reducible refine Keeps.ite (fun _ => ?_) (fun _ => ?_) | with_reducible apply keeps_note
    | with_reducible fail_if_no_progress refine Keeps.upd ?_ rfl

theorem keeps_inject (x : Word) (h : Keeps s u) : Keeps s (State.inject x u) := by
  unfold State.inject
  try dsimp only
  repeat' first
    | with_reducible assumption | with_reducible apply keeps_note | with_reducible fail_if_no_progress refine Keeps.upd ?_ rfl
    | split

theorem keeps_stepRefresh (h : Keeps s u) : Keeps s (State.stepRefresh u) := by
  unfold State.stepRefresh
  with_reducible refine Keeps.foldl (fun _ _ h => ?_) _ h
  exact Keeps.upd (keeps_setMult _ _ (keeps_noteDram _ _ _ h)) rfl

theorem keeps_interval (c t : Nat) (boost : Bool) (dly : BitVec 8) (stag : BitVec 2) (h : Keeps s u) :
    Keeps s (State.interval c t boost dly stag u) := by
  rw [State.interval]
  refine Keeps.ite (fun _ => h) fun _ => ?_
  extract_lets c t stage _ v lv _ g cone kgov _ _ w sub
  have h₁ : Keeps s v := by
    with_reducible apply keeps_stepRefresh
    exact Keeps.upd h rfl
  clear_value v
  have h₂ : Keeps s w := Keeps.upd h₁ rfl
  clear_value w
  refine Keeps.ite (fun _ => keeps_setGear _ h₂) fun _ => Keeps.upd (keeps_setGear _ h₂) rfl

theorem keeps_stretch (h : Keeps s u) : Keeps s (State.stretch u) := by
  unfold State.stretch
  try dsimp only
  repeat' first
    | with_reducible assumption | with_reducible refine Keeps.ite (fun _ => ?_) (fun _ => ?_)
    | with_reducible apply keeps_setGear

theorem keeps_endSag (h : Keeps s u) : Keeps s (State.endSag u) := by
  unfold State.endSag
  try dsimp only
  repeat' first
    | with_reducible assumption | with_reducible refine Keeps.ite (fun _ => ?_) (fun _ => ?_)
    | with_reducible apply keeps_setGear

theorem keeps_refresh (channel layer : Nat) (h : Keeps s u) : Keeps s (State.refresh channel layer u) := by
  unfold State.refresh
  try dsimp only
  repeat' first
    | with_reducible assumption | with_reducible refine Keeps.ite (fun _ => ?_) (fun _ => ?_)
    | with_reducible fail_if_no_progress refine Keeps.upd ?_ rfl

theorem keeps_endRefresh (channel layer : Nat) (h : Keeps s u) : Keeps s (State.endRefresh channel layer u) := by
  unfold State.endRefresh
  try dsimp only
  repeat' first
    | with_reducible assumption | with_reducible fail_if_no_progress refine Keeps.upd ?_ rfl

/-! Context -/

theorem keeps_putImage (a n : Nat) (m : Memory) (h : Keeps s u) : Keeps s (u.putImage a n m) := by
  refine Keeps.updWf h rfl rfl rfl rfl rfl fun hw => ?_
  rw [memoriesWf_iff] at hw ⊢
  obtain ⟨-, m₂, m₃, m₄, m₅, m₆, m₇, m₈, m₉, n₁, n₂, n₃, n₄⟩ := hw
  exact ⟨Memory.canon_wf _, m₂, m₃, m₄, m₅, m₆, m₇, m₈, m₉, n₁, n₂, n₃, n₄⟩

theorem keeps_setSaggar (state : Word) (h : Keeps s u) : Keeps s (State.setSaggar state u) := by
  unfold State.setSaggar
  try dsimp only
  repeat' first
    | with_reducible assumption | with_reducible apply keeps_homeStore

theorem keeps_spillInbound (h : Keeps s u) : Keeps s u.spillInbound := by
  unfold State.spillInbound
  refine Keeps.foldl (fun v m g => ?_) _ h
  have h₁ := keeps_deliver m.1 m.2 g
  split
  · next e =>
    rw [e] at h₁
    exact Keeps.upd h₁ rfl
  · exact g

theorem keeps_keepAside (region : Nat) (h : Keeps s u) : Keeps s (State.keepAside region u) := by
  unfold State.keepAside
  try dsimp only
  repeat' first
    | with_reducible assumption | with_reducible fail_if_no_progress refine Keeps.upd ?_ rfl

theorem keeps_saveContext (ls : Bool) (h : Keeps s u) : Keeps s (State.saveContext ls u) := by
  unfold State.saveContext
  try dsimp only
  repeat' first
    | with_reducible assumption | with_reducible refine Keeps.ite (fun _ => ?_) (fun _ => ?_)
    | with_reducible apply keeps_homeStore | with_reducible apply keeps_published | with_reducible apply keeps_spoilGlobal
    | with_reducible apply keeps_submitKey | with_reducible apply keeps_putImage | with_reducible apply keeps_setSaggar
    | with_reducible apply keeps_spillInbound | with_reducible apply keeps_keepAside
    | with_reducible refine Keeps.foldl (fun _ _ h => ?_) _ ?_

theorem keeps_mutexesTo (core : Nat) (held : Word) (h : Keeps s u) : Keeps s (State.mutexesTo core held u) := by
  unfold State.mutexesTo
  try dsimp only
  repeat' first
    | with_reducible assumption | with_reducible refine Keeps.ite (fun _ => ?_) (fun _ => ?_)
    | with_reducible apply keeps_setMtx | with_reducible refine Keeps.foldl (fun _ _ h => ?_) _ ?_

theorem keeps_passMutexes (held : Word) (h : Keeps s u) : Keeps s (State.passMutexes held u) := by
  unfold State.passMutexes
  try dsimp only
  repeat' first
    | with_reducible assumption | with_reducible apply keeps_mutexesTo

theorem keeps_loadStore (m : Memory) (r o : Nat) (h : Keeps s u) : Keeps s (u.loadStore m r o) := by
  refine Keeps.updWf h rfl rfl rfl rfl rfl fun hw => ?_
  rw [memoriesWf_iff] at hw ⊢
  obtain ⟨m₁, m₂, m₃, m₄, m₅, m₆, m₇, m₈, m₉, n₁, n₂, n₃, n₄⟩ := hw
  exact ⟨m₁, m₂, m₃, m₄, m₅, vset_wf m₆ (Memory.canon_wf _), m₇, m₈, m₉, n₁, n₂, n₃, n₄⟩

theorem imageFrom_wf (a n : Nat) (h : u.memoriesWf = true) : (u.imageFrom a n).wf = true := Memory.slice_wf (memoriesWf_iff.1 h).1

theorem keeps_loadContext (h : Keeps s u) : Keeps s u.loadContext := by
  unfold State.loadContext
  extract_lets region img claims v w bad fmode address gang w6 w7 _ _ _ _ x regs _ y _ _ z
  have h₁ : Keeps u v := by
    show Keeps u (ite _ _ _)
    split
    · exact keeps_loadStore _ _ _ (Keeps.refl u)
    · exact Keeps.refl u
  have h₂ : Keeps u w := keeps_passMutexes _ h₁
  have h₃ : Keeps u x := by
    refine Keeps.updFrom h₂ rfl rfl rfl rfl rfl fun hw => ?_
    have hi : img.wf = true := Memory.slice_wf (memoriesWf_iff.1 hw).1
    have hw := h₂.wf hw
    rw [memoriesWf_iff] at hw ⊢
    obtain ⟨m₁, m₂, m₃, m₄, m₅, m₆, m₇, m₈, m₉, -, -, -, n₄⟩ := hw
    exact ⟨m₁, m₂, m₃, m₄, m₅, m₆, m₇, m₈, m₉, Memory.slice_wf hi, Memory.slice_wf hi, Memory.slice_wf hi, n₄⟩
  have h₄ : Keeps u y := Keeps.upd h₃ rfl
  have h₅ : Keeps u z := Keeps.upd h₄ rfl
  exact h.trans (keeps_refill 96 h₅)

theorem keeps_saveCluster (a : Nat) (h : Keeps s u) : Keeps s (u.saveCluster a) := by
  unfold State.saveCluster
  have h₁ : Keeps s (u.cl.badCells.foldl (fun s x => s.spoilGlobal (a + 128 * x) 128) (u.putImage a clusterSize u.clusterImage)) :=
    Keeps.foldl (fun _ _ g => keeps_spoilGlobal _ _ g) _ (keeps_putImage _ _ _ h)
  dsimp only
  rw [show (u.putImage a clusterSize u.clusterImage).cl.badCells = u.cl.badCells from rfl]
  generalize List.foldl _ _ _ = v at h₁ ⊢
  refine Keeps.updWf h₁ rfl rfl rfl rfl rfl fun hw => ?_
  rw [memoriesWf_iff] at hw ⊢
  obtain ⟨m₁, m₂, m₃, -, m₅, m₆, m₇, m₈, m₉, n₁, n₂, n₃, n₄⟩ := hw
  exact ⟨m₁, m₂, m₃, Memory.canon_wf _, m₅, m₆, m₇, m₈, m₉, n₁, n₂, n₃, n₄⟩

theorem keeps_loadCluster (a : Nat) (h : Keeps s u) : Keeps s (u.loadCluster a) := by
  unfold State.loadCluster
  refine Keeps.updWf h rfl rfl rfl rfl rfl fun hw => ?_
  have hi := imageFrom_wf a clusterSize hw
  rw [memoriesWf_iff] at hw ⊢
  obtain ⟨m₁, m₂, m₃, m₄, m₅, m₆, m₇, -, -, n₁, n₂, n₃, n₄⟩ := hw
  exact ⟨m₁, m₂, m₃, m₄, m₅, m₆, m₇, Memory.canon_wf _, Memory.slice_wf hi, n₁, n₂, n₃, n₄⟩

theorem keeps_ctxsvEffect (f : Fields) (h : Keeps s u) : (ctxsvEffect f u).Keeps s := by
  unfold ctxsvEffect
  try dsimp only
  repeat' first
    | with_reducible assumption | with_reducible apply keeps_saveContext | with_reducible exact Eff.keeps_trap
    | with_reducible apply Eff.keeps_ok | with_reducible apply Eff.keeps_hold | split

theorem keeps_ctxldEffect  (h : Keeps s u) : (ctxldEffect u).Keeps s := by
  unfold ctxldEffect
  try dsimp only
  repeat' first
    | with_reducible assumption | with_reducible refine Eff.Keeps.ite (fun _ => ?_) (fun _ => ?_)
    | with_reducible apply keeps_published | with_reducible apply keeps_loadContext | with_reducible exact Eff.keeps_trap
    | with_reducible apply Eff.keeps_ok | with_reducible apply Eff.keeps_hold | split

theorem keeps_clusterForm  {f : Fields} {go : Nat → Eff} (h : Keeps s u) (hg : ∀ a, (go a).Keeps s) :
    (clusterForm f u go).Keeps s := by
  unfold clusterForm
  refine Eff.Keeps.ite (fun _ => trivial) fun _ => Eff.Keeps.ite (fun _ => h) fun _ => ?_
  split
  · exact h
  · trivial
  · exact hg _

theorem keeps_ctxldClEffect (f : Fields) (h : Keeps s u) : (ctxldClEffect f u).Keeps s := by
  unfold ctxldClEffect
  try dsimp only
  repeat' first
    | with_reducible assumption | with_reducible refine Eff.Keeps.ite (fun _ => ?_) (fun _ => ?_)
    | with_reducible apply keeps_published | with_reducible apply keeps_loadCluster
    | with_reducible refine keeps_clusterForm ?_ (fun _ => ?_) | with_reducible exact Eff.keeps_trap
    | with_reducible apply Eff.keeps_ok

/-! Control -/

theorem keeps_jumpTo (t : Word) (h : Keeps s u) : (jumpTo t u).Keeps s := by
  unfold jumpTo
  try dsimp only
  repeat' first
    | with_reducible assumption | with_reducible refine Eff.Keeps.ite (fun _ => ?_) (fun _ => ?_)
    | with_reducible exact Eff.keeps_trap | with_reducible apply Eff.keeps_jump

theorem keeps_callEffect (f : Fields) (h : Keeps s u) : (callEffect f u).Keeps s := by
  unfold callEffect
  try dsimp only
  repeat' first
    | with_reducible assumption | with_reducible apply keeps_put | with_reducible exact Eff.keeps_trap
    | with_reducible apply Eff.keeps_jump | split

theorem keeps_loopEffect (f : Fields) (h : Keeps s u) : (loopEffect f u).Keeps s := by
  unfold loopEffect
  try dsimp only
  repeat' first
    | with_reducible assumption | with_reducible refine Eff.Keeps.ite (fun _ => ?_) (fun _ => ?_)
    | with_reducible apply keeps_setS | with_reducible apply Eff.keeps_ok | with_reducible apply Eff.keeps_jump

theorem keeps_repeats (n : Nat) (count : BitVec 32) (ws : List IWord) (h : Keeps s u) : (repeats n count ws u).Keeps s := by
  unfold repeats
  try dsimp only
  repeat' first
    | with_reducible assumption | with_reducible refine Eff.Keeps.ite (fun _ => ?_) (fun _ => ?_)
    | with_reducible apply Eff.keeps_jump | with_reducible apply Eff.keeps_enter
    | with_reducible fail_if_no_progress refine Keeps.upd ?_ rfl

theorem keeps_repEffect (f : Fields) (h : Keeps s u) : (repEffect f u).Keeps s := by
  unfold repEffect
  try dsimp only
  repeat' first
    | with_reducible assumption | with_reducible apply keeps_repeats | with_reducible exact Eff.keeps_trap | split

end Sys2Proof.Machine
end

