-- ==== Sys2Proof/Laws/KeepsEvents.lean ====
section
/-! SUPPORT. What the effects and the operations of control, tasks, the exchange, the events and the other agents keep: see Keeps.lean. -/

namespace Sys2Proof.Machine

variable {s u : State}

/-! System -/

theorem keeps_mfsEffect (f : Fields) (h : Keeps s u) : (mfsEffect f u).Keeps s := by
  unfold mfsEffect
  try dsimp only
  repeat' first
    | with_reducible assumption | with_reducible refine Eff.Keeps.ite (fun _ => ?_) (fun _ => ?_)
    | with_reducible refine Keeps.ite (fun _ => ?_) (fun _ => ?_) | with_reducible apply keeps_caughtUp
    | with_reducible apply keeps_setS | with_reducible apply Eff.keeps_ok | with_reducible apply Eff.keeps_hold

theorem keeps_haltRequest (on : Bool) (h : Keeps s u) : Keeps s (State.haltRequest on u) := by
  unfold State.haltRequest
  try dsimp only
  repeat' first
    | with_reducible assumption | with_reducible refine Keeps.ite (fun _ => ?_) (fun _ => ?_)
    | with_reducible apply keeps_request | with_reducible fail_if_no_progress refine Keeps.upd ?_ rfl

theorem keeps_setSys (g : Sys → Sys) (h : Keeps s u) : Keeps s (State.setSys g u) := by
  unfold State.setSys
  try dsimp only
  repeat' first
    | with_reducible assumption | with_reducible fail_if_no_progress refine Keeps.upd ?_ rfl

theorem keeps_setTrap (g : TrapRegs → TrapRegs) (h : Keeps s u) : Keeps s (State.setTrap g u) := by
  unfold State.setTrap
  try dsimp only
  repeat' first
    | with_reducible assumption | with_reducible fail_if_no_progress refine Keeps.upd ?_ rfl

theorem keeps_setCycle (x : Word) (h : Keeps s u) : Keeps s (State.setCycle x u) := by
  unfold State.setCycle
  try dsimp only
  repeat' first
    | with_reducible assumption | with_reducible fail_if_no_progress refine Keeps.upd ?_ rfl

theorem keeps_sysWrite (n : Nat) (x : Word) (h : Keeps s u) : Keeps s (State.sysWrite n x u) := by
  unfold State.sysWrite
  try dsimp only
  repeat' first
    | with_reducible assumption | with_reducible apply keeps_inject | with_reducible apply keeps_haltRequest
    | with_reducible apply keeps_setSys | with_reducible apply keeps_setTrap | with_reducible apply keeps_setCycle
    | with_reducible fail_if_no_progress refine Keeps.upd ?_ rfl | split

theorem keeps_mtsEffect (f : Fields) (h : Keeps s u) : (mtsEffect f u).Keeps s := by
  unfold mtsEffect
  try dsimp only
  repeat' first
    | with_reducible assumption | with_reducible refine Eff.Keeps.ite (fun _ => ?_) (fun _ => ?_)
    | with_reducible apply keeps_sysWrite | with_reducible exact Eff.keeps_trap | with_reducible apply Eff.keeps_ok

theorem keeps_trapEffect (f : Fields) (h : Keeps s u) : (trapEffect f u).Keeps s := by
  unfold trapEffect
  try dsimp only
  repeat' first
    | with_reducible assumption | with_reducible refine Eff.Keeps.ite (fun _ => ?_) (fun _ => ?_)
    | with_reducible apply keeps_crash | with_reducible apply keeps_refetch | with_reducible apply Eff.keeps_trapIn
    | with_reducible apply Eff.keeps_stay

theorem keeps_invalidate (p : Kept → Bool) (h : Keeps s u) : Keeps s (State.invalidate p u) := by
  unfold State.invalidate
  try dsimp only
  repeat' first
    | with_reducible assumption | with_reducible apply keeps_published
    | with_reducible fail_if_no_progress refine Keeps.upd ?_ rfl

theorem keeps_invalidates (p : Kept → Bool) (h : Keeps s u) : (invalidates p u).Keeps s := by
  unfold invalidates
  try dsimp only
  repeat' first
    | with_reducible assumption | with_reducible refine Eff.Keeps.ite (fun _ => ?_) (fun _ => ?_)
    | with_reducible apply keeps_invalidate | with_reducible apply Eff.keeps_ok | with_reducible apply Eff.keeps_hold

/-! Tasks -/

theorem keeps_setPart (p : Partition) (h : Keeps s u) : Keeps s (State.setPart p u) := by
  unfold State.setPart
  try dsimp only
  repeat' first
    | with_reducible assumption | with_reducible fail_if_no_progress refine Keeps.upd ?_ rfl

theorem keeps_newHead (h : Keeps s u) : Keeps s (State.newHead u) := by
  unfold State.newHead
  try dsimp only
  repeat' first
    | with_reducible assumption | with_reducible apply keeps_setPart

theorem keeps_enqueueRecord (r : Record) (h : Keeps s u) : OptKeeps s (u.enqueueRecord r) := by
  unfold State.enqueueRecord
  dsimp only
  generalize insertRecord r _ = all
  have h₁ : Keeps s { u with cl := { u.cl with launchQ := all } } := Keeps.upd h rfl
  refine OptKeeps.ite (fun _ => ?_) fun _ => OptKeeps.ite (fun _ => ?_) fun _ => trivial
  · exact Keeps.ite (fun _ => keeps_newHead h₁) (fun _ => h₁)
  · exact Keeps.upd h rfl

theorem keeps_returnOverflow (h : Keeps s u) : Keeps s (State.returnOverflow u) := by
  unfold State.returnOverflow
  try dsimp only
  repeat' first
    | with_reducible assumption | with_reducible apply keeps_newHead
    | with_reducible fail_if_no_progress refine Keeps.upd ?_ rfl | split

theorem keeps_mapLaunch (n : Nat) (g : Launch → Launch) (h : Keeps s u) : Keeps s (State.mapLaunch n g u) := by
  unfold State.mapLaunch
  try dsimp only
  repeat' first
    | with_reducible assumption | with_reducible fail_if_no_progress refine Keeps.upd ?_ rfl

theorem keeps_loadImage (img : Memory) (n : Nat) (h : Keeps s u) : Keeps s (u.loadImage img n) := by
  unfold State.loadImage
  refine Keeps.updWf h rfl rfl rfl rfl rfl fun hw => ?_
  rw [memoriesWf_iff] at hw ⊢
  obtain ⟨m₁, m₂, m₃, m₄, m₅, -, m₇, m₈, m₉, n₁, n₂, n₃, n₄⟩ := hw
  refine ⟨m₁, m₂, m₃, m₄, m₅, ?_, m₇, m₈, m₉, n₁, n₂, n₃, n₄⟩
  rw [Vector.all_eq_true]
  intro i hi
  rw [Vector.getElem_map]
  exact Memory.canon_wf _

theorem fetchChecked_wf {who : Requester} {va : Word} {n : Nat} {m : Memory} (h : u.fetchChecked who va n = .ok m) :
    m.wf = true := by
  unfold State.fetchChecked at h
  repeat' split at h
  all_goals first
    | cases h; done
    | (obtain rfl := (Except.ok.inj h); exact Memory.canon_wf _)

theorem fetchVirtual_wf {who : Requester} {va : Word} {n : Nat} {m : Memory} (h : u.fetchVirtual who va n = some m) :
    m.wf = true := by
  unfold State.fetchVirtual at h
  split at h
  · next e => exact Option.some.inj h ▸ fetchChecked_wf e
  · cases h

theorem keeps_launch (who : Requester) (desc : Word) (pnum : BitVec 16) (clusters : List Nat) (number : BitVec 16) (h : Keeps s u) :
    Keeps s (u.launch who desc pnum clusters number) := by
  rw [State.launch]
  generalize u.fetchChecked who desc 256 = x
  cases x with
  | error => exact keeps_reportTrap _ h
  | ok m =>
    dsimp only
    generalize (vget (Vector.ofFn fun i : Fin 32 => m.word (8 * i.val)) (0x58 / 8) 0) = a
    generalize u.fetchChecked who (vget (Vector.ofFn fun i : Fin 32 => m.word (8 * i.val)) (0x50 / 8) 0) a.toNat = img
    generalize u.fetchChecked who (vget (Vector.ofFn fun i : Fin 32 => m.word (8 * i.val)) (0x60 / 8) 0) _ = recs
    cases img with
    | error => exact keeps_reportTrap _ h
    | ok img =>
      cases recs with
      | error => exact keeps_reportTrap _ h
      | ok recs =>
        refine Keeps.ite (fun _ => h) fun _ => Keeps.ite (fun _ => ?_) fun _ => Keeps.upd h rfl
        refine Keeps.foldl (fun v r g => ?_) _ (keeps_loadImage _ _ (keeps_setPart _ (Keeps.upd h rfl)))
        have h₁ := keeps_enqueueRecord r g
        cases hr : v.enqueueRecord r with
        | none => exact g
        | some => rw [hr] at h₁; exact h₁

theorem keeps_closeLaunch (l : Launch) (h : Keeps s u) : Keeps s (State.closeLaunch l u) := by
  unfold State.closeLaunch
  try dsimp only
  repeat' first
    | with_reducible assumption | with_reducible refine Keeps.ite (fun _ => ?_) (fun _ => ?_)
    | with_reducible apply keeps_lineReturn | with_reducible apply keeps_mapLaunch
    | with_reducible refine Keeps.foldl (fun _ _ h => ?_) _ ?_ | with_reducible fail_if_no_progress refine Keeps.upd ?_ rfl

theorem keeps_completeLaunch  (h : Keeps s u) : Keeps s (State.completeLaunch u) := by
  unfold State.completeLaunch
  try dsimp only
  repeat' first
    | with_reducible assumption | with_reducible apply keeps_homeStore | with_reducible apply keeps_touch
    | with_reducible apply keeps_reportTrap | with_reducible apply keeps_waitRefresh | with_reducible apply keeps_closeLaunch
    | split

theorem keeps_recordTrace (pidx : Nat) (cores : BitVec 8) (kind : Nat) (r : Record) (h : Keeps s u) :
    Keeps s (State.recordTrace pidx cores kind r u) := by
  unfold State.recordTrace
  try dsimp only
  repeat' first
    | with_reducible assumption | with_reducible apply keeps_homeStore | split

theorem keeps_tracePass (h : Keeps s u) : Keeps s (State.tracePass u) := by
  unfold State.tracePass
  try dsimp only
  repeat' first
    | with_reducible assumption | with_reducible apply keeps_setPart | split

theorem keeps_diverge (h : Keeps s u) : Keeps s (State.diverge u) := by
  unfold State.diverge
  try dsimp only
  repeat' first
    | with_reducible assumption | with_reducible apply keeps_request | with_reducible apply keeps_mapLaunch
    | with_reducible fail_if_no_progress refine Keeps.upd ?_ rfl | split

/-- The memories of a context. -/
def Ctx.memoriesWf (c : Ctx) : Prop := c.tiles.acc.wf = true ∧ c.cb2.wf = true ∧ c.mq8.wf = true

/-- A core that takes a context, and may take other kernel mode. -/
theorem Keeps.withCtx {x : Ctx} {c : Core} {v : State} (h : Keeps s v) (h₁ : c.control = v.core.control) (h₂ : c.idx = v.core.idx)
    (h₃ : c.die = v.core.die) (h₄ : c.pcore = v.core.pcore) (hk : c.control = true → c.k = true)
    (hi : v.memoriesWf = true → c.ifetch.wf = true) (hx : v.memoriesWf = true → x.memoriesWf) :
    Keeps s { v with ctx := x, core := c } := by
  refine h.trans ⟨h₁, h₂, h₃, h₄, fun _ => ?_, fun hw => ?_⟩
  · unfold State.modeOk
    dsimp only
    cases hc : c.control
    · rfl
    · rw [hk hc]; rfl
  · have hi := hi hw
    have hx := hx hw
    rw [memoriesWf_iff] at hw ⊢
    obtain ⟨m₁, m₂, m₃, m₄, m₅, m₆, m₇, m₈, m₉, -⟩ := hw
    exact ⟨m₁, m₂, m₃, m₄, m₅, m₆, m₇, m₈, m₉, hx.1, hx.2.1, hx.2.2, hi⟩

theorem keeps_seat (c : Ctx) (red : Option Redundant) (hc : c.memoriesWf) (h : Keeps s u) : Keeps s (u.seat c red) := by
  unfold State.seat
  have h₁ := keeps_passMutexes 0 h
  dsimp only
  generalize u.passMutexes 0 = v at h₁ ⊢
  exact Keeps.withCtx h₁ rfl rfl rfl rfl id own_wf fun _ => hc

theorem launchTable_wf (who : Requester) (va : Word) : (u.launchTable who va).wf = true := by
  unfold State.launchTable
  split
  · rfl
  · cases h : u.fetchVirtual who va 1024 with
    | none => rfl
    | some m => exact fetchVirtual_wf h

theorem entryContext_wf (l : Launch) (r : Record) (id : Word) (i : Nat) : (u.entryContext l r id i).memoriesWf :=
  ⟨rfl, launchTable_wf .., launchTable_wf ..⟩

theorem keeps_dispatchOn (k : Nat) (r : Record) (cores : List Nat) (l : Launch) (h : Keeps s u) :
    Keeps s (u.dispatchOn k r cores l) := by
  unfold State.dispatchOn
  extract_lets gang prim shadow id others req v₀ v _ _ w _ w' x x'
  have hv : Keeps s v := keeps_tracePass (keeps_recordTrace _ _ _ _ h)
  clear_value v
  have hw : Keeps s w := by
    with_reducible apply keeps_newHead
    exact Keeps.upd hv rfl
  clear_value w
  have hs : ∀ i y (red : Option Redundant) {w' : State}, Keeps s w' → Keeps s (w'.seat (w'.entryContext l r y i) red) :=
    fun _ _ _ _ h => keeps_seat _ _ (entryContext_wf ..) h
  have hx : Keeps s x' := by
    unfold x'
    split
    · exact hs _ _ _ (Keeps.upd hw rfl)
    · exact hs _ _ _ (Keeps.upd hw rfl)
    · exact hw
  exact Keeps.ite (fun _ => keeps_startHandover _ hx) fun _ => hx

theorem keeps_dispatch (h : Keeps s u) : Keeps s (State.dispatch u) := by
  unfold State.dispatch
  try dsimp only
  repeat' first
    | with_reducible assumption | with_reducible apply keeps_diverge | with_reducible apply keeps_dispatchOn | split

theorem keeps_sendAway (l : Nat) (h : Keeps s u) : Keeps s (State.sendAway l u) := by
  unfold State.sendAway
  try dsimp only
  repeat' first
    | with_reducible assumption | with_reducible apply keeps_mapLaunch

theorem keeps_reserve (pidx : Nat) (h : Keeps s u) : Keeps s (State.reserve pidx u) := by
  unfold State.reserve
  try dsimp only
  repeat' first
    | with_reducible assumption | with_reducible apply keeps_newHead | with_reducible apply keeps_recordTrace
    | with_reducible apply keeps_tracePass | with_reducible apply keeps_sendAway
    | with_reducible fail_if_no_progress refine Keeps.upd ?_ rfl | split

theorem keeps_takeReserved (r : Record) (h : Keeps s u) : Keeps s (State.takeReserved r u) := by
  unfold State.takeReserved
  try dsimp only
  repeat' first
    | with_reducible assumption | with_reducible refine Keeps.ite (fun _ => ?_) (fun _ => ?_)
    | with_reducible apply keeps_setPart | with_reducible apply keeps_newHead | with_reducible apply keeps_mapLaunch
    | with_reducible apply keeps_tracePass | with_reducible fail_if_no_progress refine Keeps.upd ?_ rfl

theorem keeps_mapTask (id : Word) (g : Task → Task) (h : Keeps s u) : Keeps s (State.mapTask id g u) := by
  unfold State.mapTask
  try dsimp only
  repeat' first
    | with_reducible assumption | with_reducible fail_if_no_progress refine Keeps.upd ?_ rfl

theorem keeps_endTasks (h : Keeps s u) : Keeps s (State.endTasks u) := by
  unfold State.endTasks
  try dsimp only
  repeat' first
    | with_reducible assumption | with_reducible apply keeps_mapLaunch
    | with_reducible refine Keeps.foldl (fun _ _ h => ?_) _ ?_ | with_reducible fail_if_no_progress refine Keeps.upd ?_ rfl

theorem keeps_markEnded (id : Word) (core code : Nat) (h : Keeps s u) : Keeps s (State.markEnded id core code u) := by
  unfold State.markEnded
  try dsimp only
  repeat' first
    | with_reducible assumption | with_reducible apply keeps_mapTask

theorem keeps_vacate (h : Keeps s u) : Keeps s u.vacate := by
  unfold State.vacate
  refine h.trans ⟨rfl, rfl, rfl, rfl, fun _ => ?_, id⟩
  unfold State.modeOk
  dsimp only
  cases u.core.control <;> rfl

theorem keeps_memberEnds (code : Nat) (h : Keeps s u) : Keeps s (u.memberEnds code) := by
  unfold State.memberEnds
  exact keeps_endTasks (keeps_markEnded _ _ _ (keeps_vacate (keeps_leaveChain (keeps_endTx h))))

theorem keeps_someoneEnds (id : Word) (a code : Nat) (h : Keeps s u) : Keeps s (State.someoneEnds id a code u) := by
  unfold State.someoneEnds
  try dsimp only
  repeat' first
    | with_reducible assumption | with_reducible refine Keeps.ite (fun _ => ?_) (fun _ => ?_)
    | with_reducible apply keeps_endTasks | with_reducible apply keeps_markEnded | with_reducible apply keeps_memberEnds
    | with_reducible fail_if_no_progress refine Keeps.upd ?_ rfl

theorem keeps_differ (t : Task) (h : Keeps s u) : Keeps s (State.differ t u) := by
  unfold State.differ
  try dsimp only
  repeat' first
    | with_reducible assumption | with_reducible apply keeps_sherd | with_reducible apply keeps_mapLaunch
    | with_reducible apply keeps_mapTask | with_reducible fail_if_no_progress refine Keeps.upd ?_ rfl

theorem keeps_compareTwin (id : Word) (a code : Nat) (sig : Word) (h : Keeps s u) : Keeps s (State.compareTwin id a code sig u) := by
  unfold State.compareTwin
  try dsimp only
  repeat' first
    | with_reducible assumption | with_reducible apply keeps_mapTask | with_reducible apply keeps_someoneEnds
    | with_reducible apply keeps_differ | split

theorem keeps_otherEnds (core code : Nat) (sig : Word) (h : Keeps s u) : Keeps s (State.otherEnds core code sig u) := by
  unfold State.otherEnds
  try dsimp only
  repeat' first
    | with_reducible assumption | with_reducible apply keeps_someoneEnds | with_reducible apply keeps_compareTwin | split

theorem keeps_texitEffect (f : Fields) (h : Keeps s u) : (texitEffect f u).Keeps s := by
  unfold texitEffect
  have h₁ := keeps_drain (keeps_drainStreams (keeps_landAll h))
  dsimp only
  generalize State.drain _ = r at h₁ ⊢
  obtain ⟨v, x⟩ := r
  cases x with
  | some => trivial
  | none =>
    refine Eff.Keeps.ite (fun _ => h₁) fun _ => ?_
    have h₂ : Keeps s (v.retire f u.ctx.pc .seq) := keeps_retire _ _ _ h₁
    dsimp only at h₂ ⊢
    generalize State.retire _ _ _ _ = w at h₂ ⊢
    cases w.core.red with
    | none => exact keeps_memberEnds _ h₂
    | some x => exact keeps_compareTwin _ _ _ _ (Keeps.upd h₂ rfl)

theorem keeps_gangsGone (t : Task) (h : Keeps s u) : Keeps s (State.gangsGone t u) := by
  unfold State.gangsGone
  extract_lets gone v mark
  have hv : Keeps s v := Keeps.foldl (fun _ _ h => keeps_gangEnd _ h) _ h
  clear_value v
  exact keeps_savedReleases (Keeps.upd hv rfl)

theorem keeps_stopTask (t : Task) (bit : BitVec 8) (h : Keeps s u) : Keeps s (State.stopTask t bit u) := by
  unfold State.stopTask
  try dsimp only
  repeat' first
    | with_reducible assumption | with_reducible apply keeps_mapLaunch | with_reducible apply keeps_mapTask
    | with_reducible apply keeps_endTasks | with_reducible apply keeps_gangsGone
    | with_reducible fail_if_no_progress refine Keeps.upd ?_ rfl

theorem keeps_taskStopped (bit : BitVec 8) (h : Keeps s u) : Keeps s (State.taskStopped bit u) := by
  unfold State.taskStopped
  try dsimp only
  repeat' first
    | with_reducible assumption | with_reducible apply keeps_mapTask | with_reducible apply keeps_stopTask | split

theorem keeps_otherStops (core : Nat) (watchdog : Bool) (h : Keeps s u) : Keeps s (State.otherStops core watchdog u) := by
  unfold State.otherStops
  try dsimp only
  repeat' first
    | with_reducible assumption | with_reducible apply keeps_request | with_reducible apply keeps_stopTask | split

theorem keeps_stopEffect (f : Fields) (h : Keeps s u) : (stopEffect f u).Keeps s := by
  unfold stopEffect
  try dsimp only
  repeat' first
    | with_reducible assumption | with_reducible apply keeps_settle | with_reducible apply keeps_retire
    | with_reducible apply keeps_endTx | with_reducible apply keeps_taskStopped | with_reducible exact Eff.keeps_trap
    | with_reducible apply Eff.keeps_stay | with_reducible fail_if_no_progress refine Keeps.upd ?_ rfl | split

theorem keeps_discard (h : Keeps s u) : Keeps s (State.discard u) := by
  unfold State.discard
  try dsimp only
  repeat' first
    | with_reducible assumption | with_reducible refine Keeps.ite (fun _ => ?_) (fun _ => ?_)
    | with_reducible apply keeps_withdraw | with_reducible apply keeps_settle | with_reducible apply keeps_endTx
    | with_reducible apply keeps_vacate | with_reducible apply keeps_taskStopped
    | with_reducible fail_if_no_progress refine Keeps.upd ?_ rfl

theorem keeps_leaveFor (dest : Nat) (took : BitVec 8) (t : Task) (h : Keeps s u) : Keeps s (State.leaveFor dest took t u) := by
  unfold State.leaveFor
  try dsimp only
  repeat' first
    | with_reducible assumption | with_reducible apply keeps_recordTrace | with_reducible apply keeps_tracePass
    | with_reducible apply keeps_sendAway | with_reducible fail_if_no_progress refine Keeps.upd ?_ rfl

theorem keeps_migrate (cores : BitVec 8) (dest : Nat) (h : Keeps s u) : Keeps s (State.migrate cores dest u) := by
  unfold State.migrate
  try dsimp only
  repeat' first
    | with_reducible assumption | with_reducible apply keeps_enterTrap | with_reducible apply keeps_saveContext
    | with_reducible apply keeps_vacate | with_reducible apply keeps_leaveFor | split

theorem OptKeeps.getD {o : Option State} {v : State} (h : OptKeeps s o) (g : Keeps s v) : Keeps s (o.getD v) := by
  cases o with
  | none => exact g
  | some x => exact h

theorem keeps_restoreHere (t : Task) (ctxbuf sig : Word) (h : Keeps s u) : OptKeeps s (State.restoreHere t ctxbuf sig u) := by
  unfold State.restoreHere
  dsimp only
  have h₁ := fun red => keeps_seat { Ctx.reset with sys := { Sys.reset with ctxbuf }, address := u.core.idx } red ⟨rfl, rfl, rfl⟩ h
  exact OptKeeps.ite (fun _ => keeps_some (keeps_leaveTrap (keeps_loadContext (h₁ _)))) fun _ => keeps_none

theorem keeps_gangArrives (t : Task) (ctxbuf sig : Word) (h : Keeps s u) : Keeps s (State.gangArrives t ctxbuf sig u) := by
  unfold State.gangArrives
  extract_lets cores v _ w
  have hv : Keeps s v := Keeps.ite (fun _ => keeps_tracePass h) fun _ => h
  clear_value v
  have hw : Keeps s w := keeps_mapLaunch _ _ (Keeps.upd hv rfl)
  clear_value w
  exact Keeps.ite (fun _ => h) fun _ => Keeps.ite (fun _ => (keeps_restoreHere _ _ _ hw).getD h) fun _ => hw

theorem OptKeeps.map {o : Option State} {g : State → State} (h : OptKeeps s o) (hg : ∀ v, Keeps s v → Keeps s (g v)) :
    OptKeeps s (o.map g) := by
  cases o with
  | none => trivial
  | some v => exact hg v h

theorem keeps_sendRecord (id : Word) (core : Nat) (w : BitVec 256) (h : Keeps s u) : OptKeeps s (State.sendRecord id core w u) := by
  unfold State.sendRecord
  extract_lets p target l n r posted
  have hp : ∀ v, Keeps s v → Keeps s (posted v) := fun v h => keeps_mapLaunch _ _ (keeps_mapTask _ _ h)
  clear_value posted
  with_reducible refine OptKeeps.ite (fun _ => (keeps_enqueueRecord _ h).map hp) fun _ => OptKeeps.ite (fun _ => keeps_none) fun _ => keeps_some ?_
  exact hp _ (Keeps.upd h rfl)

theorem keeps_postEffect (f : Fields) (h : Keeps s u) : (postEffect f u).Keeps s := by
  unfold postEffect
  refine keeps_partitioned ?_
  have h := keeps_published h
  dsimp only
  generalize u.published = v at h ⊢
  cases v.imageAt (u.val f.opA) 32 with
  | error => trivial
  | ok img =>
    have h₁ : Keeps s (v.endWait.sign (u.val f.opA).toNat 32 img) := keeps_sign _ _ _ (keeps_endWait h)
    have h₂ := keeps_sendRecord v.taskKey v.core.idx (BitVec.ofNat 256 img) h₁
    refine Eff.Keeps.ite (fun _ => trivial) fun _ => Eff.Keeps.ite (fun _ => h₁) fun _ => ?_
    split
    · exact keeps_waitFor _ h
    · next e => rw [e] at h₂; exact h₂

/-! Exchange -/

theorem keeps_setXeng (x : Exchange) (h : Keeps s u) : Keeps s (State.setXeng x u) := by
  unfold State.setXeng
  try dsimp only
  repeat' first
    | with_reducible assumption | with_reducible fail_if_no_progress refine Keeps.upd ?_ rfl

theorem keeps_arriveStep (core : Nat) (h : Keeps s u) : Keeps s (State.arriveStep core u) := by
  unfold State.arriveStep
  try dsimp only
  repeat' first
    | with_reducible assumption | with_reducible apply keeps_setPart

theorem keeps_xwaitEEffect (f : Fields) (h : Keeps s u) : (xwaitEEffect f u).Keeps s := by
  unfold xwaitEEffect
  try dsimp only
  repeat' first
    | with_reducible assumption | with_reducible refine Eff.Keeps.ite (fun _ => ?_) (fun _ => ?_)
    | with_reducible apply keeps_published | with_reducible apply keeps_setS | with_reducible apply keeps_waitFor
    | with_reducible refine keeps_onServed ?_ (fun _ _ h => ?_) ?_ | with_reducible apply keeps_partitioned
    | with_reducible apply keeps_arriveStep | with_reducible exact Eff.keeps_trap | with_reducible apply Eff.keeps_ok
    | with_reducible apply Eff.keeps_hold

theorem keeps_xwaitDone (f : Fields) (h : Keeps s u) : (xwaitDone f u).Keeps s := by
  unfold xwaitDone
  try dsimp only
  repeat' first
    | with_reducible assumption | with_reducible apply keeps_setS | with_reducible apply keeps_setXeng
    | with_reducible apply Eff.keeps_ok | with_reducible apply Eff.keeps_trapAfter | split

theorem keeps_xwaitEffect (f : Fields) (h : Keeps s u) : (xwaitEffect f u).Keeps s := by
  unfold xwaitEffect
  try dsimp only
  repeat' first
    | with_reducible assumption | with_reducible apply keeps_published | with_reducible apply keeps_waitFor
    | with_reducible refine keeps_onServed ?_ (fun _ _ h => ?_) ?_ | with_reducible apply keeps_partitioned
    | with_reducible apply keeps_setXeng | with_reducible apply keeps_arriveStep | with_reducible apply keeps_xwaitDone
    | with_reducible exact Eff.keeps_trap | with_reducible apply Eff.keeps_hold | with_reducible apply Eff.keeps_trapIn | split

theorem keeps_arm (core base count : Nat) (top : Bool) (h : Keeps s u) : Keeps s (State.arm core base count top u) := by
  unfold State.arm
  try dsimp only
  repeat' first
    | with_reducible assumption | with_reducible apply keeps_setXeng

theorem keeps_otherRuns (core base count : Nat) (top : Bool) (h : Keeps s u) : Keeps s (State.otherRuns core base count top u) := by
  unfold State.otherRuns
  try dsimp only
  repeat' first
    | with_reducible assumption | with_reducible refine Keeps.ite (fun _ => ?_) (fun _ => ?_) | with_reducible apply keeps_arm

theorem keeps_xrunEffect (f : Fields) (h : Keeps s u) : (xrunEffect f u).Keeps s := by
  unfold xrunEffect
  try dsimp only
  repeat' first
    | with_reducible assumption | with_reducible refine Eff.Keeps.ite (fun _ => ?_) (fun _ => ?_)
    | with_reducible apply keeps_partitioned | with_reducible apply keeps_arm | with_reducible exact Eff.keeps_trap
    | with_reducible apply Eff.keeps_ok

theorem keeps_startTransfer (linkTaken : Bool) (h : Keeps s u) : Keeps s (State.startTransfer linkTaken u) := by
  unfold State.startTransfer
  try dsimp only
  repeat' first
    | with_reducible assumption | with_reducible refine Keeps.ite (fun _ => ?_) (fun _ => ?_)
    | with_reducible apply keeps_setXeng

theorem keeps_writeUnit (t : Transfer) (h : Keeps s u) : Keeps s (State.writeUnit t u).1 := by
  unfold State.writeUnit
  try dsimp only
  repeat' first
    | with_reducible assumption | with_reducible refine Keeps.ite (fun _ => ?_) (fun _ => ?_)
    | with_reducible apply keeps_spadWrite | with_reducible apply keeps_storeWrite | with_reducible apply keeps_spoilLocal
    | with_reducible refine Keeps.foldl (fun _ _ h => ?_) _ ?_

theorem keeps_moveUnit (t : Transfer) (h : Keeps s u) : Keeps s (State.moveUnit t u).1 := by
  unfold State.moveUnit
  try dsimp only
  repeat' first
    | with_reducible assumption | with_reducible refine Keeps.iteFst (fun _ => ?_) (fun _ => ?_)
    | with_reducible apply keeps_writeUnit

theorem keeps_moveUnits (n : Nat) (t : Transfer) (h : Keeps s u) : Keeps s (State.moveUnits n t u).1 := by
  induction n generalizing t u with
  | zero => exact h
  | succ n ih =>
    rw [State.moveUnits]
    exact Keeps.iteFst (fun _ => ih _ (keeps_moveUnit _ h)) fun _ => h

theorem keeps_hasLanded (t : Transfer) (h : Keeps s u) : Keeps s (State.hasLanded t u) := by
  unfold State.hasLanded
  try dsimp only
  repeat' first
    | with_reducible assumption | with_reducible refine Keeps.ite (fun _ => ?_) (fun _ => ?_)
    | with_reducible apply keeps_setXeng

theorem keeps_comeIn (t : Transfer) (h : Keeps s u) : Keeps s (State.comeIn t u) := by
  unfold State.comeIn
  try dsimp only
  repeat' first
    | with_reducible assumption | with_reducible apply keeps_setXeng

theorem keeps_landTransfer (k : Nat) (h : Keeps s u) : Keeps s (State.landTransfer k u) := by
  unfold State.landTransfer
  split
  · exact h
  · exact Keeps.ite (fun _ => keeps_setXeng _ (keeps_moveUnit _ h)) fun _ => keeps_hasLanded _ (keeps_setXeng _ (keeps_moveUnits _ _ h))

theorem keeps_joinHeld  (h : Keeps s u) : Keeps s (State.joinHeld u) := by
  unfold State.joinHeld
  try dsimp only
  repeat' first
    | with_reducible assumption | with_reducible refine Keeps.ite (fun _ => ?_) (fun _ => ?_) | with_reducible apply keeps_setTx
    | with_reducible apply keeps_setSeq | with_reducible fail_if_no_progress refine Keeps.upd ?_ rfl

theorem keeps_submitHeld  (h : Keeps s u) : Keeps s (State.submitHeld u) := by
  unfold State.submitHeld
  try dsimp only
  repeat' first
    | with_reducible assumption | with_reducible refine Keeps.ite (fun _ => ?_) (fun _ => ?_)
    | with_reducible apply keeps_submitKey

theorem keeps_openExchange  (h : Keeps s u) : Keeps s (State.openExchange u) := by
  unfold State.openExchange
  try dsimp only
  repeat' first
    | with_reducible assumption | with_reducible refine Keeps.ite (fun _ => ?_) (fun _ => ?_) | with_reducible apply keeps_serve
    | with_reducible apply keeps_setPart | with_reducible apply keeps_setXeng | with_reducible apply keeps_joinHeld
    | with_reducible apply keeps_submitHeld

theorem keeps_takeArrived (a : ArrivedRecord) (h : Keeps s u) : Keeps s (u.takeArrived a) := by
  unfold State.takeArrived
  dsimp only
  split
  · exact h
  · next e =>
    have h₂ : OptKeeps s (some _) := e ▸ keeps_enqueueRecord _ h
    exact keeps_mapLaunch _ _ h₂

theorem keeps_balance  (h : Keeps s u) : Keeps s (State.balance u) := by
  unfold State.balance
  try dsimp only
  repeat' first
    | with_reducible assumption | with_reducible apply keeps_setPart | with_reducible apply keeps_reserve
    | with_reducible apply keeps_migrate | with_reducible refine Keeps.foldl (fun _ _ h => ?_) _ ?_ | split

theorem keeps_closeExchange (records : List ArrivedRecord) (h : Keeps s u) : Keeps s (State.closeExchange records u) := by
  unfold State.closeExchange
  refine Keeps.ite (fun _ => h) fun _ => ?_
  dsimp only
  generalize List.foldl (fun l x => insertArrived x l) _ _ = rs
  have h₁ : Keeps s (rs.foldl (fun s x => s.takeArrived x) u.balance) := Keeps.foldl (fun _ _ g => keeps_takeArrived _ g) _ (keeps_balance h)
  exact keeps_setPart _ h₁

theorem keeps_startPhase (h : Keeps s u) : Keeps s (State.startPhase u) := by
  unfold State.startPhase
  try dsimp only
  repeat' first
    | with_reducible assumption | with_reducible refine Keeps.ite (fun _ => ?_) (fun _ => ?_)
    | with_reducible apply keeps_setPart | with_reducible apply keeps_serve

theorem keeps_deliverRecord  (h : Keeps s u) : Keeps s (State.deliverRecord u) := by
  unfold State.deliverRecord
  try dsimp only
  repeat' first
    | with_reducible assumption | with_reducible apply keeps_sendAway
    | with_reducible fail_if_no_progress refine Keeps.upd ?_ rfl | split

theorem keeps_msendEffect (f : Fields) (h : Keeps s u) : (msendEffect f u).Keeps s := by
  unfold msendEffect
  try dsimp only
  repeat' first
    | with_reducible assumption | with_reducible refine Eff.Keeps.ite (fun _ => ?_) (fun _ => ?_)
    | with_reducible apply keeps_published | with_reducible apply keeps_sign | with_reducible apply keeps_waitFor
    | with_reducible apply keeps_endWait | with_reducible apply keeps_partitioned | with_reducible exact Eff.keeps_trap
    | with_reducible apply Eff.keeps_ok | with_reducible apply Eff.keeps_hold
    | with_reducible fail_if_no_progress refine Keeps.upd ?_ rfl | split

theorem keeps_deliverMessage (core : Nat) (x : Vec) (h : Keeps s u) : Keeps s (u.deliverMessage core x) := by
  unfold State.deliverMessage
  have h₁ := keeps_deliver core x h
  generalize u.deliver core x = r at h₁ ⊢
  cases r with
  | none => exact h
  | some t =>
    dsimp only
    split
    · exact Keeps.ite (fun _ => Keeps.upd h₁ rfl) (fun _ => h₁)
    · exact h₁

theorem keeps_joinChain (leads : Bool) (behind : Nat) (h : Keeps s u) : Keeps s (State.joinChain leads behind u) := by
  unfold State.joinChain
  try dsimp only
  repeat' first
    | with_reducible assumption | with_reducible apply keeps_trace | with_reducible fail_if_no_progress refine Keeps.upd ?_ rfl

theorem keeps_takeOffers (n : Nat) (h : Keeps s u) : Keeps s (State.takeOffers n u) := by
  unfold State.takeOffers
  try dsimp only
  repeat' first
    | with_reducible assumption | with_reducible fail_if_no_progress refine Keeps.upd ?_ rfl

theorem keeps_slaveLEffect (f : Fields) (h : Keeps s u) : (slaveLEffect f u).Keeps s := by
  unfold slaveLEffect
  try dsimp only
  repeat' first
    | with_reducible assumption | with_reducible refine Eff.Keeps.ite (fun _ => ?_) (fun _ => ?_)
    | with_reducible apply keeps_waitFor | with_reducible apply keeps_endWait
    | with_reducible refine keeps_onServed ?_ (fun _ _ h => ?_) ?_ | with_reducible apply keeps_joinChain
    | with_reducible apply keeps_takeOffers | with_reducible exact Eff.keeps_trap | with_reducible apply Eff.keeps_ok
    | with_reducible apply Eff.keeps_hold

theorem keeps_slaveEffect (h : Keeps s u) : (slaveEffect u).Keeps s := by
  unfold slaveEffect
  try dsimp only
  repeat' first
    | with_reducible assumption | with_reducible refine Eff.Keeps.ite (fun _ => ?_) (fun _ => ?_)
    | with_reducible apply keeps_waitFor | with_reducible refine keeps_onServed ?_ (fun _ _ h => ?_) ?_
    | with_reducible apply keeps_joinChain | with_reducible exact Eff.keeps_trap | with_reducible apply Eff.keeps_ok
    | with_reducible apply Eff.keeps_hold | with_reducible fail_if_no_progress refine Keeps.upd ?_ rfl

theorem keeps_otherSlave (core : Nat) (h : Keeps s u) : Keeps s (State.otherSlave core u) := by
  unfold State.otherSlave
  try dsimp only
  repeat' first
    | with_reducible assumption | with_reducible apply keeps_takeOffers | with_reducible apply keeps_serve
    | with_reducible fail_if_no_progress refine Keeps.upd ?_ rfl | split

theorem keeps_chainForms (core : Nat) (h : Keeps s u) : Keeps s (State.chainForms core u) := by
  unfold State.chainForms
  try dsimp only
  repeat' first
    | with_reducible assumption | with_reducible refine Keeps.ite (fun _ => ?_) (fun _ => ?_) | with_reducible apply keeps_serve

theorem keeps_ifetch {v : State} {c : Core} (h : Keeps s v) (h₁ : c.control = v.core.control) (h₂ : c.idx = v.core.idx)
    (h₃ : c.die = v.core.die) (h₄ : c.pcore = v.core.pcore) (h₅ : c.k = v.core.k) (hi : v.memoriesWf = true → c.ifetch.wf = true) :
    Keeps s { v with core := c } := by
  refine Keeps.updWf h h₁ h₂ h₃ h₄ h₅ fun hw => ?_
  have hi := hi hw
  rw [memoriesWf_iff] at hw ⊢
  obtain ⟨m₁, m₂, m₃, m₄, m₅, m₆, m₇, m₈, m₉, n₁, n₂, n₃, -⟩ := hw
  exact ⟨m₁, m₂, m₃, m₄, m₅, m₆, m₇, m₈, m₉, n₁, n₂, n₃, hi⟩

theorem keeps_lead (h : Keeps s u) : Keeps s u.lead := by
  unfold State.lead
  split
  · exact keeps_ifetch h rfl rfl rfl rfl rfl own_wf
  · exact h

/-! Events -/

theorem keeps_scrubAt (pa : Nat) (bad : Bool) (h : Keeps s u) : Keeps s (State.scrubAt pa bad u) := by
  unfold State.scrubAt
  try dsimp only
  repeat' first
    | with_reducible assumption | with_reducible refine Keeps.ite (fun _ => ?_) (fun _ => ?_)
    | with_reducible apply keeps_spoilGlobal | with_reducible apply keeps_uncorrectable

theorem keeps_requestRunning (g : Requests → Requests) (h : Keeps s u) : Keeps s (State.requestRunning g u) := by
  unfold State.requestRunning
  try dsimp only
  repeat' first
    | with_reducible assumption | with_reducible refine Keeps.ite (fun _ => ?_) (fun _ => ?_)
    | with_reducible apply keeps_request

theorem keeps_expire (h : Keeps s u) : Keeps s (State.expire u) := by
  unfold State.expire
  try dsimp only
  repeat' first
    | with_reducible assumption | with_reducible refine Keeps.ite (fun _ => ?_) (fun _ => ?_) | with_reducible apply keeps_crash
    | with_reducible apply keeps_request | with_reducible apply keeps_setSys

theorem keeps_haltStop (h : Keeps s u) : Keeps s (State.haltStop u) := by
  unfold State.haltStop
  try dsimp only
  repeat' first
    | with_reducible assumption | with_reducible refine Keeps.ite (fun _ => ?_) (fun _ => ?_)
    | with_reducible apply keeps_request | with_reducible apply keeps_setPart

theorem keeps_freezeAll (h : Keeps s u) : Keeps s (State.freezeAll u) := by
  unfold State.freezeAll
  try dsimp only
  repeat' first
    | with_reducible assumption | with_reducible apply keeps_haltFreeze | with_reducible apply keeps_setPart
    | with_reducible fail_if_no_progress refine Keeps.upd ?_ rfl

theorem keeps_setReqs (g : Requests → Requests) (h : Keeps s u) : Keeps s (State.setReqs g u) := by
  unfold State.setReqs
  try dsimp only
  repeat' first
    | with_reducible assumption | with_reducible fail_if_no_progress refine Keeps.upd ?_ rfl

theorem keeps_stageSave  (h : Keeps s u) : Keeps s (State.stageSave u) := by
  unfold State.stageSave
  try dsimp only
  repeat' first
    | with_reducible assumption | with_reducible apply keeps_sherd | with_reducible apply keeps_published
    | with_reducible apply keeps_recordError | with_reducible apply keeps_setSaggar | with_reducible apply keeps_saveContext
    | with_reducible apply keeps_setReqs | split

theorem keeps_enterAsync (a : Async) (h : Keeps s u) : Keeps s (State.enterAsync a u) := by
  unfold State.enterAsync
  try dsimp only
  repeat' first
    | with_reducible assumption | with_reducible refine Keeps.ite (fun _ => ?_) (fun _ => ?_)
    | with_reducible apply keeps_enterTrap

theorem keeps_async {a : Async} (ha : u.async = some a) (v : State) (h : Keeps s v) : Keeps s (a.take v) := by
  unfold State.async at ha
  dsimp only at ha
  repeat' first
    | (cases ha; done)
    | (cases ha; first
        | exact keeps_setReqs _ (keeps_setPart _ h)
        | exact keeps_setReqs _ h
        | exact Keeps.upd h rfl)
    | split at ha

theorem keeps_takeRequest (h : Keeps s u) : Keeps s u.takeRequest := by
  unfold State.takeRequest
  refine Keeps.ite (fun _ => keeps_stageSave h) fun _ => ?_
  split
  · exact h
  · next a e =>
    dsimp only
    generalize u.settle.2.isSome = bad
    have h₁ : Keeps s ((if bad = true then u else a.take u).enterAsync a) :=
      keeps_enterAsync _ (Keeps.ite (fun _ => h) fun _ => keeps_async e u h)
    generalize State.enterAsync _ _ = v at h₁ ⊢
    exact Keeps.ite (fun _ => keeps_setReqs _ (keeps_freeze h₁)) (fun _ => h₁)

theorem keeps_wake (h : Keeps s u) : Keeps s (State.wake u) := by
  unfold State.wake
  try dsimp only
  repeat' first
    | with_reducible assumption | with_reducible refine Keeps.ite (fun _ => ?_) (fun _ => ?_)
    | with_reducible apply keeps_linger | with_reducible fail_if_no_progress refine Keeps.upd ?_ rfl

theorem keeps_setReady (o i : Nat) (h : Keeps s u) : Keeps s (u.setReady o i) := by
  unfold State.setReady
  refine Keeps.updWf h rfl rfl rfl rfl rfl fun hw => ?_
  rw [memoriesWf_iff] at hw ⊢
  obtain ⟨m₁, m₂, m₃, m₄, m₅, m₆, m₇, m₈, m₉, n₁, n₂, n₃, n₄⟩ := hw
  exact ⟨m₁, Memory.write_wf m₂, m₃, m₄, m₅, m₆, m₇, m₈, m₉, n₁, n₂, n₃, n₄⟩

theorem keeps_startControl (m : Memory) (h : Keeps s u) : Keeps s (u.startControl m) := by
  unfold State.startControl
  refine Keeps.ite (fun _ => h) fun hc => ?_
  have hc : u.core.control = true := by simpa using hc
  have h₁ : Keeps s { u with cl := { u.cl with stores := vset u.cl.stores u.core.idx (Memory.canon (m.slice 0 0x20000)) } } := by
    refine Keeps.updWf h rfl rfl rfl rfl rfl fun hw => ?_
    rw [memoriesWf_iff] at hw ⊢
    obtain ⟨m₁, m₂, m₃, m₄, m₅, m₆, m₇, m₈, m₉, n₁, n₂, n₃, n₄⟩ := hw
    exact ⟨m₁, m₂, m₃, m₄, m₅, vset_wf m₆ (Memory.canon_wf _), m₇, m₈, m₉, n₁, n₂, n₃, n₄⟩
  exact Keeps.withCtx h₁ hc.symm rfl rfl rfl (fun _ => rfl) own_wf fun _ => ⟨rfl, rfl, rfl⟩

theorem keeps_bootOn (h : Keeps s u) : Keeps s (State.bootOn u) := by
  unfold State.bootOn
  try dsimp only
  repeat' first
    | with_reducible assumption | with_reducible refine Keeps.ite (fun _ => ?_) (fun _ => ?_)
    | with_reducible apply keeps_putImage | with_reducible apply keeps_startControl
    | with_reducible fail_if_no_progress refine Keeps.upd ?_ rfl

theorem keeps_pass (offset i : Nat) (h : Keeps s u) : Keeps s (State.pass offset i u) := by
  unfold State.pass
  try dsimp only
  repeat' first
    | with_reducible assumption | with_reducible refine Keeps.ite (fun _ => ?_) (fun _ => ?_)
    | with_reducible apply keeps_setReady | with_reducible apply keeps_bootOn

theorem keeps_fail (offset i : Nat) (h : Keeps s u) : Keeps s (State.fail offset i u) := by
  unfold State.fail
  try dsimp only
  repeat' first
    | with_reducible assumption | with_reducible refine Keeps.ite (fun _ => ?_) (fun _ => ?_)
    | with_reducible apply keeps_setReady | with_reducible apply keeps_bootOn | with_reducible apply keeps_sherd

theorem keeps_failLink (link : Nat) (h : Keeps s u) : Keeps s (State.failLink link u) := by
  unfold State.failLink
  try dsimp only
  repeat' first
    | with_reducible assumption | with_reducible refine Keeps.ite (fun _ => ?_) (fun _ => ?_) | with_reducible apply keeps_fail
    | with_reducible apply keeps_sherd | with_reducible fail_if_no_progress refine Keeps.upd ?_ rfl

theorem stores_reset : Cluster.reset.stores.all Memory.wf = true := by
  rw [Vector.all_eq_true]
  intro i hi
  show Memory.wf ((Vector.replicate 8 ([] : Memory))[i]) = true
  rw [Vector.getElem_replicate]
  rfl

theorem keeps_coldBoot (image : List Host.Cell) (h : Keeps s u) : Keeps s (u.coldBoot image) := by
  unfold State.coldBoot
  extract_lets flash keep _ _ _ _ t
  have ht : Keeps s t := by
    refine h.trans ⟨rfl, rfl, rfl, rfl, fun _ => ?_, fun hw => ?_⟩
    · show (!u.core.control || u.core.control) = true
      cases u.core.control <;> rfl
    · rw [memoriesWf_iff] at hw ⊢
      exact ⟨Memory.filter_wf _ hw.1, rfl, Memory.canon_wf _, rfl, rfl, stores_reset, rfl, rfl, rfl, rfl, rfl, rfl, rfl⟩
  exact Keeps.ite (fun _ => keeps_startControl _ ht) (fun _ => ht)

theorem keeps_loseContext (i : Nat) (h : Keeps s u) : Keeps s (State.loseContext i u) := by
  unfold State.loseContext
  try dsimp only
  repeat' first
    | with_reducible assumption | with_reducible apply keeps_sherd | with_reducible fail_if_no_progress refine Keeps.upd ?_ rfl

theorem keeps_resumeHere (lost : List Nat) (h : Keeps s u) : Keeps s (State.resumeHere lost u) := by
  unfold State.resumeHere
  try dsimp only
  repeat' first
    | with_reducible assumption | with_reducible refine Keeps.ite (fun _ => ?_) (fun _ => ?_)
    | with_reducible apply keeps_withdraw | with_reducible apply keeps_settle | with_reducible apply keeps_endTx
    | with_reducible apply keeps_vacate | with_reducible apply keeps_taskStopped | with_reducible apply keeps_homeStore
    | with_reducible fail_if_no_progress refine Keeps.upd ?_ rfl

theorem keeps_warmReboot (h : Keeps s u) : Keeps s u.warmReboot := by
  unfold State.warmReboot
  extract_lets img tripped _ _ _ _ v _ _ _ w lost x y
  refine Keeps.ite (fun _ => keeps_coldBoot _ h) fun _ => ?_
  have h₁ : Keeps s v := Keeps.upd h rfl
  have h₂ : Keeps s w := by
    refine Keeps.ite (fun _ => ?_) (fun _ => h₁)
    refine h₁.trans ⟨rfl, rfl, rfl, rfl, fun _ => ?_, fun hw => ?_⟩
    · show (!v.core.control || v.core.control) = true
      cases v.core.control <;> rfl
    rw [memoriesWf_iff] at hw ⊢
    exact ⟨Memory.filter_wf _ hw.1, hw.2.1, hw.2.2.1, hw.2.2.2.1, hw.2.2.2.2.1, stores_reset, rfl, rfl, rfl, rfl, rfl, rfl, rfl⟩
  have h₃ : Keeps s y := keeps_startControl _ (Keeps.foldl (fun _ _ g => keeps_loseContext _ g) _ (keeps_resumeHere _ h₂))
  exact Keeps.upd h₃ rfl

theorem keeps_answer (kind : HostAnswer) (data : Vec) (h : Keeps s u) : Keeps s (State.answer kind data u) := by
  unfold State.answer
  try dsimp only
  repeat' first
    | with_reducible assumption | with_reducible fail_if_no_progress refine Keeps.upd ?_ rfl

theorem keeps_hostFault (h : Keeps s u) : Keeps s (State.hostFault u) := by
  unfold State.hostFault
  try dsimp only
  repeat' first
    | with_reducible assumption | with_reducible fail_if_no_progress refine Keeps.upd ?_ rfl

theorem keeps_readAll (l : List Part) {x : State × Nat × Nat} (h : Keeps s x.1) :
    Keeps s (l.foldl (fun (acc : State × Nat × Nat) p =>
      let x := acc.1.readPart [] p
      (x.1, acc.2.1 + x.2.1 * 256 ^ acc.2.2, acc.2.2 + p.n)) x).1 := by
  induction l generalizing x with
  | nil => exact h
  | cons p l ih => exact ih (keeps_readPart [] p h)

theorem keeps_hostRead (fn : Nat) (addr : Word) (n : Nat) (h : Keeps s u) : Keeps s (u.hostRead fn addr n) := by
  unfold State.hostRead
  have hf := fun ok x => keeps_answer ok x (keeps_hostFault h)
  have hr := fun t ok x => keeps_answer ok x (keeps_hostFault (keeps_reportTrap t h))
  split
  · exact keeps_answer _ _ h
  · exact keeps_answer _ _ h
  · split
    · exact Keeps.ite (fun _ => h) fun _ => hr _ _ _
    · split
      · exact h
      · exact hf _ _
      · next ps ks _ _ _ =>
        have h₁ : Keeps s (ps.foldl (fun s p => s.touch 512 p.pa) ((u.keep ks).waitRefresh (ps.map (·.pa)))) :=
          Keeps.foldl (fun _ _ g => keeps_touch _ _ g) _ (keeps_waitRefresh _ (keeps_keep _ h))
        dsimp only
        generalize List.foldl (fun (s : State) (p : Part) => s.touch 512 p.pa) _ _ = v at h₁ ⊢
        split
        · exact keeps_answer _ _ (keeps_hostFault (keeps_uncorrectable _ h₁))
        · exact keeps_answer _ _ (keeps_readAll ps (x := (v, 0, 0)) h₁)

theorem keeps_hostWrite (fn : Nat) (addr : Word) (n : Nat) (v : Vec) (h : Keeps s u) : Keeps s (u.hostWrite fn addr n v) := by
  unfold State.hostWrite
  split
  · exact h
  · refine Keeps.ite (fun _ => Keeps.updWf h rfl rfl rfl rfl rfl fun hw => ?_) (fun _ => h)
    rw [memoriesWf_iff] at hw ⊢
    obtain ⟨m₁, m₂, m₃, m₄, m₅, m₆, m₇, m₈, m₉, n₁, n₂, n₃, n₄⟩ := hw
    exact ⟨m₁, m₂, m₃, m₄, Memory.store_wf m₅, m₆, m₇, m₈, m₉, n₁, n₂, n₃, n₄⟩
  · split
    · exact Keeps.ite (fun _ => h) fun _ => keeps_hostFault (keeps_reportTrap _ h)
    · split
      · exact h
      · exact keeps_hostFault h
      · refine keeps_restartQueues ?_
        exact Keeps.foldlFst (fun _ _ g => keeps_homeStore _ _ _ (keeps_touch _ _ g)) _ (keeps_waitRefresh _ (keeps_keep _ h))

theorem keeps_answerPeer (x : Option Word) (h : Keeps s u) : Keeps s (State.answerPeer x u) := by
  unfold State.answerPeer
  try dsimp only
  repeat' first
    | with_reducible assumption | with_reducible fail_if_no_progress refine Keeps.upd ?_ rfl

theorem keeps_remote (pkg pa n : Nat) (w : Option Word) (h : Keeps s u) : Keeps s (State.remote pkg pa n w u) := by
  unfold State.remote
  try dsimp only
  repeat' first
    | with_reducible assumption | with_reducible apply keeps_uncorrectable | with_reducible apply keeps_homeStore
    | with_reducible apply keeps_touch | with_reducible apply keeps_restartQueues | with_reducible apply keeps_waitRefresh
    | with_reducible apply keeps_readPart | with_reducible apply keeps_answerPeer | split

theorem keeps_form (rank n : Nat) (tables : List (Nat × ExportWindow)) (h : Keeps s u) : Keeps s (u.form rank n tables) := by
  unfold State.form
  refine Keeps.ite (fun _ => h) fun _ => ?_
  have h₁ := keeps_performAll (keeps_drainStreams h)
  dsimp only
  generalize State.performAll _ = v at h₁ ⊢
  refine Keeps.updWf h₁ rfl rfl rfl rfl rfl fun hw => ?_
  rw [memoriesWf_iff] at hw ⊢
  obtain ⟨m₁, m₂, m₃, m₄, m₅, m₆, m₇, m₈, m₉, n₁, n₂, n₃, n₄⟩ := hw
  exact ⟨Memory.canon_wf _, m₂, m₃, m₄, m₅, m₆, m₇, m₈, m₉, n₁, n₂, n₃, n₄⟩

/-! Others -/

theorem keeps_otherAccess (cluster pa n : Nat) (data : Option Word) (h : Keeps s u) : Keeps s (State.otherAccess cluster pa n data u) := by
  unfold State.otherAccess
  try dsimp only
  repeat' first
    | with_reducible assumption | with_reducible apply keeps_uncorrectable | with_reducible apply keeps_homeStore
    | with_reducible apply keeps_touch | with_reducible apply keeps_restartQueues | with_reducible apply keeps_waitRefresh
    | split

theorem keeps_otherStore (core a n : Nat) (data : Vec) (h : Keeps s u) : Keeps s (State.otherStore core a n data u) := by
  unfold State.otherStore
  try dsimp only
  repeat' first
    | with_reducible assumption | with_reducible apply keeps_spadWrite | with_reducible apply keeps_storeWrite | split

theorem keeps_otherWithdraws (core : Nat) (p : WaitPlace) (h : Keeps s u) : Keeps s (State.otherWithdraws core p u) := by
  unfold State.otherWithdraws
  try dsimp only
  repeat' first
    | with_reducible assumption | with_reducible apply keeps_setBar | with_reducible apply keeps_setMtx
    | with_reducible apply keeps_setEvl | with_reducible apply keeps_setCb | with_reducible apply keeps_setPart
    | with_reducible fail_if_no_progress refine Keeps.upd ?_ rfl | split

theorem keeps_otherCbget (core b : Nat) (h : Keeps s u) : Keeps s (State.otherCbget core b u) := by
  unfold State.otherCbget
  try dsimp only
  repeat' first
    | with_reducible assumption | with_reducible apply keeps_setCb | split

theorem keeps_otherCbput (b k : Nat) (h : Keeps s u) : Keeps s (State.otherCbput b k u) := by
  unfold State.otherCbput
  try dsimp only
  repeat' first
    | with_reducible assumption | with_reducible refine Keeps.ite (fun _ => ?_) (fun _ => ?_) | with_reducible apply keeps_setCb

theorem keeps_otherShadow (key : TxKey) (sstep : Word) (tiles : List (Nat × Bool)) (h : Keeps s u) :
    Keeps s (State.otherShadow key sstep tiles u) := by
  unfold State.otherShadow
  exact Keeps.ite (fun _ => h) fun _ => keeps_gangSubmits _ _ h

theorem keeps_fillPlacement (entry pidx : Nat) (h : Keeps s u) : Keeps s (State.fillPlacement entry pidx u) := by
  unfold State.fillPlacement
  try dsimp only
  repeat' first
    | with_reducible assumption | with_reducible refine Keeps.ite (fun _ => ?_) (fun _ => ?_)
    | with_reducible apply keeps_setPart

theorem keeps_otherGear (core : Nat) (n : Bool) (h : Keeps s u) : Keeps s (State.otherGear core n u) := by
  unfold State.otherGear
  try dsimp only
  repeat' first
    | with_reducible assumption | with_reducible fail_if_no_progress refine Keeps.upd ?_ rfl

theorem keeps_primaryRead (x : Vec) (flags : BitVec 5) (h : Keeps s u) : Keeps s (State.primaryRead x flags u) := by
  unfold State.primaryRead
  try dsimp only
  repeat' first
    | with_reducible assumption | with_reducible fail_if_no_progress refine Keeps.upd ?_ rfl

theorem keeps_otherPosts (core : Nat) (w : BitVec 256) (h : Keeps s u) : Keeps s (State.otherPosts core w u) := by
  unfold State.otherPosts
  split
  · exact h
  · exact Keeps.ite (fun _ => (keeps_sendRecord _ _ _ h).getD h) fun _ => h

theorem keeps_hearElsewhere (launch outstanding ran : Nat) (err : BitVec 4) (h : Keeps s u) : Keeps s (State.hearElsewhere launch outstanding ran err u) := by
  unfold State.hearElsewhere
  try dsimp only
  repeat' first
    | with_reducible assumption | with_reducible apply keeps_mapLaunch

theorem keeps_noMore (pidx : Nat) (h : Keeps s u) : Keeps s (State.noMore pidx u) := by
  unfold State.noMore
  try dsimp only
  repeat' first
    | with_reducible assumption | with_reducible refine Keeps.ite (fun _ => ?_) (fun _ => ?_)
    | with_reducible apply keeps_setPart

theorem keeps_learnFree (pidx : Nat) (cores : BitVec 8) (h : Keeps s u) : Keeps s (State.learnFree pidx cores u) := by
  unfold State.learnFree
  try dsimp only
  repeat' first
    | with_reducible assumption | with_reducible apply keeps_setPart

theorem keeps_memError (e : MemError) (h : Keeps s u) : Keeps s (State.memError e u) := by
  unfold State.memError
  split
  · exact Keeps.ite (fun _ => Keeps.upd h rfl) fun _ => h
  · exact Keeps.ite (fun _ => h) fun _ => Keeps.upd h rfl
  · exact Keeps.ite (fun _ => keeps_spoilLocal _ _ _ h) fun _ => h
  · exact Keeps.ite (fun _ => h) fun _ => Keeps.upd h rfl
  · exact Keeps.ite (fun _ => h) fun _ => keeps_spoilGlobal _ _ h

theorem keeps_otherAct (a : OtherAct) (h : Keeps s u) : Keeps s (State.otherAct a u) := by
  unfold State.otherAct
  extract_lets by'
  have hb : ∀ core (g : State → State), (∀ v, Keeps s v → Keeps s (g v)) → Keeps s (by' core g) := fun core g hg =>
    Keeps.ite (fun _ => h) fun _ => keeps_byOther _ hg h
  clear_value by'
  split
  · exact keeps_otherAccess _ _ _ _ h
  · exact keeps_otherStore _ _ _ _ h
  · exact Keeps.ite (fun _ => h) fun _ => keeps_invalidate _ h
  · exact hb _ _ fun _ h => keeps_otherIssues _ _ _ _ _ _ _ _ _ h
  · exact keeps_otherStarts _ h
  · exact keeps_otherCompletes _ h
  · exact hb _ _ fun _ h => keeps_otherPass _ _ _ _ h
  · exact hb _ _ fun _ h => keeps_otherQueue _ _ _ h
  · exact hb _ _ fun _ h => keeps_otherRuns _ _ _ _ h
  · exact Keeps.ite (fun _ => h) fun _ => keeps_comeIn _ h
  · exact hb _ _ fun _ h => keeps_otherPosts _ _ h
  · exact hb _ _ fun _ h => keeps_otherGear _ _ h
  · exact hb _ _ fun _ h => keeps_otherEnds _ _ _ h
  · exact hb _ _ fun _ h => keeps_otherStops _ _ h
  · exact keeps_fillPlacement _ _ h
  · exact keeps_bindQueue _ _ _ h
  · exact keeps_primaryRead _ _ h
  · exact Keeps.upd h rfl
  · exact keeps_hearElsewhere _ _ _ _ h
  · exact keeps_learnFree _ _ h
  · exact Keeps.ite (fun _ => keeps_takeReserved _ h) fun _ => h
  · exact keeps_gangArrives _ _ _ h
  · exact hb _ _ fun _ h => keeps_otherWithdraws _ _ h
  · exact hb _ _ fun _ h => keeps_mutexesTo _ _ h
  · exact hb _ _ fun _ h => keeps_otherCbget _ _ h
  · exact hb _ _ fun _ h => keeps_otherCbput _ _ h
  · exact keeps_otherShadow _ _ _ h
  · exact keeps_noMore _ h
  · exact Keeps.ite (fun _ => keeps_requestRunning _ h) fun _ => h
  · exact Keeps.upd h rfl
  · exact keeps_memError _ h

theorem keeps_outsideNth (k : Nat) (h : Keeps s u) : Keeps s (State.outsideNth k u) := by
  unfold State.outsideNth
  split
  · exact h
  · exact Keeps.ite (fun _ => h) fun _ => keeps_otherAct _ (Keeps.upd h rfl)

/-! VectorMem -/

theorem keeps_withSource  {w : Nat} {o : Operand} {k : State → Vec → Eff} (h : Keeps s u)
    (hk : ∀ v x, Keeps s v → (k v x).Keeps s) : (withSource w o u k).Keeps s := by
  unfold withSource
  split
  · next q _ =>
    have h₁ := keeps_pop q h
    split
    · trivial
    · exact h
    · next s₁ x e => exact hk _ _ (by rw [e] at h₁; exact h₁)
  · exact hk _ _ h

theorem keeps_laneWrite (n : Nat) (a : Word) (x : Nat) (h : Keeps s u) : Keeps s (State.laneWrite n a x u) := by
  unfold State.laneWrite
  try dsimp only
  repeat' first
    | with_reducible assumption | with_reducible apply keeps_dataWrite | split

theorem keeps_otherEvent (c : Nat) (h : Keeps s u) : Keeps s (State.otherEvent c u) := by
  unfold State.otherEvent
  refine Keeps.ite (fun _ => ?_) fun _ => Keeps.ite (fun _ => keeps_burstJob _ h) fun _ => keeps_landTransfer _ h
  split
  · exact keeps_outsideNth _ h
  · exact h

theorem keeps_meanwhile  (h : Keeps s u) : Keeps s (State.meanwhile u) := by
  unfold State.meanwhile
  try dsimp only
  repeat' first
    | with_reducible assumption | with_reducible refine Keeps.ite (fun _ => ?_) (fun _ => ?_)
    | with_reducible apply keeps_otherEvent | with_reducible refine Keeps.foldl (fun _ _ h => ?_) _ ?_
    | with_reducible fail_if_no_progress refine Keeps.upd ?_ rfl

theorem keeps_readLanes (n : Nat) (l : List (Nat × Word)) (h : Keeps s u) : Keeps s (State.readLanes n l u).1 := by
  induction l generalizing u with
  | nil => exact h
  | cons x l ih => exact ih (Keeps.ite (fun _ => keeps_meanwhile h) fun _ => h)

theorem keeps_writeLanes (w : Nat) (x : Vec) (l : List (Nat × Word)) (h : Keeps s u) : Keeps s (State.writeLanes w x l u) := by
  induction l generalizing u with
  | nil => exact h
  | cons y l ih =>
    rw [State.writeLanes]
    have h₁ := keeps_laneWrite (w / 8) y.2 (lane x y.1 w) h
    exact ih (Keeps.ite (fun _ => keeps_meanwhile h₁) fun _ => h₁)

theorem keeps_lanesTo (f : Fields) (form : LocalForm) (lanes : List (Nat × Word)) (mask x : Vec) (h : Keeps s u) : Keeps s (lanesTo f form lanes mask x u) := by
  unfold lanesTo
  try dsimp only
  repeat' first
    | with_reducible assumption | with_reducible apply keeps_putIn | with_reducible apply keeps_put
    | with_reducible apply keeps_putLocked | split

theorem keeps_localLoad (f : Fields) (form : LocalForm) (lanes : List (Nat × Word)) (h : Keeps s u) :
    (localLoad f form lanes u).Keeps s := by
  unfold localLoad
  have h₁ := keeps_readLanes (selWidth f.sel / 8) lanes (keeps_caughtUp h)
  dsimp only
  cases u.laneChecks (selWidth f.sel / 8) false lanes with
  | some => trivial
  | none =>
    dsimp only
    with_reducible refine Eff.Keeps.ite (fun _ => keeps_reading h₁ fun _ _ g => ?_) fun _ => ?_
    · with_reducible exact Eff.keeps_ok (keeps_lanesTo _ _ _ _ _ g)
    · with_reducible exact Eff.keeps_ok (keeps_lanesTo _ _ _ _ _ h₁)

theorem keeps_localStore {v : State} (f : Fields) (x : Vec) (lanes : List (Nat × Word)) (h : Keeps s u) (g : Keeps s v) :
    (localStore v f x lanes u).Keeps s := by
  unfold localStore
  dsimp only
  cases u.laneChecks (selWidth f.sel / 8) true lanes with
  | some => trivial
  | none =>
    dsimp only
    with_reducible refine Eff.Keeps.ite (fun _ => Eff.keeps_hold g) fun _ => Eff.keeps_ok ?_
    exact keeps_writeLanes _ _ _ (keeps_caughtUp h)

theorem keeps_vldlEffect (f : Fields) (h : Keeps s u) : (vldlEffect f u).Keeps s := by
  unfold vldlEffect
  dsimp only
  with_reducible exact Eff.Keeps.ite (fun _ => Eff.keeps_trap) fun _ => keeps_localLoad _ _ _ h

theorem keeps_vstlEffect (f : Fields) (h : Keeps s u) : (vstlEffect f u).Keeps s := by
  unfold vstlEffect
  try dsimp only
  repeat' first
    | with_reducible assumption | with_reducible refine Eff.Keeps.ite (fun _ => ?_) (fun _ => ?_)
    | with_reducible refine keeps_withSource ?_ (fun _ _ h => ?_) | with_reducible apply keeps_localStore
    | with_reducible exact Eff.keeps_trap

theorem keeps_vldgEffect (f : Fields) (h : Keeps s u) : (vldgEffect f u).Keeps s := by
  unfold vldgEffect
  try dsimp only
  repeat' first
    | with_reducible assumption | with_reducible refine Eff.Keeps.ite (fun _ => ?_) (fun _ => ?_)
    | with_reducible refine keeps_station ?_ (fun _ _ h => ?_) | with_reducible apply keeps_acceptLoad
    | with_reducible apply Eff.keeps_ok

theorem keeps_vstgEffect (f : Fields) (h : Keeps s u) : (vstgEffect f u).Keeps s := by
  unfold vstgEffect
  try dsimp only
  repeat' first
    | with_reducible assumption | with_reducible refine keeps_station ?_ (fun _ _ h => ?_)
    | with_reducible apply keeps_storeLanes | with_reducible refine keeps_withSource ?_ (fun _ _ h => ?_)
    | with_reducible apply Eff.keeps_ok | with_reducible apply Eff.keeps_hold | split

theorem keeps_vgathEffect (f : Fields) (h : Keeps s u) : (vgathEffect f u).Keeps s := by
  unfold vgathEffect
  dsimp only
  with_reducible refine keeps_withSource h fun v x g => ?_
  with_reducible refine Eff.Keeps.ite (fun _ => Eff.keeps_trap) fun _ => Eff.Keeps.ite (fun _ => ?_) fun _ =>
    Eff.Keeps.ite (fun _ => Eff.keeps_ok g) fun _ => ?_
  · have h₁ := keeps_localLoad f .gather (u.gatherLanes f x) g
    split
    · exact h
    · exact h₁
  · have h₁ : (station true 0 (fun s => s.rawParts .read (selWidth f.sel / 8) (u.gatherLanes f x)) v fun s r =>
        acceptLoad (u.val f.opA) none (selWidth f.sel) (.v f.opD.num) s r).Keeps s :=
      keeps_station g fun _ _ g => keeps_acceptLoad _ _ _ _ _ g
    split
    · exact h
    · exact h₁

theorem keeps_vscatEffect (f : Fields) (h : Keeps s u) : (vscatEffect f u).Keeps s := by
  unfold vscatEffect
  try dsimp only
  repeat' first
    | with_reducible assumption | with_reducible refine keeps_station ?_ (fun _ _ h => ?_)
    | with_reducible apply keeps_storeLanes | with_reducible refine keeps_withSource ?_ (fun _ _ h => ?_)
    | with_reducible apply keeps_localStore | with_reducible exact Eff.keeps_trap | with_reducible apply Eff.keeps_ok
    | with_reducible apply Eff.keeps_hold | split

theorem keeps_scfgEffect (f : Fields) (h : Keeps s u) : (scfgEffect f u).Keeps s := by
  unfold scfgEffect
  try dsimp only
  repeat' first
    | with_reducible assumption | with_reducible apply keeps_setStream | with_reducible apply keeps_drainPushes
    | with_reducible apply Eff.keeps_ok

theorem keeps_sstatEffect (f : Fields) (h : Keeps s u) : (sstatEffect f u).Keeps s := by
  unfold sstatEffect
  try dsimp only
  repeat' first
    | with_reducible assumption | with_reducible apply keeps_setS | with_reducible apply Eff.keeps_ok

theorem keeps_sstatDrainEffect (f : Fields) (h : Keeps s u) : (sstatDrainEffect f u).Keeps s := by
  unfold sstatDrainEffect
  try dsimp only
  repeat' first
    | with_reducible assumption | with_reducible apply keeps_setS | with_reducible apply keeps_drainPushes
    | with_reducible apply Eff.keeps_ok

/-! Agents -/

theorem keeps_fill (n : Nat) (c : Chain) (h : Keeps s u) : Keeps s (State.fill n c u).1 := by
  unfold State.fill
  try dsimp only
  repeat' first
    | with_reducible assumption | with_reducible fail_if_no_progress refine Keeps.upd ?_ rfl

theorem keeps_forwardedIssued (k : Nat) (follow : Bool) (h : Keeps s u) : Keeps s (State.forwardedIssued k follow u) := by
  unfold State.forwardedIssued
  try dsimp only
  repeat' first
    | with_reducible assumption | with_reducible fail_if_no_progress refine Keeps.upd ?_ rfl | split

/-- A word that a follower passes over, if what a prefix does keeps it. -/
theorem keeps_passOver (k : Nat) (pre : Option Pfx) (w : IWord) (he : ∀ i v t, exec i v = .next t → Keeps v t) (h : Keeps s u) :
    Keeps s (State.passOver k pre w u) := by
  unfold State.passOver
  extract_lets _ v
  have hv : Keeps s v := Keeps.upd h rfl
  clear_value v
  split
  · exact keeps_trap _ hv
  · exact keeps_forwardedIssued _ _ (keeps_idle hv)
  · split
    · split
      · exact keeps_trap _ hv
      · exact keeps_forwardedIssued _ _ (keeps_retire _ _ _ hv)
    · split
      · next e => exact keeps_forwardedIssued _ _ (hv.trans (he _ _ _ e))
      · exact hv

/-! What completes an instruction, and the issue of one -/

theorem keeps_finish {i : Instr} {f : Fields} {e : Eff} (h : e.Keeps s) (g : Keeps s u) : Keeps s (e.finish i f u) := by
  unfold Eff.finish
  split
  · exact keeps_retire _ _ _ (keeps_completed _ _ h)
  · exact keeps_retire _ _ _ (keeps_refetch _ (keeps_heal _ _ h))
  · exact keeps_retire _ _ _ (keeps_refetch _ h)
  · exact keeps_trap _ g
  · exact keeps_trap _ h
  · exact keeps_enterTrap _ _ _ (keeps_retire _ _ _ h)
  · exact keeps_idle h
  · exact h

/-- An instruction that completes, waits or traps leaves the same core, if its effect does. -/
theorem keeps_issue {i : Instr} {f : Fields} {eff : State → Eff} {s t : State} (he : ∀ v, Keeps s v → (eff v).Keeps s)
    (h : issue i f eff s = .next t) : Keeps s t := by
  have r := Keeps.refl s
  have h₁ : Keeps s (s.atIssue i f) := keeps_atIssue _ _ r
  have h₂ := keeps_finish (i := i) (f := f) (he _ r) r
  have h₃ := keeps_finish (i := i) (f := f) (he _ h₁) h₁
  rw [issue] at h
  generalize (eff s).finish i f s = a at h h₂
  generalize s.atIssue i f = v at h h₁ h₃
  dsimp only at h
  generalize (eff v).finish i f v = b at h h₃
  by_cases hp : (!s.pkg.power) = true
  · rw [if_pos hp] at h; cases h
  rw [if_neg hp] at h
  by_cases hw : s.waitServed = true
  · rw [if_pos hw] at h; exact (Host.Outcome.next.inj h) ▸ h₂
  rw [if_neg hw] at h
  by_cases ha : s.awaits (i.names f s) = true
  · rw [if_pos ha] at h; exact (Host.Outcome.next.inj h) ▸ keeps_idle r
  rw [if_neg ha] at h
  generalize i.checks f v = c at h
  cases c with
  | some x => exact (Host.Outcome.next.inj h) ▸ keeps_trap _ h₁
  | none =>
    dsimp only at h
    generalize v.badSource i f = d at h
    cases d with
    | some x => exact (Host.Outcome.next.inj h) ▸ keeps_trap _ h₁
    | none => exact (Host.Outcome.next.inj h) ▸ Keeps.ite (fun _ => h₃) fun _ => keeps_retire _ _ _ h₁

theorem keeps_latch  (h : Keeps s u) : Keeps s (State.latch u) := by
  unfold State.latch
  try dsimp only
  repeat' first
    | with_reducible assumption | with_reducible fail_if_no_progress refine Keeps.upd ?_ rfl | split

/-- An event that happens leaves the same core, if the change it makes does. -/
theorem keeps_event {g : State → State} {s t : State} (he : Keeps s (g s)) (h : event g s = .next t) : Keeps s t := by
  unfold event at h
  split at h
  · cases h; exact Keeps.upd (keeps_latch he) rfl
  · cases h

end Sys2Proof.Machine
end

