-- ==== Sys2Proof/Laws/Operands.lean ====
section
/-! SUPPORT. The operand forms: a source that delivers, a destination that accepts, and flags that trap nothing (R28, R29, R68). -/

namespace Sys2Proof.Machine

/-- No raised flag is enabled: no trap 0x0E. -/
theorem fpTrap_none {s : State} {fl : Flags} (h : fl &&& s.enables = 0) : s.fpTrap fl = none := by simp [State.fpTrap, h]

/-- A raised flag that is enabled traps with every flag. -/
theorem fpTrap_some {s : State} {fl : Flags} (h : fl &&& s.enables ≠ 0) : s.fpTrap fl = some (0x0E, fl.zeroExtend 64) := by
  unfold State.fpTrap
  rw [if_pos (by simpa using h)]

/-- One source that delivers. -/
theorem withSource_delivers {w : Nat} {o : Operand} {u v : State} {x : Vec} (k : State → Vec → Eff) (h : u.delivers w o v x) :
    withSource w o u k = k v x := by
  unfold withSource
  unfold State.delivers at h
  cases ho : o.stream with
  | none => rw [ho] at h; obtain ⟨rfl, rfl⟩ := h; rfl
  | some q => rw [ho] at h; dsimp only at h ⊢; rw [h]

/-- Two sources that deliver, A first. -/
theorem withSources_delivers {w : Nat} {a b : Operand} {u v m : State} {x y : Vec} (k : State → Vec → Vec → Eff)
    (h : u.delivers w a v x) (g : v.delivers w b m y) : withSources w a b u k = k m x y := by
  unfold withSources
  unfold State.delivers at h g
  cases ha : a.stream <;> cases hb : b.stream <;> simp only [ha, hb] at h g ⊢ <;> simp_all

/-- A field that is not used delivers without an effect. -/
theorem delivers_lit (w : Nat) (u : State) : u.delivers w .lit u (u.vsrc w .lit) := ⟨rfl, rfl⟩

/-- A vector destination that accepts. -/
theorem setV_accepts {s₀ m t : State} {lat : Option Nat} {o : Operand} {mask x : Vec} (h : m.accepts lat o mask x t) :
    s₀.setV lat o mask x m = .ok t := by
  unfold State.setV
  unfold State.accepts at h
  cases ho : o.stream with
  | none => rw [ho] at h; subst h; cases lat <;> rfl
  | some q => rw [ho] at h; obtain ⟨y, h⟩ := h; dsimp only; rw [h]

/-- A destination that is no stream. -/
theorem withDest_register {s₀ s : State} {o : Operand} {k : Eff} (h : o.stream = none) : withDest s₀ o s k = k := by
  unfold withDest; rw [h]

/-- A float vector result with no raised flag enabled. -/
theorem fpVector_accepts {s₀ m t : State} {lat : Option Nat} {o : Operand} {mask x : Vec} {fl : Flags}
    (hf : fl &&& m.enables = 0) (h : m.accepts lat o mask x t) : fpVector s₀ lat o mask x fl m = .ok (t.raiseFlags lat fl) := by
  unfold fpVector
  rw [fpTrap_none hf, setV_accepts h]

/-- A float scalar result with no raised flag enabled. -/
theorem fpScalar_ok {s : State} {lat : Option Nat} {o : Operand} {r : Nat × Flags} (h : r.2 &&& s.enables = 0) :
    fpScalar lat o r s = .ok ((s.setS lat o (BitVec.ofNat 64 r.1)).raiseFlags lat r.2) := by
  unfold fpScalar; rw [fpTrap_none h]

/-- A read of global memory or scratchpad by a context that is no shadow. -/
theorem reading_own {x : Nat} {k : State → Nat → Eff} {s : State} (h : s.isShadow = false) : reading x k s = k s x := by
  simp [reading, h]

end Sys2Proof.Machine
end

