-- ==== Sys2Proof/Laws/Station.lean ====
section
/-! SUPPORT. Accesses that a station accepts: loads and stores (R81, R99, R126). -/

namespace Sys2Proof.Machine

/-- An accepted access goes on in the state at its station. -/
theorem station_accepted {u : State} {returns : Bool} {span : Nat} {find : State → Except Trap Reached} {r : Reached}
    {k : State → Reached → Eff} (h : accepted u returns span find r) : station returns span find u k = k (atStation u r) r := by
  obtain ⟨h1, h2, h3, h4⟩ := h
  unfold station
  rw [if_neg (by cases returns <;> simp_all)]
  dsimp only
  rw [h2]; dsimp only
  rw [h3]; dsimp only
  rw [if_neg]
  · rfl
  · simp only [Bool.and_eq_true, bne_iff_ne, List.any_eq_true]
    rintro ⟨h0, p, hp, hg⟩
    rw [h4 h0 p hp] at hg
    exact Bool.noConfusion hg

/-- A load that converts nothing, or with no enable set, joins the outstanding accesses. -/
theorem acceptLoad_ok {ea : Word} {ty : Option (BitVec 5)} {lw : Nat} {dest : Dest} {v : State} {r : Reached}
    (hs : v.isShadow = false) (hc : v.enables = 0 ∨ ty = none ∨ r.fmt = 0x1F ∨ ty = some r.fmt) :
    acceptLoad ea ty lw dest v r = .ok (v.enqueue (access v ea .load r ty lw dest (v.tableFor r.fmt))) := by
  unfold acceptLoad
  rw [if_neg (by simp [hs])]
  dsimp only
  rw [if_neg]
  · rfl
  · rcases hc with h | h | h | h
    · simp [h]
    · simp [h]
    · cases ty <;> simp [h]
    · simp [h]

/-- The data of a store of integers raise no flag. -/
theorem storeParts_none (fmt : BitVec 5) (top : Bool) (rm : BitVec 3) (g : Nat → Nat) (ps : List Part) :
    (storeParts none fmt top rm g ps).2 = 0 := by
  induction ps with
  | nil => rfl
  | cons p ps ih => unfold storeParts at ih ⊢; simp only [List.foldr_cons]; rw [ih]; rfl

/-- A store of lanes with no raised flag enabled. -/
theorem storeLanes_ok {ea : Word} {ty : Option (BitVec 5)} {g : Nat → Nat} {v : State} {r : Reached}
    (h : (storeParts ty r.fmt v.top v.rmode g r.parts).2 &&& v.enables = 0) :
    storeLanes ea ty g v r = .ok ((acceptStore ea (storeParts ty r.fmt v.top v.rmode g r.parts).1 v).raiseFlags (some 1)
      (storeParts ty r.fmt v.top v.rmode g r.parts).2) := by
  unfold storeLanes; dsimp only; rw [fpTrap_none h]

/-! ### Lanes -/

theorem alone_iff {s : State} : s.alone = true ↔ s.outside = [] ∧ s.cl.jobs = [] ∧ s.cl.xeng.flying = [] := by
  simp [State.alone, and_assoc]

theorem laneWrite_alone (n : Nat) (a : Word) (x : Nat) (s : State) : (s.laneWrite n a x).alone = s.alone := by
  have h : ∀ pl t, (State.lwrite pl a.toNat n x t).alone = t.alone := by
    intro pl t
    unfold State.lwrite
    split
    · unfold State.patchJobs
      split
      · rfl
      · simp [State.alone, State.storeWrite]
    · rfl
    · rfl
  have g : ∀ t, (State.sign a.toNat n x t).alone = t.alone := by
    intro t; unfold State.sign; split <;> rfl
  unfold State.laneWrite
  split
  · unfold State.dataWrite State.writing
    split
    · dsimp only
      split
      · exact g s
      · exact (h _ _).trans (g s)
    · exact h _ s
  · rfl

/-- With no other agent near, the lanes read are what stands there. -/
theorem readLanes_alone (n : Nat) (lanes : List (Nat × Word)) {s : State} (h : s.alone = true) :
    s.readLanes n lanes = (s, lanes.map fun l => (l.1, s.laneRead n l.2)) := by
  induction lanes with
  | nil => rfl
  | cons l rest ih =>
    have : (if newEvent l rest then s.meanwhile else s) = s := by split <;> simp [State.meanwhile, h]
    simp [State.readLanes, this, ih]

/-- With no other agent near, lanes are written one after the other. -/
theorem writeLanes_alone (w : Nat) (x : Vec) (lanes : List (Nat × Word)) {s : State} (h : s.alone = true) :
    s.writeLanes w x lanes = lanes.foldl (fun s l => s.laneWrite (w / 8) l.2 (lane x l.1 w)) s := by
  induction lanes generalizing s with
  | nil => rfl
  | cons l rest ih =>
    have ht := (laneWrite_alone (w / 8) l.2 (lane x l.1 w) s).trans h
    have : (if newEvent l rest then (s.laneWrite (w / 8) l.2 (lane x l.1 w)).meanwhile
        else s.laneWrite (w / 8) l.2 (lane x l.1 w)) = s.laneWrite (w / 8) l.2 (lane x l.1 w) := by
      split <;> simp [State.meanwhile, ht]
    rw [State.writeLanes, this, ih ht]
    rfl

/-- A local load whose lanes pass their checks writes what they read; a shadow's own scratchpad read is its primary's (R312). -/
theorem localLoad_own {f : Fields} {form : LocalForm} {lanes : List (Nat × Word)} {s : State}
    (hc : s.laneChecks (selWidth f.sel / 8) false lanes = none)
    (hs : anySpad (selWidth f.sel / 8) lanes = false ∨ (s.caughtUp.readLanes (selWidth f.sel / 8) lanes).1.isShadow = false) :
    let r := s.caughtUp.readLanes (selWidth f.sel / 8) lanes
    let x := packLanes (selWidth f.sel) r.2
    localLoad f form lanes s = .ok (lanesTo f form lanes x.2 x.1 r.1) := by
  intro r x
  unfold localLoad
  dsimp only
  rw [hc]
  dsimp only
  split
  · next hp =>
    have e : r.1.isShadow = false := hs.resolve_left (by rw [hp]; simp)
    refine (reading_own e).trans ?_
    rw [BitVec.ofNat_toNat, BitVec.setWidth_eq]
  · rfl

/-- A local load with a lane that fails its checks traps. -/
theorem localLoad_trap {f : Fields} {form : LocalForm} {lanes : List (Nat × Word)} {s : State} {t : Trap}
    (hc : s.laneChecks (selWidth f.sel / 8) false lanes = some t) : localLoad f form lanes s = .trap t := by
  unfold localLoad
  dsimp only
  rw [hc]

/-- A local store whose lanes pass their checks and meet no Kiln command's source writes them in lane order. -/
theorem localStore_ok {s₀ s : State} {f : Fields} {x : Vec} {lanes : List (Nat × Word)}
    (hc : s.laneChecks (selWidth f.sel / 8) true lanes = none)
    (hh : (lanes.any fun l => (lplace l.2.toNat (selWidth f.sel / 8)).any fun pl => s.storeHeld pl l.2.toNat (selWidth f.sel / 8)) = false) :
    localStore s₀ f x lanes s = .ok (s.caughtUp.writeLanes (selWidth f.sel) x lanes) := by
  unfold localStore
  dsimp only
  rw [hc]
  dsimp only
  rw [if_neg (by rw [hh]; simp)]

end Sys2Proof.Machine
end

