-- ==== Sys2Proof/Laws/Step.lean ====
section
/-! SUPPORT. What one step is, in the cases that claims speak of. -/

namespace Sys2Proof.Machine

/-- The core's turn fetches and runs the word at its pc. -/
theorem step_takesTurn {s : State} {rest : List Nat} (h : s.takesTurn rest) :
    step s = fetchAndRun s.ctx.pc (s.onTurn rest) := by
  obtain ⟨hp, hpre, ha, ht, hh, hg, hasy, hiss, hch⟩ := h
  have h1 : step s = coreStep (s.onTurn rest) := by
    simp [step, oneStep, hp, hpre, ha, agentStep, ht, State.onTurn]
  have h2 : (s.onTurn rest).cl.gear.handover = none := hh
  have h3 : (s.onTurn rest).async = none := by simpa using hasy
  have h4 : (s.onTurn rest).core.chain = s.core.chain := rfl
  rw [h1]
  simp only [coreStep, h2, hg, h3, hiss, h4]
  cases hc : s.core.chain with
  | none => rfl
  | some c => simp [hc] at hch; simp [hch]; rfl

/-- The consumer of a prefix is fetched 12 bytes on, and runs next. -/
theorem step_consumer {s : State} {p : Pfx} (hp : s.pkg.power = true) (hpre : s.core.pre = some p) :
    step s = fetchAndRun (s.ctx.pc + 12) s := by
  simp [step, oneStep, hp, hpre]

/-- A step of the outside comes first. -/
theorem step_agenda {s : State} {i : Instr} {rest : List Instr} (hp : s.pkg.power = true) (hpre : s.core.pre = none)
    (ha : s.agenda = i :: rest) : step s = exec i { s with agenda := rest } := by
  simp [step, oneStep, hp, hpre, ha]

/-- A word that decodes runs its instruction. -/
theorem fetchAndRun_ok {s : State} {a : Word} {w : IWord} {i : Instr} (hf : s.fetch a = .ok w) (hd : decodeWord w = .ok i) :
    fetchAndRun a s = exec i s := by
  unfold fetchAndRun
  rw [hf]
  simp [runWord, hd]

end Sys2Proof.Machine
end

