-- ==== Sys2Proof/Tests/Slice0.lean ====
section
/-! SUPPORT. Small tests of the model's own work: the static checks refuse what the rules refuse, words written out from the
encoding tables decode to their instructions, one step of an instruction gives what the manual's text or a calculation by hand
from it gives, and the hypotheses of the statements are met by concrete states. -/

open Sys2Proof Sys2Proof.Machine Sys2Proof.Claims

set_option Elab.async false
namespace Sys2Proof.Tests

/-- The machine after reset with a context running in kernel mode, and some scalar registers. -/
def machine (regs : List (Nat × Word)) : State :=
  { State.reset with
    core := { Core.reset with run := .running, k := true }
    ctx := { Ctx.reset with
      pc := 0x400
      regs := { Regs.reset with s := regs.foldl (fun v r => vset v r.1 r.2) Regs.reset.s } } }

/-- The same in user mode. -/
def user (regs : List (Nat × Word)) : State := let s := machine regs; { s with core := { s.core with k := false } }

/-- The machine of the readiness tests: s5 and s6 hold tile headers of region 1 and of no region, s7 a circular buffer's
configuration. -/
def bench : State := machine [(5, 0x4C81000000000000), (6, 0x0C80000000000000), (7, 0x20100100000)]

/-- What an outcome's next state satisfies. -/
def nextIs (o : Host.Outcome State Fault Refusal) (p : State → Bool) : Bool :=
  match o with | .next t => p t | _ => false

/-! ### The static checks -/

theorem test_wf_add : (Instr.add (plain 0 (.reg 3) (.reg 1) (.imm 5))).wf = true := by decide
/-- Guard 0b1111 (R18), the reserved bit 74, a selector that no row gives (R22). -/
theorem test_wf_guard : (Instr.add { plain 0 (.reg 3) (.reg 1) (.reg 2) with sense := true }).wf = false := by decide
theorem test_wf_reserved_bit : (Instr.add { plain 0 (.reg 3) (.reg 1) (.reg 2) with rsv := true }).wf = false := by decide
theorem test_wf_selector : (Instr.sext (plain 0 (.reg 3) (.reg 1) (.reg 0))).wf = false := by decide
/-- A kind or class that the field does not permit (R24 to R27), an unused field that is not zero (R25), raw bits. -/
theorem test_wf_field_D : (Instr.add (plain 0 (.imm 3) (.reg 1) (.reg 2))).wf = false := by decide
theorem test_wf_field_A : (Instr.add (plain 0 (.reg 3) (.reg 64) (.reg 2))).wf = false := by decide
theorem test_wf_field_B : (Instr.add (plain 0 (.reg 3) (.reg 1) (.loc 2))).wf = false := by decide
theorem test_wf_unused : (Instr.clz (plain 0 (.reg 3) (.reg 1) (.reg 2))).wf = false := by decide
theorem test_wf_raw : (Instr.add (plain 0 (.raw 0x80) (.reg 1) (.reg 2))).wf = false := by decide
/-- Two literals (R32), and a known value outside a limit of R411. -/
theorem test_wf_literals : (Instr.add (plain 0 (.reg 3) .lit .lit)).wf = false := by decide
theorem test_wf_limit : (Instr.bar (plain 0 (.reg 0) (.imm 16) (.reg 0))).wf = false := by decide
/-- The fixed fields and the override code of a prefix (R30). -/
def prefixWord : Pfx := ⟨7, 0, false, false, false, 0, false, true, 0, 9⟩
theorem test_wf_prefix : (Instr.pfx prefixWord).wf = true := by decide
theorem test_wf_prefix_guard : (Instr.pfx { prefixWord with guard := 6 }).wf = false := by decide
theorem test_wf_prefix_z81 : (Instr.pfx { prefixWord with z81 := 1 }).wf = false := by decide
theorem test_wf_prefix_z74 : (Instr.pfx { prefixWord with z74 := true }).wf = false := by decide
theorem test_wf_prefix_z67 : (Instr.pfx { prefixWord with z67 := 1 }).wf = false := by decide
theorem test_wf_prefix_override : (Instr.pfx { prefixWord with ovr := 6 }).wf = false := by decide
/-- The rows of one system register, and the ranges of events. -/
theorem test_wf_mts : (Instr.mts (plain 0 (.imm 2) (.reg 1) (.reg 0))).wf = false := by decide
theorem test_wf_mts_row : (Instr.mtsCycle (plain 0 (.imm 2) (.reg 1) (.reg 0))).wf = false := by decide
theorem test_wf_retired_row : (Instr.mtsRetired (plain 0 (.imm 3) (.reg 1) (.reg 0))).wf = false := by decide
theorem test_wf_sensor_row : (Instr.sensinjWrite (plain 0 (.imm 3) (.reg 1) (.reg 0))).wf = false := by decide
theorem test_wf_barrier : (Instr.barrierArrive 16 0).wf = false ∧ (Instr.barrierArrive 0 8).wf = false ∧
    (Instr.barrierMaskWrite 16 0).wf = false := by decide
theorem test_wf_mutex : (Instr.mutexLock 16 0).wf = false ∧ (Instr.mutexUnlock 0 8).wf = false ∧
    (Instr.mutexErrClear 16).wf = false := by decide
theorem test_wf_event : (Instr.eventPendWrite 32 0).wf = false ∧ (Instr.eventWait 0 8).wf = false ∧
    (Instr.streamReadAhead 8).wf = false := by decide

/-! ### Decoding: a word of every row, its opcode and fields placed as Tables 2-1, 2-4, 2-5 and 2-8 place them -/

def intWords : List (Nat × Instr) :=
  [(0x001C0200000B000001000002, .add (plain 2 (.reg 11) (.reg 1) (.reg 2))),
   (0x005C0000000B000001000002, .sub (plain 0 (.reg 11) (.reg 1) (.reg 2))),
   (0x009C0000000B000001000002, .mul (plain 0 (.reg 11) (.reg 1) (.reg 2))),
   (0x00DC0000000B000001000002, .mulh (plain 0 (.reg 11) (.reg 1) (.reg 2))),
   (0x011C0000000B000001000002, .mulhu (plain 0 (.reg 11) (.reg 1) (.reg 2))),
   (0x015C0000000B000001000002, .div (plain 0 (.reg 11) (.reg 1) (.reg 2))),
   (0x019C0000000B000001000002, .divu (plain 0 (.reg 11) (.reg 1) (.reg 2))),
   (0x01DC0000000B000001000002, .rem (plain 0 (.reg 11) (.reg 1) (.reg 2))),
   (0x021C0000000B000001000002, .remu (plain 0 (.reg 11) (.reg 1) (.reg 2))),
   (0x025C0000000B000001000002, .andOp (plain 0 (.reg 11) (.reg 1) (.reg 2))),
   (0x029C0000000B000001000002, .orOp (plain 0 (.reg 11) (.reg 1) (.reg 2))),
   (0x02DC0000000B000001000002, .xor (plain 0 (.reg 11) (.reg 1) (.reg 2))),
   (0x031C0000000B000001000002, .andn (plain 0 (.reg 11) (.reg 1) (.reg 2))),
   (0x035C0000000B000001000002, .shl (plain 0 (.reg 11) (.reg 1) (.reg 2))),
   (0x039C0000000B000001000002, .shr (plain 0 (.reg 11) (.reg 1) (.reg 2))),
   (0x03DC0000000B000001000002, .sar (plain 0 (.reg 11) (.reg 1) (.reg 2))),
   (0x041C0000000B000001000002, .rotl (plain 0 (.reg 11) (.reg 1) (.reg 2))),
   (0x045C0000000B000001000000, .clz (plain 0 (.reg 11) (.reg 1) (.reg 0))),
   (0x049C0000000B000001000000, .ctz (plain 0 (.reg 11) (.reg 1) (.reg 0))),
   (0x04DC0000000B000001000000, .popc (plain 0 (.reg 11) (.reg 1) (.reg 0)))]

def movesWords : List (Nat × Instr) :=
  [(0x051C0000000B000001000002, .min (plain 0 (.reg 11) (.reg 1) (.reg 2))),
   (0x055C0000000B000001000002, .max (plain 0 (.reg 11) (.reg 1) (.reg 2))),
   (0x059C0000000B000001000002, .minu (plain 0 (.reg 11) (.reg 1) (.reg 2))),
   (0x05DC0000000B000001000002, .maxu (plain 0 (.reg 11) (.reg 1) (.reg 2))),
   (0x061C0000000B000001000000, .abs (plain 0 (.reg 11) (.reg 1) (.reg 0))),
   (0x065C0000000B000001000000, .neg (plain 0 (.reg 11) (.reg 1) (.reg 0))),
   (0x069C0100000B000001000000, .sext (plain 1 (.reg 11) (.reg 1) (.reg 0))),
   (0x06DC0100000B000001000000, .zext (plain 1 (.reg 11) (.reg 1) (.reg 0))),
   (0x071C0000000B000001000002, .bfx (plain 0 (.reg 11) (.reg 1) (.reg 2))),
   (0x075C0000000B000001000002, .bfi (plain 0 (.reg 11) (.reg 1) (.reg 2))),
   (0x079C0000000B000001000002, .lea (plain 0 (.reg 11) (.reg 1) (.reg 2))),
   (0x07DC0000000B7FFFFF000000, .mov (plain 0 (.reg 11) (.imm 0x3FFFFF) (.reg 0))),
   (0x081C0000000B000001000002, .sel (plain 0 (.reg 11) (.reg 1) (.reg 2))),
   (0x085C00400022000001000002, .cmp (plain 0 (.imm 0x22) (.reg 1) (.reg 2))),
   (0x089C00400081000001000002, .plog (plain 0 (.imm 0x81) (.reg 1) (.reg 2)))]

def floatWords : List (Nat × Instr) :=
  [(0x101C0200000B000001000002, .fadd (plain 2 (.reg 11) (.reg 1) (.reg 2))),
   (0x105C0000000B000001000002, .fsub (plain 0 (.reg 11) (.reg 1) (.reg 2))),
   (0x109C0000000B000001000002, .fmul (plain 0 (.reg 11) (.reg 1) (.reg 2))),
   (0x10DC0000000B000001000002, .ffma (plain 0 (.reg 11) (.reg 1) (.reg 2))),
   (0x111C0000000B000001000002, .fdiv (plain 0 (.reg 11) (.reg 1) (.reg 2))),
   (0x115C0000000B000001000000, .fsqrt (plain 0 (.reg 11) (.reg 1) (.reg 0))),
   (0x119C0000000B000001000002, .fmin (plain 0 (.reg 11) (.reg 1) (.reg 2))),
   (0x11DC0000000B000001000002, .fmax (plain 0 (.reg 11) (.reg 1) (.reg 2))),
   (0x121C00400032000001000002, .fcmp (plain 0 (.imm 0x32) (.reg 1) (.reg 2))),
   (0x125C0000000B000001400A09, .fcvt (plain 0 (.reg 11) (.reg 1) (.imm 0xA09))),
   (0x129C0000000B000001400005, .fcvti (plain 0 (.reg 11) (.reg 1) (.imm 0x5))),
   (0x12DC0000000B000001400004, .icvtf (plain 0 (.reg 11) (.reg 1) (.imm 0x4))),
   (0x131C0000000B000001000000, .fclass (plain 0 (.reg 11) (.reg 1) (.reg 0))),
   (0x135C0000000B000001000000, .fabs (plain 0 (.reg 11) (.reg 1) (.reg 0))),
   (0x139C0000000B000001000000, .fneg (plain 0 (.reg 11) (.reg 1) (.reg 0)))]

def memoryWords : List (Nat × Instr) :=
  [(0x181C0200000B000001400008, .ldl (plain 2 (.reg 11) (.reg 1) (.imm 0x8))),
   (0x185C0000000B000001400008, .stl (plain 0 (.reg 11) (.reg 1) (.imm 0x8))),
   (0x189C0200000B000001000002, .ldg (plain 2 (.reg 11) (.reg 1) (.reg 2))),
   (0x18DC0200000B000001000002, .stg (plain 2 (.reg 11) (.reg 1) (.reg 2))),
   (0x191C00000000000001000002, .pref (plain 0 (.reg 0) (.reg 1) (.reg 2))),
   (0x201C00000000400018000000, .br (plain 0 (.reg 0) (.imm 0x18) (.reg 0))),
   (0x205C00000000800600000000, .call (plain 0 (.reg 0) (.loc 0x600) (.reg 0))),
   (0x209C00000000000000000000, .ret (plain 0 (.reg 0) (.reg 0) (.reg 0))),
   (0x20DC00000000800600000000, .jmp (plain 0 (.reg 0) (.loc 0x600) (.reg 0))),
   (0x211C0000000B7FFFF4000000, .loop (plain 0 (.reg 11) (.imm 0x3FFFF4) (.reg 0))),
   (0x215C00000000400003400001, .rep (plain 0 (.reg 0) (.imm 0x3) (.imm 0x1))),
   (0x219C00000000000000000000, .nop (plain 0 (.reg 0) (.reg 0) (.reg 0))),
   (0x21DC00000000400007000000, .stop (plain 0 (.reg 0) (.imm 0x7) (.reg 0)))]

def vectorIntWords : List (Nat × Instr) :=
  [(0x401C02000042000043000044, .vadd (plain 2 (.reg 66) (.reg 67) (.reg 68))),
   (0x405C00000042000043000044, .vsub (plain 0 (.reg 66) (.reg 67) (.reg 68))),
   (0x409C00000042000043000044, .vmul (plain 0 (.reg 66) (.reg 67) (.reg 68))),
   (0x40DC00000042000043000044, .vmulh (plain 0 (.reg 66) (.reg 67) (.reg 68))),
   (0x411C00000042000043000044, .vmin (plain 0 (.reg 66) (.reg 67) (.reg 68))),
   (0x415C00000042000043000044, .vmax (plain 0 (.reg 66) (.reg 67) (.reg 68))),
   (0x419C00000042000043000044, .vand (plain 0 (.reg 66) (.reg 67) (.reg 68))),
   (0x41DC00000042000043000044, .vor (plain 0 (.reg 66) (.reg 67) (.reg 68))),
   (0x421C00000042000043000044, .vxor (plain 0 (.reg 66) (.reg 67) (.reg 68))),
   (0x425C00000042000043000044, .vshl (plain 0 (.reg 66) (.reg 67) (.reg 68))),
   (0x429C00000042000043000044, .vshr (plain 0 (.reg 66) (.reg 67) (.reg 68))),
   (0x42DC00000042000043000044, .vsar (plain 0 (.reg 66) (.reg 67) (.reg 68))),
   (0x431C00000042000043000000, .vabs (plain 0 (.reg 66) (.reg 67) (.reg 0))),
   (0x435C00000042000043000000, .vneg (plain 0 (.reg 66) (.reg 67) (.reg 0))),
   (0x439C00400022000043000044, .vcmp (plain 0 (.imm 0x22) (.reg 67) (.reg 68))),
   (0x43DC00000042000068000044, .vsel (plain 0 (.reg 66) (.reg 104) (.reg 68))),
   (0x441C00000042000043000044, .vclamp (plain 0 (.reg 66) (.reg 67) (.reg 68)))]

def vectorFloatWords : List (Nat × Instr) :=
  [(0x481C00000042000043000044, .vfadd (plain 0 (.reg 66) (.reg 67) (.reg 68))),
   (0x485C00000042000043000044, .vfsub (plain 0 (.reg 66) (.reg 67) (.reg 68))),
   (0x489C00000042000043000044, .vfmul (plain 0 (.reg 66) (.reg 67) (.reg 68))),
   (0x48DC00000042000043000044, .vfma (plain 0 (.reg 66) (.reg 67) (.reg 68))),
   (0x491C00000042000043000044, .vfdiv (plain 0 (.reg 66) (.reg 67) (.reg 68))),
   (0x495C00000042000043000000, .vfsqrt (plain 0 (.reg 66) (.reg 67) (.reg 0))),
   (0x499C00000042000043000000, .vfrsq (plain 0 (.reg 66) (.reg 67) (.reg 0))),
   (0x49DC00000042000043000000, .vfexp2 (plain 0 (.reg 66) (.reg 67) (.reg 0))),
   (0x4A1C00000042000043000000, .vflog2 (plain 0 (.reg 66) (.reg 67) (.reg 0))),
   (0x4A5C00000042000043000044, .vfmin (plain 0 (.reg 66) (.reg 67) (.reg 68))),
   (0x4A9C00000042000043000044, .vfmax (plain 0 (.reg 66) (.reg 67) (.reg 68))),
   (0x4ADC00400032000043000044, .vfcmp (plain 0 (.imm 0x32) (.reg 67) (.reg 68)))]

def vectorMovesWords : List (Nat × Instr) :=
  [(0x501C00000042000043410A09, .vcvt (plain 0 (.reg 66) (.reg 67) (.imm 0x10A09))),
   (0x505C01000042000043000044, .vpack (plain 1 (.reg 66) (.reg 67) (.reg 68))),
   (0x509C00000042000043400002, .vunpk (plain 0 (.reg 66) (.reg 67) (.imm 0x2))),
   (0x50DC00000042000043000044, .vshuf (plain 0 (.reg 66) (.reg 67) (.reg 68))),
   (0x511C00000042000043000002, .vbcast (plain 0 (.reg 66) (.reg 67) (.reg 2))),
   (0x515C0000000B000043000002, .vextr (plain 0 (.reg 11) (.reg 67) (.reg 2))),
   (0x519C00000042000001000002, .vins (plain 0 (.reg 66) (.reg 1) (.reg 2))),
   (0x51DC0000000B000043400004, .vred (plain 0 (.reg 11) (.reg 67) (.imm 0x4))),
   (0x521C00000042000043400000, .vscan (plain 0 (.reg 66) (.reg 67) (.imm 0x0))),
   (0x525C00000042000043000002, .vqnt (plain 0 (.reg 66) (.reg 67) (.reg 2))),
   (0x529C00000042000043000002, .vdqnt (plain 0 (.reg 66) (.reg 67) (.reg 2))),
   (0x52DC02000042000043000002, .vcbd (plain 2 (.reg 66) (.reg 67) (.reg 2))),
   (0x52DC00000000900000400001, .vcbdLt (plain 0 (.reg 0) (.loc 0x100000) (.imm 0x1))),
   (0x531C0000000B000001000000, .lsupd (plain 0 (.reg 11) (.reg 1) (.reg 0)))]

def vectorMemoryWords : List (Nat × Instr) :=
  [(0x581C00000042000001000002, .vldl (plain 0 (.reg 66) (.reg 1) (.reg 2))),
   (0x585C00000042000001000002, .vstl (plain 0 (.reg 66) (.reg 1) (.reg 2))),
   (0x589C02000042000001000002, .vldg (plain 2 (.reg 66) (.reg 1) (.reg 2))),
   (0x58DC00000042000001000002, .vstg (plain 0 (.reg 66) (.reg 1) (.reg 2))),
   (0x591C00000042000001000044, .vgath (plain 0 (.reg 66) (.reg 1) (.reg 68))),
   (0x595C00000042000001000044, .vscat (plain 0 (.reg 66) (.reg 1) (.reg 68))),
   (0x599C00000060000001000002, .scfg (plain 0 (.reg 96) (.reg 1) (.reg 2))),
   (0x59DC0000000B000060000000, .sstat (plain 0 (.reg 11) (.reg 96) (.reg 0))),
   (0x59DC0100000B000060000000, .sstatDrain (plain 1 (.reg 11) (.reg 96) (.reg 0)))]

def kilnWords : List (Nat × Instr) :=
  [(0x801C00400100000001000000, .kldb (plain 0 (.imm 0x100) (.reg 1) (.reg 0))),
   (0x805C00000002000006400100, .kmul (plain 0 (.reg 2) (.reg 6) (.imm 0x100))),
   (0x809C00000002000006400100, .kmulb (plain 0 (.reg 2) (.reg 6) (.imm 0x100))),
   (0x80DC00000042000002400003, .kmovR (plain 0 (.reg 66) (.reg 2) (.imm 0x3))),
   (0x80DC01000002000043400003, .kmovW (plain 1 (.reg 2) (.reg 67) (.imm 0x3))),
   (0x80DC02000042000002400003, .kmovRz (plain 2 (.reg 66) (.reg 2) (.imm 0x3))),
   (0x811C00000000000001000000, .kzero (plain 0 (.reg 0) (.reg 1) (.reg 0))),
   (0x815C00000000000001000000, .kcfg (plain 0 (.reg 0) (.reg 1) (.reg 0))),
   (0x819C0000000B000000000000, .kstat (plain 0 (.reg 11) (.reg 0) (.reg 0))),
   (0x819C0100000B000000000000, .kstatJ (plain 1 (.reg 11) (.reg 0) (.reg 0))),
   (0x819C0200000B000000000000, .kstatJc (plain 2 (.reg 11) (.reg 0) (.reg 0))),
   (0x81DC00000000000000000000, .ksync (plain 0 (.reg 0) (.reg 0) (.reg 0))),
   (0x841C00000000000005400001, .knorm (plain 0 (.reg 0) (.reg 5) (.imm 0x1))),
   (0x841C01000000400002000000, .knormRel (plain 1 (.reg 0) (.imm 0x2) (.reg 0))),
   (0x845C00000002000006400100, .kest (plain 0 (.reg 2) (.reg 6) (.imm 0x100))),
   (0x849C0000000B000002000000, .kevar (plain 0 (.reg 11) (.reg 2) (.reg 0))),
   (0x84DC00000000000001000002, .kseed (plain 0 (.reg 0) (.reg 1) (.reg 2))),
   (0x84DC01000000000001000000, .kseedTc (plain 1 (.reg 0) (.reg 1) (.reg 0))),
   (0x851C00000000000001000002, .klim (plain 0 (.reg 0) (.reg 1) (.reg 2)))]

def copyWords : List (Nat × Instr) :=
  [(0x881C0000000B000001000002, .cpost (plain 0 (.reg 11) (.reg 1) (.reg 2))),
   (0x885C0000000B000001000002, .cgath (plain 0 (.reg 11) (.reg 1) (.reg 2))),
   (0x889C0000000B000001000002, .cwin (plain 0 (.reg 11) (.reg 1) (.reg 2))),
   (0x88DC00000000000001000002, .clink (plain 0 (.reg 0) (.reg 1) (.reg 2))),
   (0x891C00400002000007000000, .cbinit (plain 0 (.imm 0x2) (.reg 7) (.reg 0))),
   (0x895C00000000400002000002, .cbput (plain 0 (.reg 0) (.imm 0x2) (.reg 2))),
   (0x899C0000000B400002000000, .cbget (plain 0 (.reg 11) (.imm 0x2) (.reg 0))),
   (0x89DC00000042000000000000, .mbxr (plain 0 (.reg 66) (.reg 0) (.reg 0))),
   (0x89DC01000042000000000000, .mbxrT (plain 1 (.reg 66) (.reg 0) (.reg 0)))]

def orderWords : List (Nat × Instr) :=
  [(0x901C00000000000001400040, .tdeclR (plain 0 (.reg 0) (.reg 1) (.imm 0x40))),
   (0x901C01000000000001400040, .tdeclW (plain 1 (.reg 0) (.reg 1) (.imm 0x40))),
   (0x901C02000000000000000000, .tdeclClr (plain 2 (.reg 0) (.reg 0) (.reg 0))),
   (0x905C0000000B000000000000, .tsub (plain 0 (.reg 11) (.reg 0) (.reg 0))),
   (0x905C0100000B000000000000, .tsubD (plain 1 (.reg 11) (.reg 0) (.reg 0))),
   (0x909C00000000000000000000, .tend (plain 0 (.reg 0) (.reg 0) (.reg 0))),
   (0x909C01000000000000000000, .tendG (plain 1 (.reg 0) (.reg 0) (.reg 0))),
   (0x90DC0000000B000000000000, .tstat (plain 0 (.reg 11) (.reg 0) (.reg 0))),
   (0x90DC0100000B000000000000, .tstatW (plain 1 (.reg 11) (.reg 0) (.reg 0)))]

def atomicWords : List (Nat × Instr) :=
  [(0x981C0000000B000001000002, .aadd (plain 0 (.reg 11) (.reg 1) (.reg 2))),
   (0x985C0000000B000001000002, .aand (plain 0 (.reg 11) (.reg 1) (.reg 2))),
   (0x989C0000000B000001000002, .aor (plain 0 (.reg 11) (.reg 1) (.reg 2))),
   (0x98DC0000000B000001000002, .axor (plain 0 (.reg 11) (.reg 1) (.reg 2))),
   (0x991C0000000B000001000002, .amin (plain 0 (.reg 11) (.reg 1) (.reg 2))),
   (0x995C0000000B000001000002, .amax (plain 0 (.reg 11) (.reg 1) (.reg 2))),
   (0x999C0000000B000001000002, .aminu (plain 0 (.reg 11) (.reg 1) (.reg 2))),
   (0x99DC0000000B000001000002, .amaxu (plain 0 (.reg 11) (.reg 1) (.reg 2))),
   (0x9A1C0000000B000001000002, .afadd (plain 0 (.reg 11) (.reg 1) (.reg 2))),
   (0x9A5C0000000B000001000002, .afmin (plain 0 (.reg 11) (.reg 1) (.reg 2))),
   (0x9A9C0000000B000001000002, .afmax (plain 0 (.reg 11) (.reg 1) (.reg 2))),
   (0x9ADC0000000B000001000002, .aswp (plain 0 (.reg 11) (.reg 1) (.reg 2))),
   (0x9B1C0000000B000001000002, .acas (plain 0 (.reg 11) (.reg 1) (.reg 2))),
   (0x9B5C0000000B000001000002, .reda (plain 0 (.reg 11) (.reg 1) (.reg 2)))]

def waitsWords : List (Nat × Instr) :=
  [(0x9B9C0000000B000001000000, .take (plain 0 (.reg 11) (.reg 1) (.reg 0))),
   (0x9B9C0100000B000001000000, .takeK (plain 1 (.reg 11) (.reg 1) (.reg 0))),
   (0x9BDC0000000B000001000002, .put (plain 0 (.reg 11) (.reg 1) (.reg 2))),
   (0x9C1C0000000B000001000002, .mwait (plain 0 (.reg 11) (.reg 1) (.reg 2))),
   (0x9C5C0000000B400005000000, .evwait (plain 0 (.reg 11) (.imm 0x5) (.reg 0))),
   (0x9C9C00000000400005000000, .evsig (plain 0 (.reg 0) (.imm 0x5) (.reg 0))),
   (0x9C9C01000000400005400000, .evsigR (plain 1 (.reg 0) (.imm 0x5) (.imm 0x0))),
   (0x9CDC00000000400003000000, .bar (plain 0 (.reg 0) (.imm 0x3) (.reg 0))),
   (0x9CDC01000000000000000000, .barG (plain 1 (.reg 0) (.reg 0) (.reg 0))),
   (0x9D1C00000000400001000000, .fence (plain 0 (.reg 0) (.imm 0x1) (.reg 0)))]

def tasksWords : List (Nat × Instr) :=
  [(0xC41C00000000802000000000, .post (plain 0 (.reg 0) (.loc 0x2000) (.reg 0))),
   (0xC45C00000000400004000000, .texit (plain 0 (.reg 0) (.imm 0x4) (.reg 0))),
   (0xC49C00000000000000000000, .slave (plain 0 (.reg 0) (.reg 0) (.reg 0))),
   (0xC49C01000000400002000000, .slaveL (plain 1 (.reg 0) (.imm 0x2) (.reg 0))),
   (0xC4DC00000000000000000000, .detach (plain 0 (.reg 0) (.reg 0) (.reg 0))),
   (0xC51C00000000801000400002, .xrun (plain 0 (.reg 0) (.loc 0x1000) (.imm 0x2))),
   (0xC55C0000000B000000000000, .xwait (plain 0 (.reg 11) (.reg 0) (.reg 0))),
   (0xC55C0100000B000000000000, .xwaitE (plain 1 (.reg 11) (.reg 0) (.reg 0))),
   (0xC59C00000000000001000002, .msend (plain 0 (.reg 0) (.reg 1) (.reg 2))),
   (0xC5DC00000042000000000000, .mrecv (plain 0 (.reg 66) (.reg 0) (.reg 0))),
   (0xC5DC01000042000000000000, .mrecvT (plain 1 (.reg 66) (.reg 0) (.reg 0))),
   (0xC61C0000000B000000000000, .gearF (plain 0 (.reg 11) (.reg 0) (.reg 0))),
   (0xC61C0100000B000000000000, .gearN (plain 1 (.reg 11) (.reg 0) (.reg 0))),
   (0xC65C0000000B000000000000, .taskq (plain 0 (.reg 11) (.reg 0) (.reg 0)))]

def systemWords : List (Nat × Instr) :=
  [(0xCC1C0000000B400003000000, .mfs (plain 0 (.reg 11) (.imm 0x3) (.reg 0))),
   (0xCC5C00400107000001000000, .mts (plain 0 (.imm 0x107) (.reg 1) (.reg 0))),
   (0xCC5C00400002000001000000, .mtsRetired (plain 0 (.imm 0x2) (.reg 1) (.reg 0))),
   (0xCC5C00400001000001000000, .mtsCycle (plain 0 (.imm 0x1) (.reg 1) (.reg 0))),
   (0xCC5C0040010C000001000000, .sensinjWrite (plain 0 (.imm 0x10C) (.reg 1) (.reg 0))),
   (0xCC9C0000000040000D000002, .trap (plain 0 (.reg 0) (.imm 0xD) (.reg 2))),
   (0xCCDC00000000400033000000, .sysc (plain 0 (.reg 0) (.imm 0x33) (.reg 0))),
   (0xCD1C00000000000000000000, .eret (plain 0 (.reg 0) (.reg 0) (.reg 0))),
   (0xCD5C00000000400001000000, .ctxsv (plain 0 (.reg 0) (.imm 0x1) (.reg 0))),
   (0xCD5C01000000000001000000, .ctxsvCl (plain 1 (.reg 0) (.reg 1) (.reg 0))),
   (0xCD9C00000000000000000000, .ctxld (plain 0 (.reg 0) (.reg 0) (.reg 0))),
   (0xCD9C01000000000001000000, .ctxldCl (plain 1 (.reg 0) (.reg 1) (.reg 0))),
   (0xCDDC00000000000001000002, .stinvVa (plain 0 (.reg 0) (.reg 1) (.reg 2))),
   (0xCDDC01000000000001000000, .stinvPid (plain 1 (.reg 0) (.reg 1) (.reg 0))),
   (0xCDDC02000000000000000000, .stinvAll (plain 2 (.reg 0) (.reg 0) (.reg 0))),
   (0xCE1C00000000400044000000, .brk (plain 0 (.reg 0) (.imm 0x44) (.reg 0))),
   (0xCE5C00000000400055000000, .tmark (plain 0 (.reg 0) (.imm 0x55) (.reg 0)))]

/-- Each word decodes to its instruction, which is well-formed and encodes to that word. -/
def decodes (xs : List (Nat × Instr)) : Bool :=
  xs.all fun x => decodeTableWord 96 x.1 = some x.2 && x.2.wf && encode x.2 = some (BitVec.ofNat 96 x.1)

theorem test_decode_int : decodes intWords = true := by decide +kernel
theorem test_decode_moves : decodes movesWords = true := by decide +kernel
theorem test_decode_float : decodes floatWords = true := by decide +kernel
theorem test_decode_memory : decodes memoryWords = true := by decide +kernel
theorem test_decode_vectorInt : decodes vectorIntWords = true := by decide +kernel
theorem test_decode_vectorFloat : decodes vectorFloatWords = true := by decide +kernel
theorem test_decode_vectorMoves : decodes vectorMovesWords = true := by decide +kernel
theorem test_decode_vectorMemory : decodes vectorMemoryWords = true := by decide +kernel
theorem test_decode_kiln : decodes kilnWords = true := by decide +kernel
theorem test_decode_copy : decodes copyWords = true := by decide +kernel
theorem test_decode_order : decodes orderWords = true := by decide +kernel
theorem test_decode_atomic : decodes atomicWords = true := by decide +kernel
theorem test_decode_waits : decodes waitsWords = true := by decide +kernel
theorem test_decode_tasks : decodes tasksWords = true := by decide +kernel
theorem test_decode_system : decodes systemWords = true := by decide +kernel
theorem test_decode_prefix : decodes [(0xC01C00100000000000000009, .pfx prefixWord)] = true := by decide +kernel

/-! ### The hypothesis that an instruction is ready -/

/-- Each instruction of the words above is ready in the machine of the readiness tests. -/
def readies (xs : List (Nat × Instr)) : Bool := xs.all fun x => x.2.fields.any fun f => bench.ready x.2 f

theorem test_ready_int : readies intWords = true := by decide +kernel
theorem test_ready_moves : readies movesWords = true := by decide +kernel
theorem test_ready_float : readies floatWords = true := by decide +kernel
theorem test_ready_memory : readies memoryWords = true := by decide +kernel
theorem test_ready_vectorInt : readies vectorIntWords = true := by decide +kernel
theorem test_ready_vectorFloat : readies vectorFloatWords = true := by decide +kernel
theorem test_ready_vectorMoves : readies vectorMovesWords = true := by decide +kernel
theorem test_ready_vectorMemory : readies vectorMemoryWords = true := by decide +kernel
theorem test_ready_kiln : readies kilnWords = true := by decide +kernel
theorem test_ready_copy : readies copyWords = true := by decide +kernel
theorem test_ready_order : readies orderWords = true := by decide +kernel
theorem test_ready_atomic : readies atomicWords = true := by decide +kernel
theorem test_ready_waits : readies waitsWords = true := by decide +kernel
theorem test_ready_tasks : readies tasksWords = true := by decide +kernel
theorem test_ready_system : readies systemWords = true := by decide +kernel


/-! ### Results: one step each, against values worked out by hand from the manual's definitions -/

/-- What D's scalar register holds once the instruction's result has been written. -/
def gives (i : Instr) (s : State) (n : BitVec 7) : Option Word :=
  match exec i s with | .next t => some (t.settled.regs.scalar n) | _ => none

/-- What a vector register holds. -/
def givesV (i : Instr) (s : State) (n : Nat) : Option Vec :=
  match exec i s with | .next t => some (vget t.settled.regs.v n 0) | _ => none

/-- The trap that an instruction takes: its cause and value. -/
def traps (i : Instr) (s : State) : Option (Word × Word) :=
  match exec i s with | .next t => if t.ctx.pc == 0x1E000 then some (t.ctx.trap.c, t.ctx.trap.val) else none | _ => none

/-- s11 := op (s1, s2): selector, operands and result. -/
def results (xs : List ((Fields → Instr) × BitVec 2 × Word × Word × Word)) : Bool :=
  xs.all fun x => gives (x.1 (plain x.2.1 (.reg 11) (.reg 1) (.reg 2))) (machine [(1, x.2.2.1), (2, x.2.2.2.1)]) 11 = some x.2.2.2.2

/-- s11 := op s1. -/
def results1 (xs : List ((Fields → Instr) × BitVec 2 × Word × Word)) : Bool :=
  xs.all fun x => gives (x.1 (plain x.2.1 (.reg 11) (.reg 1) (.reg 0))) (machine [(1, x.2.2.1), (11, 0x77)]) 11 = some x.2.2.2

/-- Table 5-3. -/
theorem test_integer_results : results
    [(.add, 3, 0xFF, 2, 0x01), (.sub, 2, 1, 2, 0xFFFF), (.mul, 1, 0xFFFFFFFF, 3, 0xFFFFFFFD),
     (.mulh, 0, 0xFFFFFFFFFFFFFFFF, 2, 0xFFFFFFFFFFFFFFFF), (.mulhu, 0, 0xFFFFFFFFFFFFFFFF, 2, 1),
     (.div, 0, 0xFFFFFFFFFFFFFFF9, 2, 0xFFFFFFFFFFFFFFFD), (.divu, 1, 0xFFFFFFF9, 2, 0x7FFFFFFC),
     (.rem, 0, 0xFFFFFFFFFFFFFFF9, 2, 0xFFFFFFFFFFFFFFFF), (.remu, 3, 0xF9, 7, 4),
     (.andOp, 0, 0xC, 0xA, 8), (.orOp, 0, 0xC, 0xA, 0xE), (.xor, 0, 0xC, 0xA, 6), (.andn, 0, 0xC, 0xA, 4)] = true := by decide +kernel
theorem test_shift_results : results
    [(.shl, 3, 0x81, 1, 0x02), (.shr, 3, 0x81, 1, 0x40), (.sar, 3, 0x81, 1, 0xC0), (.rotl, 3, 0x81, 1, 0x03),
     (.min, 3, 0x80, 1, 0x80), (.max, 3, 0x80, 1, 1), (.minu, 3, 0x80, 1, 1), (.maxu, 3, 0x80, 1, 0x80)] = true := by decide +kernel
theorem test_unary_results : results1
    [(.clz, 2, 1, 15), (.ctz, 1, 0, 32), (.popc, 0, 0xFFFFFFFFFFFFFFFF, 64), (.abs, 3, 0x80, 0x80), (.neg, 3, 1, 0xFF),
     (.sext, 3, 0x80, 0xFFFFFFFFFFFFFF80), (.zext, 2, 0x12345, 0x2345), (.mov, 3, 0x1234, 0x34)] = true := by decide +kernel
/-- R85: the divisor is read at the width, and the value of the trap is a. -/
theorem test_division_by_zero :
    traps (.div (plain 3 (.reg 11) (.reg 1) (.reg 2))) (user [(1, 0x1F9), (2, 0x100)]) = some (0x0D, 0xF9) := by decide +kernel
/-- R87 with position 4 and length 8: BFX of 0xABC, signed, and BFI of 0x12 into 0xFFFF; LEA by 4 bytes, SEL by p1 = false (R88). -/
theorem test_bfx : gives (.bfx (plain 0 (.reg 11) (.reg 1) (.imm 0x2204))) (machine [(1, 0xABC)]) 11 = some 0xFFFFFFFFFFFFFFAB := by decide +kernel
theorem test_bfi : gives (.bfi (plain 0 (.reg 11) (.reg 1) (.imm 0x204))) (machine [(1, 0x12), (11, 0xFFFF)]) 11 = some 0xF12F := by decide +kernel
theorem test_lea : gives (.lea (plain 1 (.reg 11) (.reg 1) (.reg 2))) (machine [(1, 0x1000), (2, 3)]) 11 = some 0x100C := by decide +kernel
theorem test_sel : gives (.sel (plain 1 (.reg 11) (.reg 1) (.reg 2))) (machine [(1, 5), (2, 6)]) 11 = some 6 := by decide +kernel

/-- p1 after CMP.W with signed less-than, and PLOG's "not A" of p0 = false (R89, R90). -/
theorem test_cmp : nextIs (exec (.cmp (plain 1 (.imm 0x21) (.reg 1) (.reg 2))) (machine [(1, 0xFFFFFFFF), (2, 1)]))
    (fun t => t.settled.regs.pred 1) = true := by decide +kernel
theorem test_plog : nextIs (exec (.plog (plain 0 (.imm 0x32) (.reg 0) (.reg 0))) (machine []))
    (fun t => t.settled.regs.pred 2) = true := by decide +kernel

/-- FP32: 1 + 2, 1 − 2, 1.5 × 2, 1 / 2, the larger and the smaller of 1 and 2 (R91, R92). -/
theorem test_float_results : results
    [(.fadd, 1, 0x3F800000, 0x40000000, 0x40400000), (.fsub, 1, 0x3F800000, 0x40000000, 0xBF800000),
     (.fmul, 1, 0x3FC00000, 0x40000000, 0x40400000), (.fdiv, 1, 0x3F800000, 0x40000000, 0x3F000000),
     (.fmin, 1, 0x3F800000, 0x40000000, 0x3F800000), (.fmax, 1, 0x3F800000, 0x40000000, 0x40000000)] = true := by decide +kernel
/-- √4, the class of −0 (bit 3) and of +Inf (bit 7), |−2|, −2 (R91, R96). -/
theorem test_float_unary : results1
    [(.fsqrt, 1, 0x40800000, 0x40000000), (.fclass, 1, 0x80000000, 8), (.fclass, 1, 0x7F800000, 0x80),
     (.fabs, 1, 0xC0000000, 0x40000000), (.fneg, 1, 0x40000000, 0xC0000000)] = true := by decide +kernel
/-- FFMA.W 2 × 3 + 1 = 7; FCVT of 1.0 from FP32 to FP16; FCVTI of 2.5 to INT32 by RNE; ICVTF of 3 (R91, R94, R95). -/
theorem test_ffma : gives (.ffma (plain 1 (.reg 11) (.reg 1) (.reg 2)))
    (machine [(1, 0x40000000), (2, 0x40400000), (11, 0x3F800000)]) 11 = some 0x40E00000 := by decide +kernel
theorem test_fcvt : gives (.fcvt (plain 0 (.reg 11) (.reg 1) (.imm 0xB09))) (machine [(1, 0x3F800000)]) 11 = some 0x3C00 := by decide +kernel
theorem test_fcvti : gives (.fcvti (plain 1 (.reg 11) (.reg 1) (.imm 4))) (machine [(1, 0x40200000)]) 11 = some 2 := by decide +kernel
theorem test_icvtf : gives (.icvtf (plain 1 (.reg 11) (.reg 1) (.imm 4))) (machine [(1, 3)]) 11 = some 0x40400000 := by decide +kernel
theorem test_fcmp : nextIs (exec (.fcmp (plain 1 (.imm 0x21) (.reg 1) (.reg 2))) (machine [(1, 0x3F800000), (2, 0x40000000)]))
    (fun t => t.settled.regs.pred 1) = true := by decide +kernel

/-! ### Witnesses: concrete states and operands that meet the hypotheses of the statements -/

/-- The instruction is ready, and its operands and the state in which it takes its effect satisfy `p`. -/
def holds (s : State) (i : Instr) (p : Fields → State → Bool) : Bool := i.fields.any fun f => s.ready i f && p f (s.atIssue i f)

/-- What a check answers, when it passes, satisfies `p`. -/
def passes {α : Type} (e : Except Trap α) (p : α → Bool) : Bool := match e with | .ok x => p x | .error _ => false

/-- A station accepts the access, and what it reaches satisfies `p`. -/
def acceptable (u : State) (returns : Bool) (span : Nat) (find : State → Except Trap Reached) (p : Reached → Bool) : Bool :=
  (!returns || decide (u.outstanding < 16)) && passes (find u.drainStreams) fun r =>
    (u.drainStreams.homes r.homes).isNone && (span == 0 || r.parts.all fun q => !u.drainStreams.globalHeld q.pa (max q.n span)) && p r

theorem accepted_of_acceptable {u : State} {ret : Bool} {span : Nat} {find : State → Except Trap Reached} {p : Reached → Bool}
    (h : acceptable u ret span find p = true) : ∃ r, accepted u ret span find r ∧ p r = true := by
  unfold acceptable passes at h
  cases hf : find u.drainStreams with
  | error t => simp [hf] at h
  | ok r =>
    simp only [hf, Bool.and_eq_true, Bool.or_eq_true, List.all_eq_true, Bool.not_eq_true', Option.isNone_iff_eq_none,
      decide_eq_true_eq, beq_iff_eq] at h
    obtain ⟨h1, ⟨h2, h3⟩, h4⟩ := h
    exact ⟨r, ⟨fun hr => h1.resolve_left (by simp [hr]), hf, h2, fun hs => h3.resolve_left hs⟩, h4⟩

/-- A source that is no stream delivers what it names, and a destination that is no stream takes what it is given. -/
theorem delivers_register (s : State) (w : Nat) (o : Operand) (h : o.stream = none) : s.delivers w o s (s.vsrc w o) := by
  unfold State.delivers; rw [h]; exact ⟨rfl, rfl⟩
theorem accepts_register (s : State) (lat : Option Nat) (o : Operand) (mask x : Vec) (h : o.stream = none) :
    ∃ t, s.accepts lat o mask x t := by
  unfold State.accepts; rw [h]; exact ⟨_, rfl⟩
/-- A stream in place of each: the element read ahead is delivered, and room takes an element. -/
def reader : Stream := ⟨true, 0x0000000100000002, 0x1000, 0x1080, 1, [⟨7, 1, none⟩], []⟩
def writer : Stream := ⟨true, 0x2000000100000002, 0x2000, 0x2000, 2, [], []⟩
def streaming : State :=
  let s := bench
  { s with ctx := { s.ctx with streams := vset (vset s.ctx.streams 0 reader) 1 writer } }
theorem test_stream_delivers : ∃ t, streaming.delivers 32 (.reg 96) t 7 := by
  have h : (match streaming.pop 0 with | .ok _ x => x == 7 | _ => false) = true := by decide +kernel
  show ∃ t, streaming.pop 0 = .ok t 7
  split at h
  · rename_i t x e; exact ⟨t, by rw [e, eq_of_beq h]⟩
  · cases h
theorem test_stream_accepts : ∃ t, streaming.accepts (some 1) (.reg 97) (BitVec.allOnes 512) 9 t := by
  have h : (match streaming.push 1 (BitVec.allOnes 512) 9 with | .ok _ _ => true | _ => false) = true := by decide +kernel
  show ∃ t y, streaming.push 1 (BitVec.allOnes 512) 9 = .ok t y
  split at h
  · rename_i t x e; exact ⟨t, x, e⟩
  · cases h
/-- No flag traps at reset, whatever an instruction raises. -/
theorem test_no_enables (x : BitVec 5) : x &&& bench.enables = 0 := by
  have h : bench.enables = 0 := by decide +kernel
  rw [h]; exact BitVec.and_zero

/-- A word of the local store at the pc, and the core's turn. -/
def turned (s : State) (w : Nat) : State := { s.placeWord w with turns := [0, 0] }

def addWord : Nat := 0x001C0200000B000001000002
theorem witness_StepRunsDecoded :
    (turned bench addWord).takesTurn [0] ∧ (turned bench 0x08DC00000000000000000000).takesTurn [0] ∧
      passes (((turned bench addWord).onTurn [0]).fetch (turned bench addWord).ctx.pc) (fun w => w == BitVec.ofNat 96 addWord) = true ∧
      decodeWord (BitVec.ofNat 96 addWord) = .ok (.add (plain 2 (.reg 11) (.reg 1) (.reg 2))) ∧
      decodeWord 0x08DC00000000000000000000 = .error (.reserved 0x023) := by unfold State.takesTurn; decide +kernel

/-- The prefix at 0x3F4 and its consumer at 0x400. -/
def prefixed : State :=
  let s := bench.placeWord addWord
  { s with ctx := { s.ctx with pc := 0x3F4 }, core := { s.core with pre := some prefixWord } }
theorem witness_Prefixes : prefixed.pkg.power = true ∧ prefixed.core.pre = some prefixWord ∧
    passes (prefixed.fetch (prefixed.ctx.pc + 12)) (fun w => w == BitVec.ofNat 96 addWord) = true := by decide +kernel

def atPc (s : State) (pc : Word) : State := { s with ctx := { s.ctx with pc }, turns := [0] }
/-- Misaligned; the last word that ends beyond local store, and in user mode beyond the kernel's bytes; the word after a PFX. -/
theorem witness_FetchTraps : (atPc bench 0x402).takesTurn [] ∧ (atPc bench 0x1FFF8).takesTurn [] ∧ (atPc (user []) 0x1DFF8).takesTurn [] ∧
    (0x402 : Word).toNat % 4 ≠ 0 ∧ 0x20000 < (0x1FFF8 : Word).toNat + 12 ∧
    (user []).core.k = false ∧ 0x1E000 < (0x1DFF8 : Word).toNat + 12 := by unfold State.takesTurn; decide +kernel
theorem witness_FetchTraps_second : (atPc bench 0x1FFEC).pkg.power = true ∧ (atPc bench 0x1FFEC).core.pre = none ∧
    0x20000 < ((0x1FFEC : Word) + 12).toNat + 12 ∧ ((atPc bench 0x1FFEC).core.k && !(atPc bench 0x1FFEC).core.saved) = false := by
  decide +kernel
theorem witness_FetchTraps_good : (0x1DFF4 : Word).toNat % 4 = 0 ∧ (0x1DFF4 : Word).toNat + 12 ≤ 0x1E000 ∧
    (0x1FFF4 : Word).toNat + 12 ≤ (if bench.core.k then 0x20000 else 0x1E000) ∧ bench.localBad .store 0x1FFF4 12 = false ∧
    bench.ctx.rep = none ∧ bench.core.ifetch = bench.own ∧ bench.cl.jobs = [] := by decide +kernel

theorem witness_StepKeepsMemories : (turned bench addWord).memoriesWf = true ∧ nextIs (step (turned bench addWord)) (fun _ => true) = true := by
  decide +kernel
theorem witness_StepKeepsMode : (turned bench addWord).modeOk = true ∧ nextIs (step (turned bench addWord)) (fun _ => true) = true := by
  decide +kernel
theorem witness_StoresReadBack : State.reset.pkg.mem.wf = true ∧ State.reset.pkg.poison = [] := by decide

/-- A load that has been performed and found an uncorrectable error is outstanding. -/
def badLoad : State :=
  let s := user []
  { s with core := { s.core with gq := [⟨0x5000, .load, [], none, 0x1F, false, 64, 0, .s 3, [], 0, true, [], 0, 0, true⟩] } }
theorem witness_TrapEntry : ((user []).core.k && !(user []).core.saved) = false ∧ (user []).settle.2 = none ∧
    badLoad.settle.2 = some 0x5000 := by decide +kernel
def inHandler : State := let s := bench; { s with core := { s.core with saved := false } }
def controlHandler : State := { inHandler with core := { inHandler.core with control := true } }
theorem witness_DoubleTrap : (inHandler.core.k = true ∧ inHandler.core.saved = false ∧ inHandler.core.control = false) ∧
    (controlHandler.core.k = true ∧ controlHandler.core.saved = false ∧ controlHandler.core.control = true) ∧
    bench.core.saved = true := by decide
theorem witness_SoftwareTraps : holds bench (.sysc (plain 0 (.reg 0) (.imm 0x33) (.reg 0))) (fun _ _ => true) = true ∧
    holds bench (.brk (plain 0 (.reg 0) (.imm 0x44) (.reg 0))) (fun _ _ => true) = true ∧
    holds bench (.trap (plain 0 (.reg 0) (.imm 0x11) (.reg 5))) (fun _ u => !u.core.control) = true := by decide +kernel
theorem witness_ReturnFromTrap : holds bench (.eret (plain 0 (.reg 0) (.reg 0) (.reg 0))) (fun _ _ => true) = true ∧
    (let f := plain 0 (.reg 0) (.reg 0) (.reg 0); let s := user [];
      s.pkg.power = true ∧ s.waitServed = false ∧ s.awaits ((Instr.eret f).names f s) = false ∧ s.core.k = false ∧ s.core.pre = none ∧
        (Instr.eret f).badField f (s.atIssue (.eret f) f) = none) := by decide +kernel
/-- A PFX of no literal that marks a block. -/
def marking : Pfx := { prefixWord with l := false, b := true, lit := 0 }
/-- What an instruction meets in user mode, alone and, where it may follow one, after the PFX. -/
def refusesUser (i : Instr) : Bool := (if i.spec.ct then [none] else [none, some marking]).all fun p =>
  let s : State := let s := user []; { s with core := { s.core with pre := p } }
  i.fields.any fun f => s.pkg.power && !s.waitServed && !s.awaits (i.names f s) && !s.core.k && (i.badField f (s.atIssue i f)).isNone &&
    p.all fun p => (p.check i.spec f).isNone && p.consumed i.spec f
/-- The privileged instructions, and the privileged registers' first and last numbers. -/
theorem witness_PrivilegeTraps :
    (∀ i ∈ [Instr.eret (plain 0 (.reg 0) (.reg 0) (.reg 0)), .ctxsv (plain 0 (.reg 0) (.imm 0) (.reg 0)),
      .ctxsvCl (plain 1 (.reg 0) (.reg 1) (.reg 0)), .ctxld (plain 0 (.reg 0) (.reg 0) (.reg 0)), .ctxldCl (plain 1 (.reg 0) (.reg 1) (.reg 0)),
      .stinvVa (plain 0 (.reg 0) (.reg 1) (.reg 2)), .stinvPid (plain 1 (.reg 0) (.imm 1) (.reg 0)), .stinvAll (plain 2 (.reg 0) (.reg 0) (.reg 0)),
      .mfs (plain 0 (.reg 11) (.imm 0x100) (.reg 0)), .mfs (plain 0 (.reg 11) (.imm 0x10C) (.reg 0)),
      .mts (plain 0 (.imm 0x101) (.reg 1) (.reg 0)), .sensinjWrite (plain 0 (.imm 0x10C) (.reg 1) (.reg 0))], refusesUser i = true) ∧
    (0x100 : BitVec 22).toNat = 0x100 ∧ (0x1FF : BitVec 22).toNat = 0x1FF := by decide +kernel
/-- Guard p0 = false, and an encoding check that fails all the same: scalar, vector and system instructions. -/
theorem witness_GuardedOff : bench.pkg.power = true ∧ bench.waitServed = false ∧
    (∀ i ∈ [Instr.add { plain 0 (.reg 11) (.reg 1) (.reg 2) with pred := 0 }, .vadd { plain 1 (.reg 66) (.reg 67) (.reg 68) with pred := 0 },
      .mwait { plain 0 (.reg 11) (.reg 1) (.reg 2) with pred := 0 }, .ctxsv { plain 0 (.reg 0) (.imm 0) (.reg 0) with pred := 0 }],
      i.fields.any (fun f => !bench.awaits (i.names f bench) && (i.checks f (bench.atIssue i f)).isNone && !f.guard (bench.atIssue i f) &&
        ((bench.atIssue i f).badReg [predNum f.pred]).isNone) = true) ∧
    (let f := { plain 0 (.reg 11) (.reg 1) (.reg 2) with pred := 0, rsv := true };
      bench.awaits ((Instr.add f).names f bench) = false ∧ (Instr.add f).checks f (bench.atIssue (.add f) f) = some (0x02, 0x10000)) := by
  decide +kernel
theorem witness_RetireFrame : bench.ctx.rep = none := by decide
theorem witness_IntegerResults : holds (machine [(2, 1)]) (.div (plain 3 (.reg 11) (.reg 1) (.reg 2)))
    (fun f u => (u.val f.opB).toNat % 2 ^ selWidth f.sel != 0) = true := by decide +kernel
theorem witness_DivisionByZero : holds (machine [(2, 0x100)]) (.remu (plain 3 (.reg 11) (.reg 1) (.reg 2)))
    (fun f u => (u.val f.opB).toNat % 2 ^ selWidth f.sel == 0) = true := by decide +kernel
theorem witness_IntegerOperations : (0 : Nat) < 1 ∧ (1 : BitVec 1) ≠ 0 := by decide
/-- 8 bits: the greatest sum that fits, the least one above and the greatest one below the range. -/
theorem witness_SaturatedResults : AluOp.saturates .add = true ∧ AluOp.exact .add 8 0x7E 1 0 = 2 ^ 7 - 1 ∧
    AluOp.exact .add 8 0x7F 1 0 = 2 ^ 7 ∧ AluOp.exact .add 8 0x80 0xFF 0 = -129 := by decide
theorem witness_ScalarMoves : readies movesWords = true := test_ready_moves
/-- FP32: an exact sum, and with DZ enabled a division by zero. -/
theorem witness_FloatResults :
    holds bench (.fadd (plain 1 (.reg 11) (.reg 1) (.reg 2))) (fun f u =>
      (FOp.result .add (fmtOfSel f.sel) u.mode u.sat (u.val f.opA).toNat (u.val f.opB).toNat (u.val f.opD).toNat).2 &&& u.enables == 0) = true ∧
    holds (let s := machine [(1, 0x3F800000)]; { s with ctx := { s.ctx with fmode := 0x1F0000 } })
      (.fdiv (plain 1 (.reg 11) (.reg 1) (.reg 2))) (fun f u =>
      (FOp.result .div (fmtOfSel f.sel) u.mode u.sat (u.val f.opA).toNat (u.val f.opB).toNat (u.val f.opD).toNat).2 &&& u.enables != 0) = true := by
  decide +kernel
theorem witness_FloatConversions : readies floatWords = true ∧ ∀ x : BitVec 5, x &&& bench.enables = 0 :=
  ⟨test_ready_float, test_no_enables⟩
theorem witness_ScalarFrame : holds bench (.add (plain 0 (.reg 11) (.reg 1) (.reg 2))) (fun f _ =>
    nextIs (exec (.add f) bench) fun t => t.ctx.retired == bench.ctx.retired + 1 && !bench.core.control) = true ∧
    holds bench (.mfs (plain 0 (.reg 11) (.imm 0x13) (.reg 0))) (fun f u => (u.val f.opA).toNat == 0x13 &&
      nextIs (exec (.mfs f) bench) fun t => t.ctx.retired == bench.ctx.retired + 1) = true := by decide +kernel

/-- The machine with a page table in the slice of the package (level 3 at its start, level 2 behind it): gigabytes 0 to 3 of the
virtual addresses name the slices as untyped bytes, INT64, FP64 and FP32, and every slice is ready. -/
def paged (regs : List (Nat × Word)) : State :=
  let s := machine regs
  let slice : Nat := 0x8000000000
  let leaf := fun (fmt : Nat) => slice + 0x1D + fmt * 2 ^ 59
  let m := [(slice, slice + 0x10003), (slice + 0x10000, leaf 0x1F), (slice + 0x10008, leaf 0x05), (slice + 0x10010, leaf 0x08),
    (slice + 0x10018, leaf 0x09)].foldl (fun m x => Memory.store m x.1 8 x.2) []
  { s with
    ctx := { s.ctx with sys := { s.ctx.sys with xlroot := 0x8000000000 } }
    pkg := { s.pkg with mem := m, ready := Memory.store [] 0x40 32 (2 ^ 256 - 1) } }
/-- A word of the slices, at a virtual address below a gigabyte. -/
def slices (s : State) (xs : List (Nat × Nat)) : State :=
  { s with pkg := { s.pkg with mem := xs.foldl (fun m x => m.store (0x8000000000 + x.1) 8 x.2) s.pkg.mem } }

theorem witness_LocalLoads :
    holds bench (.ldl (plain 3 (.reg 11) (.loc 0x1FFFF) (.imm 0))) (fun f u =>
      passes (u.localAccess (u.val f.opA + u.val f.opB) (selBytes f.sel) false) (· == .store)) = true ∧
    holds bench (.ldl (plain 0 (.reg 11) (.loc 0x2FFFF0) (.imm 8))) (fun f u =>
      passes (u.localAccess (u.val f.opA + u.val f.opB) (selBytes f.sel) false) (· == .spad) && !u.caughtUp.isShadow) = true := by decide +kernel
theorem witness_LocalStores :
    holds bench (.stl (plain 0 (.reg 1) (.loc 0x1FFF8) (.imm 0))) (fun f u =>
      let ea := u.val f.opA + u.val f.opB
      passes (u.localAccess ea (selBytes f.sel) true) (fun pl => pl == .store && !u.caughtUp.storeHeld pl ea.toNat (selBytes f.sel)) &&
        !u.caughtUp.isShadow && u.caughtUp.memoriesWf && u.core.idx < 8) = true ∧
    holds bench (.stl (plain 0 (.reg 1) (.loc 0x100000) (.imm 0))) (fun f u =>
      let ea := u.val f.opA + u.val f.opB
      passes (u.localAccess ea (selBytes f.sel) true) (fun pl => pl == .spad && !u.caughtUp.storeHeld pl ea.toNat (selBytes f.sel))) = true := by
  decide +kernel
/-- Loads and stores of raw bytes and of FP32 on an FP32 page. -/
theorem witness_ScalarGlobal :
    (∀ x ∈ [(2, plain 0 (.reg 11) (.reg 1) (.imm 8)), (1, plain 1 (.reg 11) (.reg 2) (.imm 0x40000))],
      holds (paged [(1, 0x100000), (2, 0xC0000000)]) (.ldg x.2) (fun f u =>
        acceptable u true 0
          (scalarReached .read f (u.val f.opA + (u.globalOffset f.opB).1) (u.globalOffset f.opB).2)
          (fun r => !(atStation u r).isShadow && (atStation u r).enables == 0)) = true) ∧
    (∀ x ∈ [(2, plain 0 (.reg 11) (.reg 1) (.imm 8)), (1, plain 1 (.reg 11) (.reg 2) (.imm 0x40000))],
      holds (paged [(1, 0x100000), (2, 0xC0000000)]) (.stg x.2) (fun f u =>
        acceptable u false 1
          (scalarReached .write f (u.val f.opA + (u.globalOffset f.opB).1) (u.globalOffset f.opB).2)
          (fun r => (atStation u r).enables == 0)) = true) := by decide +kernel
/-- The first register target that traps and the last one that does not; LOOP at 1 and 2. -/
theorem witness_Transfers :
    holds bench (.br (plain 0 (.reg 0) (.imm 24) (.reg 0))) (fun _ _ => true) = true ∧
    holds bench (.call (plain 0 (.reg 0) (.loc 0x600) (.reg 0))) (fun _ _ => true) = true ∧
    holds (machine [(1, 0x400000)]) (.call (plain 0 (.reg 0) (.reg 1) (.reg 0))) (fun f u => 0x400000 ≤ (u.val f.opA).toNat) = true ∧
    holds (machine [(62, 0x3FFFFF)]) (.ret (plain 0 (.reg 0) (.reg 0) (.reg 0))) (fun _ u => (u.ctx.regs.scalar 62).toNat < 0x400000) = true ∧
    holds (machine [(62, 0x400000)]) (.ret (plain 0 (.reg 0) (.reg 0) (.reg 0))) (fun _ u => 0x400000 ≤ (u.ctx.regs.scalar 62).toNat) = true ∧
    holds (machine [(1, 0x3FFFFF)]) (.jmp (plain 0 (.reg 0) (.reg 1) (.reg 0))) (fun f u => (u.target f.opA).toNat < 0x400000) = true ∧
    holds (machine [(1, 0x400000)]) (.jmp (plain 0 (.reg 0) (.reg 1) (.reg 0))) (fun f u => 0x400000 ≤ (u.target f.opA).toNat) = true ∧
    holds (machine [(1, 0x101)]) (.loop (plain 3 (.reg 1) (.imm 24) (.reg 0))) (fun f u =>
      ((u.val f.opD).toNat % 2 ^ 8 + (2 ^ 8 - 1)) % 2 ^ 8 == 0) = true ∧
    holds (machine [(1, 0)]) (.loop (plain 3 (.reg 1) (.imm 24) (.reg 0))) (fun f u =>
      ((u.val f.opD).toNat % 2 ^ 8 + (2 ^ 8 - 1)) % 2 ^ 8 != 0) = true := by decide +kernel
/-- A follower of a chain. -/
def following (s : State) : State := { s with core := { s.core with chain := some ⟨false, 0, [], false⟩ } }
/-- A body of one word of zeros, an ADD. -/
theorem witness_RepeatAndIdle :
    holds bench (.rep (plain 0 (.reg 0) (.imm 0) (.imm 1))) (fun f u =>
      passes (u.repWords (u.val f.opB).toNat (u.ctx.pc + 12)) (fun _ => (u.val f.opA).extractLsb' 0 32 == 0)) = true ∧
    holds bench (.rep (plain 0 (.reg 0) (.imm 3) (.imm 16))) (fun f u =>
      passes (u.repWords (u.val f.opB).toNat (u.ctx.pc + 12)) (fun _ => (u.val f.opA).extractLsb' 0 32 != 0)) = true ∧
    holds bench (.rep (plain 0 (.reg 0) (.imm 3) (.imm 16))) (fun _ u => !u.follows) = true ∧
    holds (following bench) (.rep (plain 0 (.reg 0) (.imm 3) (.imm 16))) (fun _ u => u.follows) = true ∧
    holds bench (.nop (plain 0 (.reg 0) (.reg 0) (.reg 0))) (fun _ _ => true) = true ∧
    holds bench (.pref (plain 0 (.reg 0) (.reg 1) (.imm 0))) (fun _ _ => true) = true := by decide +kernel
/-- With a source and a destination that are registers; test_stream_delivers and test_stream_accepts show the streams. -/
theorem witness_VectorIntegers : readies vectorIntWords = true ∧ (∃ t, bench.delivers 64 (.reg 67) bench t) ∧
    ∃ t, bench.accepts (some 1) (.reg 66) (BitVec.allOnes 512) 5 t :=
  ⟨test_ready_vectorInt, ⟨_, delivers_register _ _ _ rfl⟩, accepts_register _ _ _ _ _ rfl⟩
theorem witness_LaneResults : (15 : Nat) < 512 / 32 ∧ (63 : Nat) < 512 / 8 := by decide
theorem witness_VectorFloats : readies vectorFloatWords = true ∧ (∀ x : BitVec 5, x &&& bench.enables = 0) ∧
    (∃ x, bench.delivers 32 (.reg 67) bench x) ∧ ∃ t, bench.accepts none (.reg 66) (BitVec.allOnes 512) 5 t :=
  ⟨test_ready_vectorFloat, test_no_enables, ⟨_, delivers_register _ _ _ rfl⟩, accepts_register _ _ _ _ _ rfl⟩
theorem witness_VectorMoves : readies vectorMovesWords = true ∧ (∀ x : BitVec 5, x &&& bench.enables = 0) ∧
    (∃ x, bench.delivers 16 (.reg 67) bench x) ∧ ∃ t, bench.accepts (some 2) (.reg 66) (BitVec.allOnes 512) 5 t :=
  ⟨test_ready_vectorMoves, test_no_enables, ⟨_, delivers_register _ _ _ rfl⟩, accepts_register _ _ _ _ _ rfl⟩
/-- The code table at the end of local store and at the start of the scratchpad. -/
def tableAt (pl : LPlace) (n : BitVec 22) : Bool :=
  holds bench (.vcbdLt (plain 0 (.reg 0) (.loc n) (.imm 1))) fun f u =>
    (u.val f.opA).toNat == n.toNat && n.toNat % 64 == 0 && (u.footprint pl n.toNat 1024 false).isNone && !u.localBad pl n.toNat 1024
theorem witness_ReductionsAndTables : readies vectorMovesWords = true ∧ tableAt .store 0x1FC00 = true ∧ tableAt .spad 0x100000 = true :=
  ⟨test_ready_vectorMoves, by decide +kernel, by decide +kernel⟩
/-- What VLDL and VSTL address from `base`, in FP32 lanes. -/
def localAt (i : Fields → Instr) (base : Operand) (b : BitVec 22) (p : Fields → State → List (Nat × Word) → Bool) : Bool :=
  holds bench (i (plain 1 (.reg 66) base (.imm b))) fun f u =>
    let lf := u.localForm f
    p f u (u.activeLanes f 32 fun i => lf.1 + BitVec.ofNat 64 i * lf.2.1)
/-- Below and at the end of the local addresses; the last vector of local store, the first of the scratchpad, and a lane beyond it, in
both forms of each; and what VSTL leaves. -/
theorem witness_VectorLocal :
    holds (machine [(1, 0x400000)]) (.vldl (plain 1 (.reg 66) (.reg 1) (.imm 0))) (fun f u => 0x400000 ≤ (u.localForm f).1.toNat) = true ∧
    (∀ x ∈ [(Instr.vldl, false), (.vstl, true)],
      localAt x.1 (.loc 0x1FFC0) 0 (fun f u lanes => (u.localForm f).1.toNat < 0x400000 && (u.laneChecks 4 x.2 lanes).isNone &&
        !anySpad 4 lanes && !(u.localForm f).2.2 && !(lanes.any fun l => (lplace l.2.toNat 4).any fun pl => u.storeHeld pl l.2.toNat 4)) = true ∧
      localAt x.1 (.loc 0x100000) 0 (fun _ u lanes => (u.laneChecks 4 x.2 lanes).isNone && anySpad 4 lanes &&
        !(u.caughtUp.readLanes 4 lanes).1.isShadow) = true ∧
      localAt x.1 (.loc 0x2FFFC4) 0 (fun f u lanes => (u.localForm f).1.toNat < 0x400000 && (u.laneChecks 4 x.2 lanes).isSome) = true) ∧
    localAt .vldl (.loc 0x100000) 0x100040 (fun f u lanes => (u.localForm f).2.2 && (u.laneChecks 4 false lanes).isNone) = true ∧
    bench.caughtUp.memoriesWf = true ∧ bench.caughtUp.alone = true := by decide +kernel
/-- The same with no active lane: mask register m0 is zero. -/
def unmasked (s : State) : State := { s with ctx := { s.ctx with regs := { s.ctx.regs with m := Vector.replicate 8 0 } } }
theorem witness_VectorGlobal :
    holds (unmasked (paged [(1, 0x100000)])) (.vldg (plain 1 (.reg 66) (.reg 1) (.imm 0))) (fun f u => u.noLane f 32) = true ∧
    holds (paged [(1, 0x100000)]) (.vldg (plain 1 (.reg 66) (.reg 1) (.imm 0))) (fun f u => !u.noLane f 32 &&
      acceptable u true 0
        (vectorReached .read f (u.val f.opA + (u.globalOffset f.opB).1) (u.globalOffset f.opB).2)
        (fun r => !(atStation u r).isShadow && (atStation u r).enables == 0)) = true ∧
    holds (unmasked (paged [(1, 0x100000)])) (.vstg (plain 1 (.reg 66) (.reg 1) (.imm 0))) (fun f u => u.noLane f 32) = true ∧
    holds (paged [(1, 0x100000)]) (.vstg (plain 1 (.reg 66) (.reg 1) (.imm 0))) (fun f u => !u.noLane f 32 &&
      acceptable u false 1
        (vectorReached .write f (u.val f.opA + (u.globalOffset f.opB).1) (u.globalOffset f.opB).2)
        (fun r => (atStation u r).enables == 0)) = true ∧
    holds bench (.vgath (plain 1 (.reg 66) (.loc 0x1000) (.reg 67))) (fun f u => (u.val f.opA).toNat % 4 == 0 && isLocalKind f.opA &&
      (u.laneChecks 4 false (u.gatherLanes f (u.vsrc 32 f.opB))).isNone &&
      !(u.caughtUp.readLanes 4 (u.gatherLanes f (u.vsrc 32 f.opB))).1.isShadow) = true ∧
    holds (unmasked bench) (.vgath (plain 1 (.reg 66) (.reg 1) (.reg 67))) (fun f u => !isLocalKind f.opA &&
      u.gatherLanes f (u.vsrc 32 f.opB) == []) = true ∧
    holds (paged [(1, 0x100000)]) (.vgath (plain 1 (.reg 66) (.reg 1) (.reg 67))) (fun f u => !isLocalKind f.opA &&
      u.gatherLanes f (u.vsrc 32 f.opB) != [] && acceptable u true 0
        (fun s => s.rawParts .read 4 (u.gatherLanes f (u.vsrc 32 f.opB))) (fun r => !(atStation u r).isShadow)) = true ∧
    holds bench (.vscat (plain 1 (.reg 66) (.loc 0x1000) (.reg 67))) (fun f u => (u.val f.opA).toNat % 4 == 0 && isLocalKind f.opA &&
      (u.laneChecks 4 true (u.gatherLanes f (u.vsrc 32 f.opB))).isNone &&
      !((u.gatherLanes f (u.vsrc 32 f.opB)).any fun l => (lplace l.2.toNat 4).any fun pl => u.storeHeld pl l.2.toNat 4)) = true ∧
    holds (unmasked bench) (.vscat (plain 1 (.reg 66) (.reg 1) (.reg 67))) (fun f u => !isLocalKind f.opA &&
      u.gatherLanes f (u.vsrc 32 f.opB) == []) = true ∧
    holds (paged [(1, 0x100000)]) (.vscat (plain 1 (.reg 66) (.reg 1) (.reg 67))) (fun f u => !isLocalKind f.opA &&
      u.gatherLanes f (u.vsrc 32 f.opB) != [] && acceptable u false 1
        (fun s => s.rawParts .write 4 (u.gatherLanes f (u.vsrc 32 f.opB))) (fun _ => true)) = true := by decide +kernel
theorem witness_Streams : readies [(0, .scfg (plain 0 (.reg 96) (.reg 1) (.reg 2))), (0, .sstat (plain 0 (.reg 11) (.reg 96) (.reg 0))),
    (0, .sstatDrain (plain 1 (.reg 11) (.reg 103) (.reg 0)))] = true ∧ bench.pkg.power = true := by decide +kernel
/-- Room in the queue, and operands in the scratchpad and at home, for each command. -/
theorem witness_KilnCommands :
    (∀ x ∈ [(Instr.kldb (plain 0 (.imm 0x100) (.reg 1) (.reg 0)), 0), (.kmul (plain 0 (.reg 2) (.reg 6) (.imm 0x100)), 1),
        (.kmulb (plain 0 (.reg 2) (.reg 6) (.imm 0x100)), 2), (.kest (plain 0 (.reg 2) (.reg 6) (.imm 0x100)), 3),
        (.knorm (plain 0 (.reg 0) (.reg 5) (.imm 1)), 4)],
      holds (machine [(1, 0x0900000000001000), (5, 0x4C81000000100000), (6, 0x0C80000000000000)]) x.1 (fun f u =>
        let h := tileHeader (u.val f.opA)
        let n := if x.2 = 4 then 1 else (bSpec (if x.2 = 0 then u.val f.opD else u.val f.opB)).n
        let spans := if x.2 = 0 then loadSpans h n else if x.2 = 2 then rowSpans h (16 * n) 1 else rowSpans h 16 n
        decide (u.core.kq.length < 16) && (h.slot == 0 || x.2 == 4) &&
          passes (u.operandPages h spans) fun r =>
            (u.homes (r.1.map fun p => (BitVec.ofNat 64 (max (4096 * p.1) h.addr.toNat), p.2))).isNone) = true) ∧
    (∀ i ∈ [Instr.kzero (plain 0 (.reg 0) (.imm 3) (.reg 0)), .knormRel (plain 1 (.reg 0) (.imm 7) (.reg 0))],
      holds bench i (fun _ u => decide (u.core.kq.length < 16)) = true) := by decide +kernel
theorem witness_KilnRegisters : readies kilnWords = true ∧ bench.core.kq = [] ∧ bench.core.badAcc = [] ∧
    ∃ t, bench.accepts none (.reg 66) (BitVec.allOnes 512) 5 t :=
  ⟨test_ready_kiln, rfl, rfl, accepts_register _ _ _ _ _ rfl⟩

/-- A queue of 16 slots at virtual address 0x200000, its ring at 0x210000. -/
def queued : State := slices (paged [(1, 0x200000), (2, 0x1080), (11, 0x55)])
  [(0x200020, 0x210000), (0x200028, 0x800000000004)]
def zeroBuffer : CircBuf := { CircBuf.off with init := true, config := 0x20100100000, free := 2 }
/-- Circular buffer 2 in use, with an element filled, and slot 1 handed out. -/
def buffered : State :=
  let s := machine [(2, 0x100040), (7, 0x20100100000)]
  { s with cl := { s.cl with cbs := vset s.cl.cbs 2 { zeroBuffer with fill := 1, taken := [1] } } }
theorem witness_CopyInstructions :
    (∀ i ∈ [Instr.cpost (plain 0 (.reg 11) (.reg 1) (.loc 0x1000)), .cgath (plain 0 (.reg 11) (.reg 1) (.loc 0x1000)),
        .cwin (plain 0 (.reg 11) (.reg 1) (.loc 0x1000))],
      holds queued i (fun f u =>
        let a := u.val f.opA
        passes (u.imageAt (u.val f.opB) 64) (fun _ => true) && a.toNat % 64 == 0 &&
        passes (u.translate u.me .readWrite a) (fun x =>
          let d := x.1
          let c := u.desc d.pa 0x28
          (u.homes [(a, d.pa)]).isNone && !u.poisoned d.pa 64 && tierOf d.pa == .slice && c.getLsbD 47 && c.extractLsb' 48 16 == u.ctx.sys.pid &&
          passes (u.translateAll .write (ringPages (u.desc d.pa 0x20) (64 * u.slots d.pa))) (fun y =>
            let v := u.keep (x.2 ++ y.2)
            let r := v.published.claimAt d.pa
            let q := r.1.endWait
            (u.homes (y.1.map fun pa => (a, pa))).isNone && (v.claimRoom a).isSome && !v.isShadow && r.2 != BitVec.allOnes 64 &&
              passes (q.translate q.me .write (q.slotOf d.pa r.2.toNat)) (fun _ => true)))) = true) ∧
    holds bench (.clink (plain 0 (.reg 0) (.loc 0x100000) (.reg 1))) (fun f u =>
      passes (u.lmemCheck (u.val f.opA) 64 true) (fun pl => pl == .spad && (u.val f.opB).toNat % 64 == 0 &&
        (u.footprint pl 0x100000 64 true).isNone && !u.storeHeld pl 0x100000 64)) = true ∧
    holds buffered (.cbinit (plain 0 (.imm 7) (.reg 7) (.reg 0))) (fun f u => !u.bufferBusy (u.val f.opD).toNat) = true ∧
    holds buffered (.cbget (plain 0 (.reg 11) (.imm 2) (.reg 0))) (fun _ u => (u.cb 2).init && (u.cb 2).coreTake.isSome) = true ∧
    holds buffered (.cbput (plain 0 (.reg 0) (.imm 2) (.reg 2))) (fun f u => (u.cb 2).init &&
      ((u.cb 2).taken.find? fun k => u.val f.opB == BitVec.ofNat 64 ((u.cb 2).base + (u.cb 2).size * k)) == some 1) = true := by
  decide +kernel

/-- A mailbox with a clip message of E4M3 without TOP in entry 3 and a core's message in entry 0; and a mode with TOP. -/
def mailed (top : Bool) : State :=
  let s := bench
  { s with ctx := { s.ctx with
      mailbox := [⟨3, 0x0C0001⟩, ⟨0, 0x0C0002⟩]
      fmode := if top then 8 else 0 } }
/-- The machine as cluster 0 of a partition of one cluster. -/
def inPartition (s : State) : State :=
  { s with cl := { s.cl with part := { s.cl.part with member := true, part := 0x100000000, members := [(0, 0)] } } }
theorem witness_Messages :
    (∀ x ∈ [(Instr.mbxr (plain 0 (.reg 66) (.reg 0) (.reg 0)), true), (.mbxrT (plain 1 (.reg 66) (.reg 0) (.reg 0)), true),
        (.mrecv (plain 0 (.reg 66) (.reg 0) (.reg 0)), false), (.mrecvT (plain 1 (.reg 66) (.reg 0) (.reg 0)), false)],
      holds (mailed false) x.1 (fun _ u => (u.firstMessage x.2).any fun m => !mismatched m.fmt m.top u.top) = true ∧
      holds (mailed true) x.1 (fun _ u => (u.firstMessage x.2).any fun m => mismatched m.fmt m.top u.top) = true ∧
      holds bench x.1 (fun _ u => (u.firstMessage x.2).isNone) = true) ∧
    holds (inPartition bench) (.msend (plain 0 (.reg 0) (.reg 1) (.loc 0x1000))) (fun f u => let m := u.published
      u.cl.part.member && passes (m.imageAt (u.val f.opB) 64) (fun img => !reservedFmt (BitVec.ofNat 5 (img / 2 ^ 16))) &&
        decide (((u.val f.opA).extractLsb' 0 12).toNat < m.cl.part.size) && !m.isShadow && decide (m.core.outMsgs.length < 16)) = true := by
  decide +kernel

/-- A transaction in a state, granted. -/
def withTx (st : BitVec 2) (g : Bool) (s : State) : State :=
  { s with ctx := { s.ctx with tx := { s.ctx.tx with state := st, g, granted := true, decl := [⟨0x100000, 64, true⟩] } } }
/-- The leader of a gang of one, in a gang transaction that its own TEND.G ends. -/
def ganged (s : State) : State :=
  let t := withTx 2 true s
  { t with cl := { t.cl with gangTx := some ⟨false, false, t.ctx.tx.key, 0, 0, [], 0⟩ } }
theorem witness_Transactions :
    (∀ i ∈ [Instr.tdeclR (plain 0 (.reg 0) (.reg 1) (.imm 64)), .tdeclW (plain 1 (.reg 0) (.reg 1) (.imm 1))],
      holds (machine [(1, 0x100000)]) i (fun f u => decide (u.ctx.tx.decl.length < 16) &&
        decide (coverCount (u.ctx.tx.decl ++ [⟨u.val f.opA, u.val f.opB, false⟩]) ≤ 1024)) = true) ∧
    holds (withTx 1 false bench) (.tsub (plain 0 (.reg 11) (.reg 0) (.reg 0))) (fun _ u =>
      u.ctx.tx.state == 1 && !u.ctx.tx.d && u.ctx.tx.granted) = true ∧
    holds (withTx 0 false (inPartition (paged []))) (.tsubD (plain 1 (.reg 11) (.reg 0) (.reg 0))) (fun _ u =>
      u.cl.part.member && u.ctx.tx.state == 0 && u.ctx.tx.decl != [] && passes (u.tilesOf u.ctx.tx.decl [] []) (fun _ => true) &&
        !u.isShadow) = true ∧
    holds bench (.tend (plain 0 (.reg 0) (.reg 0) (.reg 0))) (fun _ u => u.ctx.tx.state == 0) = true ∧
    holds (withTx 2 false bench) (.tend (plain 0 (.reg 0) (.reg 0) (.reg 0))) (fun _ u =>
      u.ctx.tx.state != 0 && !u.ctx.tx.g && !u.isShadow && u.ctx.tx.granted && u.endWait.drainStreams.tilesQuiet) = true ∧
    holds bench (.tendG (plain 1 (.reg 0) (.reg 0) (.reg 0))) (fun _ u => u.ctx.tx.state == 0) = true ∧
    holds (withTx 2 true bench) (.tendG (plain 1 (.reg 0) (.reg 0) (.reg 0))) (fun _ u =>
      u.ctx.tx.state != 0 && u.ctx.tx.g && !u.isShadow && u.ctx.tx.granted && u.endWait.drainStreams.tilesQuiet &&
        !u.endWait.drainStreams.inGangTx) = true ∧
    holds (ganged bench) (.tendG (plain 1 (.reg 0) (.reg 0) (.reg 0))) (fun _ u =>
      let m := u.endWait.drainStreams
      m.inGangTx && m.tilesQuiet && !(m.gangEnd m.ctx.address).inGangTx) = true ∧
    holds (withTx 1 false bench) (.tstatW (plain 1 (.reg 11) (.reg 0) (.reg 0))) (fun _ u =>
      u.ctx.tx.state == 1 && !u.ctx.tx.d && u.ctx.tx.granted) = true ∧
    holds (withTx 2 false bench) (.tstatW (plain 1 (.reg 11) (.reg 0) (.reg 0))) (fun _ u => u.ctx.tx.state != 1) = true := by
  decide +kernel

/-- Integer atomics on an INT64 page, float ones on an FP64 page, and REDA and PUT on a slice. -/
theorem witness_AtomicAccesses :
    (∀ x ∈ atomicRows, ∀ r ∈ [if isFloatAtom x.2 then (2 : BitVec 7) else 1],
      holds (paged [(1, 0x40100000), (2, 0x80100000)]) (x.1 (plain 0 (.reg 11) (.reg r) (.reg 3))) (fun f u =>
        acceptable u true 1 (atomicReached x.2 (u.val f.opA)) (fun r => !(atStation u r).isShadow)) = true) ∧
    holds (paged [(1, 0x100040)]) (.reda (plain 0 (.reg 112) (.reg 1) (.reg 3))) (fun f u =>
      acceptable u false 4096 (sliceReached 64 (u.val f.opA)) (fun r => !(atStation u r).isShadow)) = true ∧
    holds (paged [(1, 0x100008)]) (.put (plain 0 (.reg 11) (.reg 1) (.reg 3))) (fun f u =>
      acceptable u true 1 (sliceReached 8 (u.val f.opA)) (fun r => !(atStation u r).isShadow)) = true := by decide +kernel

/-- A wait that its place has served. -/
def served (k : WaitKind) (s : State) : State := { s with core := { s.core with wait := some ⟨k, some 5, true⟩ } }
theorem witness_served (k : WaitKind) : (served k bench).servedWith 5 := ⟨rfl, k, true, rfl⟩
def loads (o : EvLoad) : Bool := match o with | .value _ _ => true | _ => false
theorem witness_Waits :
    (∀ i ∈ [Instr.take (plain 0 (.reg 11) (.reg 1) (.reg 0)), .takeK (plain 1 (.reg 11) (.reg 1) (.reg 0))],
      holds (paged [(1, 0x100008)]) i (fun f u => u.core.wait.isNone &&
        acceptable u true 0 (sliceReached 8 (u.val f.opA)) (fun r => !(atStation u r).isShadow && r.parts.any fun p =>
          !(atStation u r).performAll.poisoned p.pa 8 &&
            (match (atStation u r).performAll.takeAt (atStation u r).performAll.cl.index p.pa false none with | .value _ _ => true | _ => false))) = true) ∧
    (∀ x ∈ [(0, plain 0 (.reg 11) (.reg 1) (.reg 3)), (1, plain 1 (.reg 11) (.reg 1) (.reg 1))],
      holds (paged [(1, 0x100008)]) (.mwait x.2) (fun f u => !f.sel.getLsbD 1 &&
        acceptable u true 0 (mwaitReached (u.val f.opA)) (fun r => !(atStation u r).isShadow && r.parts.any fun p =>
          !(atStation u r).refreshHolds [p.pa] &&
          let m := (atStation u r).performAll.touch (atStation u r).cl.index p.pa
          let w := BitVec.ofNat 64 (m.streamWord p.pa).2
          !m.poisoned p.pa 8 && satisfies (f.sel.getLsbD 0) w (u.val f.opB) && !w.getLsbD 59 && !m.isClaim p.pa 8)) = true) ∧
    holds bench (.mwait (plain 2 (.reg 11) (.loc 0x1FFF8) (.reg 3))) (fun f u => f.sel.getLsbD 1 &&
      passes (u.lmemCheck (u.val f.opA) 8 false) (fun pl => pl == .store && (u.footprint pl 0x1FFF8 8 false).isNone &&
        !u.caughtUp.isShadow &&
        satisfies (f.sel.getLsbD 0) (BitVec.ofNat 64 (u.caughtUp.lread pl 0x1FFF8 8)) (u.val f.opB))) = true ∧
    holds { bench with cl := { bench.cl with events := vset bench.cl.events 31 ⟨1, false, []⟩ } }
      (.evwait (plain 0 (.reg 11) (.imm 31) (.reg 0))) (fun f u => u.core.wait.isNone && loads (u.published.evLoad (.event (u.val f.opA).toNat) 2)) = true ∧
    holds bench (.bar (plain 0 (.reg 0) (.imm 15) (.reg 0))) (fun f u => u.core.wait.isNone && loads (u.published.evLoad (.bar (u.val f.opA).toNat) 3)) = true ∧
    holds bench (.ldl (plain 0 (.reg 11) (.loc 0x300400) (.imm 8))) (fun f u =>
      passes (u.localAccess (u.val f.opA + u.val f.opB) 8 false) (· == .event) && evPlace 0x300408 == some (.mutex 0, 1) &&
        u.core.wait.isNone && loads (u.published.evLoad (.mutex 0) 1)) = true ∧
    holds bench (.stl (plain 0 (.reg 1) (.loc 0x300FC0) (.imm 0))) (fun f u =>
      passes (u.localAccess (u.val f.opA + u.val f.opB) 8 true) (· == .event) && evPlace 0x300FC0 == some (.event 31, 0) &&
        (u.published.evStore (.event 31) 0 (u.val f.opD)).isSome) = true ∧
    holds bench (.evsig (plain 0 (.reg 0) (.imm 31) (.reg 0))) (fun _ _ => true) = true ∧
    holds (inPartition bench) (.evsigR (plain 1 (.reg 0) (.imm 5) (.imm 0))) (fun f u =>
      u.cl.part.member && decide ((u.val f.opB).toNat < u.cl.part.size)) = true ∧
    holds bench (.barG (plain 1 (.reg 0) (.reg 0) (.reg 0))) (fun _ u => u.core.wait.isNone &&
      (let m := u.published; decide (m.ctx.address < 8) && m.gangAll &&& ~~~((m.cl.gangArrived ||| bit8 m.ctx.address) &&& m.gangAll) == 0)) = true ∧
    holds bench (.fence (plain 3 (.reg 0) (.imm 1) (.reg 0))) (fun _ u => u.drainStreams.performedAll) = true := by decide +kernel

/-- An image of a record at 0x1000 that asks for one core here, or elsewhere in a partition of two. -/
def posted (here : Bool) (size : Nat) : State :=
  let s := inPartition (machine [])
  { s with cl := { s.cl with
      stores := vset s.cl.stores 0 (Memory.store [] 0x1000 32 (0x600 + 0x10000 * 2 ^ 64 + 2 ^ 192 + (if here then 2 ^ 197 else 0)))
      part := { s.cl.part with part := BitVec.ofNat 64 (size * 2 ^ 32) } } }
theorem witness_TaskInstructions :
    holds (posted true 1) (.post (plain 0 (.reg 0) (.loc 0x1000) (.reg 0))) (fun f s => let u := s.published; s.cl.part.member && !u.isShadow &&
      passes (u.imageAt (s.val f.opA) 32) (fun img => recordOk (BitVec.ofNat 256 img) && recHere (BitVec.ofNat 256 img) &&
        ((u.endWait.sign 0x1000 32 img).enqueueRecord ⟨BitVec.ofNat 256 img, 0, 0, 0, some (u.core.cyc, u.core.idx)⟩).isSome)) = true ∧
    holds (posted false 2) (.post (plain 0 (.reg 0) (.loc 0x1000) (.reg 0))) (fun f s => let u := s.published; s.cl.part.member && !u.isShadow &&
      decide (u.cl.outRecs.length < 256) &&
      passes (u.imageAt (s.val f.opA) 32) (fun img => recordOk (BitVec.ofNat 256 img) && !recHere (BitVec.ofNat 256 img) &&
        u.cl.part.target (recData (BitVec.ofNat 256 img)) != u.cl.part.pidx.toNat)) = true ∧
    holds bench (.taskq (plain 0 (.reg 11) (.reg 0) (.reg 0))) (fun _ _ => true) = true ∧
    holds bench (.texit (plain 0 (.reg 0) (.imm 255) (.reg 0))) (fun f u =>
      let m := u.landAll.drainStreams.drain
      m.2.isNone && m.1.core.kq == [] && !m.1.claimsOpen && (m.1.retire f u.ctx.pc .seq).core.red.isNone) = true ∧
    holds { bench with core := { bench.core with red := some ⟨false, 0, []⟩ } }
      (.texit (plain 0 (.reg 0) (.imm 4) (.reg 0))) (fun f u =>
      let m := u.landAll.drainStreams.drain
      m.2.isNone && m.1.core.kq == [] && !m.1.claimsOpen && (m.1.retire f u.ctx.pc .seq).core.red.isSome) = true ∧
    (∀ a ∈ [Operand.imm 255, .reg 0], holds bench (.stop (plain 0 (.reg 0) a (.reg 0))) (fun _ u => u.settle.2.isNone) = true) := by decide +kernel

theorem witness_PhasesAndChains :
    holds { bench with cl := { bench.cl with slaves := 0x0E } } (.slaveL (plain 1 (.reg 0) (.imm 3) (.reg 0))) (fun f u =>
      u.core.chain.isNone && u.offered (u.val f.opA).toNat) = true ∧
    ((served .closeExchange bench).endWait.cl.xeng.landed.find? fun x => mismatched x.1 x.2 (served .closeExchange bench).endWait.top) = none ∧
    holds bench (.detach (plain 0 (.reg 0) (.reg 0) (.reg 0))) (fun _ _ => true) = true ∧
    holds (let s := inPartition bench; { s with cl := { s.cl with part := { s.cl.part with exchange := true } } })
      (.xrun (plain 0 (.reg 0) (.loc 0x1FFF0) (.imm 1))) (fun f u =>
        u.cl.part.member && (u.val f.opA).toNat == 0x1FFF0 && (u.val f.opB).toNat == 1 && u.core.k && u.cl.part.exchange && !u.cl.xeng.used) = true ∧
    readies [(0, .gearF (plain 0 (.reg 11) (.reg 0) (.reg 0))), (0, .gearN (plain 1 (.reg 11) (.reg 0) (.reg 0)))] = true := by decide +kernel

/-- A compute core's identity register, one that user mode reads only, one that a compute core cannot write, FMODE with a reserved
rounding mode, and a scratch value. -/
theorem witness_SystemRegisters :
    holds bench (.mfs (plain 0 (.reg 11) (.imm 3) (.reg 0))) (fun _ u => !u.flagsDue) = true ∧
    holds bench (.mfs (plain 0 (.reg 11) (.imm 0x13) (.reg 0))) (fun f u => (u.val f.opA).toNat == 0x13) = true ∧
    holds bench (.mts (plain 0 (.imm 6) (.reg 1) (.reg 0))) (fun f u => (u.val f.opD).toNat == 6) = true ∧
    holds bench (.mts (plain 0 (.imm 9) (.reg 1) (.reg 0))) (fun f u => (u.val f.opD).toNat == 9) = true ∧
    holds (user []) (.mtsCycle (plain 0 (.imm 1) (.reg 1) (.reg 0))) (fun _ u => userReadOnly 1 && !u.core.k) = true ∧
    holds bench (.mtsCycle (plain 0 (.imm 1) (.reg 1) (.reg 0))) (fun _ u =>
      !(userReadOnly 1 && !u.core.k) && kernelReadOnly 1 u.core.control) = true ∧
    holds (machine [(1, 5)]) (.mts (plain 0 (.imm 3) (.reg 1) (.reg 0))) (fun f u => !(userReadOnly 3 && !u.core.k) &&
      !kernelReadOnly 3 u.core.control && !sysValueOk 3 (u.val f.opA)) = true ∧
    holds (machine [(1, 4)]) (.mts (plain 0 (.imm 3) (.reg 1) (.reg 0))) (fun f u => !(userReadOnly 3 && !u.core.k) &&
      !kernelReadOnly 3 u.core.control && sysValueOk 3 (u.val f.opA)) = true := by decide +kernel
theorem witness_SystemReadsBack : sysValueOk 0x101 0xFFFF = true ∧ sysValueOk 0x104 0x3FFFFC = true ∧ sysValueOk 0x106 0x1E000 = true ∧
    (0x103 : Nat) ≠ 0x105 ∧ (0x103 : Nat) ≠ 0x10C := by decide +kernel

/-- A region of 512 KiB in the slices, and an image of 8 bytes in it. -/
def region (k : Bool) : State :=
  let s := slices (paged [(1, 0x8000300000), (2, 0x8000300000)]) [(0x300000, 0x40000), (0x300AE8, 0x8000300000)]
  { s with ctx := { s.ctx with sys := { s.ctx.sys with ctxbuf := 0x8000300000 } }, core := { s.core with k } }
theorem witness_ContextInstructions :
    holds (region true) (.ctxsv (plain 0 (.reg 0) (.imm 1) (.reg 0))) (fun _ u => u.core.kq == [] && (u.regionCheck u.region 0x41000).isNone) = true ∧
    holds (region true) (.ctxld (plain 0 (.reg 0) (.reg 0) (.reg 0))) (fun _ u => u.core.kq == [] &&
      (u.regionCheck u.region 0x41000).isNone && 0 < (u.pkg.mem.word u.region).toNat && (u.pkg.mem.word u.region).toNat ≤ 0x40000 &&
      u.pkg.mem.word (u.region + 0xAE8) == u.ctx.sys.ctxbuf && u.core.gq == [] && u.published.pkg.mem == u.pkg.mem) = true ∧
    holds (region true) (.ctxsvCl (plain 1 (.reg 0) (.reg 1) (.reg 0))) (fun f u => (u.val f.opA).toNat % 65536 == 0 && u.kilnCmds == [] &&
      (List.range 8).all (fun b => !u.bufferBusy b) && (u.regionCheck (u.val f.opA).toNat clusterSize).isNone) = true ∧
    holds (region true) (.ctxldCl (plain 1 (.reg 0) (.reg 1) (.reg 0))) (fun f u => (u.val f.opA).toNat % 65536 == 0 && u.kilnCmds == [] &&
      (List.range 8).all (fun b => !u.bufferBusy b) && (u.regionCheck (u.val f.opA).toNat clusterSize).isNone &&
      (List.range 8).all fun i => !cbBad (u.published.imageFrom (u.val f.opA).toNat clusterSize) (0x21800 + 64 * i)) = true ∧
    bench.unread = false ∧ readies [(0, .stinvVa (plain 0 (.reg 0) (.reg 3) (.reg 0))), (0, .stinvPid (plain 1 (.reg 0) (.imm 0xFFFF) (.reg 0))),
      (0, .stinvAll (plain 2 (.reg 0) (.reg 0) (.reg 0))), (0, .tmark (plain 0 (.reg 0) (.imm 0x55) (.reg 0)))] = true := by decide +kernel

theorem witness_EventUnitEvents : bench.pkg.power = true ∧ (7 : Nat) ≠ bench.core.idx ∧ (bench.evl 31).queue = [] ∧
    (15 : Nat) < 16 ∧ (31 : Nat) < 32 := by decide +kernel
/-- Another agent's act stands at the head of the list: one that happens, and an access that waits for its slice to be ready. -/
def acted (a : OtherAct) : State := { bench with outside := [a] }
/-- With every slice ready, an AADD on the first word of a slice, and the first and last words of the line of a slice. -/
theorem witness_HomeEvents : bench.pkg.power = true ∧
    (∃ a, badLoad.core.gq[0]? = some a ∧ a.performed = true ∧ a.returns = true ∧ a.bad = true) ∧
    badLoad.core.run = .running ∧ badLoad.waitServed = false ∧ badLoad.core.gq.length ≤ 1 ∧
    (acted (.gear 1 1)).actHeld (.gear 1 1) = false ∧
    (acted (.globalAccess 0 0x8000000040 8 none)).actHeld (.globalAccess 0 0x8000000040 8 none) = true ∧
    atomicWidth 0x05 = some 8 ∧ atomFits .add 0x05 = true ∧ (paged []).atHome 0x8000000040 = true ∧
    tierOf 0x8000000040 = .slice ∧ 0x8000000040 % 64 = 0 ∧ tierOf 0x800FFFFFF8 = .slice ∧ 0x800FFFFFF8 % 8 = 0 ∧
    (paged []).atHome 0x800FFFFFF8 = true ∧ (paged []).poisoned 0x800FFFFFF8 8 = false ∧
    bench.pkg.mem.wf = true ∧ bench.pkg.poison = [] ∧ bench.pkg.deferred = [] :=
  ⟨by decide +kernel, ⟨_, rfl, by decide +kernel, by decide +kernel, by decide +kernel⟩, by decide +kernel, by decide +kernel, by decide +kernel,
    by decide +kernel, by decide +kernel, by decide +kernel, by decide +kernel, by decide +kernel, by decide +kernel, by decide +kernel,
    by decide +kernel, by decide +kernel, by decide +kernel, by decide +kernel, by decide +kernel, rfl, rfl⟩

/-- A KZERO that has started is complete; a job of queue 0 stands unstarted; a queue with every slot claimed and one with room. -/
def zeroing : KilnCmd := { bench.command .zero 0 0 3 false [] with started := true }
def engines : State :=
  let s := slices bench [(0x200000, 16), (0x200028, 0x800000000004), (0x200068, 0x800000000004)]
  { s with
    core := { s.core with kq := [zeroing] }
    cl := { s.cl with
      queues := [⟨0x8000200000, 0x200000, 0x8000000000, 0⟩]
      jobs := [{ arr := 1, q := 0, seq := 1, w := Vector.replicate 8 0, link := 0, started := false, refused := false, finished := false
                 pos := 0, clipped := [], past := 0, firstPast := 0, msgDone := false, stampDone := false, fault := false, ue := false
                 typed := false, anyClip := false, bufs := [], own := true, mailTo := 0, index := 0, bads := [], old := [], burstEnd := 0 }] } }
/-- A KMUL that has started and waits for its next slice pass. -/
def multiplying : State :=
  { bench with core := { bench.core with
    kq := [{ bench.command .mul 0 0 3 false [] with started := true, plan := [⟨0, none⟩] }] } }
theorem witness_EngineEvents : engines.pkg.power = true ∧ engines.completable 0 = true ∧ engines.completable 1 = false ∧
    engines.startable 0 = false ∧ (State.reset.core.kq[0]?.any (·.started)) = false ∧ engines.nextPass = none ∧ multiplying.passMayStart 0 0 true = true ∧ (engines.core.kq.any (·.chooses)) = false ∧ (engines.core.kq.any (·.waits)) = false ∧
    (engines.core.kq.any fun c => c.passOver engines.core.cyc) = false ∧ engines.core.cyc < engines.cl.arb.start + 64 ∧
    (let s : State := { engines with core := { engines.core with cyc := 64 } }; s.cl.arb.start + 64 ≤ s.core.cyc) ∧
    engines.slots 0x8000200000 ≤ engines.claimed 0x8000200000 ∧ engines.claimed 0x8000200040 < engines.slots 0x8000200040 ∧
    engines.slotTurn 1 = false ∧ (engines.job 0).isSome = true ∧ engines.jobMoving 0 = false ∧ engines.stampable 0 = false ∧
    (engines.job 0).all (fun x => !x.owesMessage && !(x.stampDone && x.goesOn)) = true := by decide +kernel

/-- A submitted transaction: its one request at a slice, queued, and then granted. -/
def ordered (granted : Bool) : State :=
  let s := withTx 1 false bench
  let key : TxKey := ⟨3, 1, 0, 0, 0, 1, 0, false⟩
  { s with
    ctx := { s.ctx with tx := { s.ctx.tx with key, granted := false, tiles := [(5, true)] } }
    pkg := { s.pkg with seq := { s.pkg.seq with reqs := [⟨key, 5, true, true, granted, 0⟩] } } }
theorem witness_OrderEvents : (ordered false).pkg.power = true ∧ (ordered false).grantable 0 = true ∧
    (ordered true).grantable 0 = false ∧ (ordered true).grantComing = true ∧ (ordered false).grantComing = false ∧
    (ordered false).beatOver 3 = false ∧ (ordered false).mergeable 3 = false ∧ (ordered false).pkg.seq.reqs[0]? = some
      ⟨⟨3, 1, 0, 0, 0, 1, 0, false⟩, 5, true, true, false, 0⟩ := by decide +kernel

/-- A partition of one cluster whose core has arrived at the closing barrier of a compute phase; and one whose exchange is over. -/
def arrived : State :=
  let s := inPartition bench
  { s with core := { s.core with wait := some ⟨.closeCompute, none, false⟩ }, cl := { s.cl with busy := 1, part := { s.cl.part with arrived := 1 } } }
def phased : State :=
  let s := inPartition bench
  { s with cl := { s.cl with part := { s.cl.part with exchange := true, startAt := some 0 } } }
theorem witness_PartitionEvents : arrived.pkg.power = true ∧ arrived.computeOver = true ∧ phased.computeOver = false ∧
    phased.phaseDue = true ∧ arrived.phaseDue = false ∧ bench.cl.overflow = [] ∧ bench.nextReservation = none ∧ bench.nextMigration = none ∧
    bench.traceMode ≠ 2 ∧ bench.headPeriods < 6 ∧
    ({ bench.cl.part with reserved := true } : Partition).reserved = true ∧ bench.dispatchable = false ∧
    (bench.pkg.launches.any (·.over)) = false ∧ State.reset.discardable = false ∧ bench.transferDue = false ∧
    bench.exchangeOver = false ∧ (1 : Nat) ≠ bench.core.idx := by decide +kernel

theorem witness_GearEvents : bench.pkg.power = true ∧ bench.liftable true = false ∧ bench.cl.gear.handover = none ∧
    ({ bench with cl := { bench.cl with gear := { bench.cl.gear with handover := some (true, 64) } } } : State).cl.gear.handover =
      some (true, 64) ∧
    bench.passing = false ∧
    bench.nextRefresh 4095 1 ≤ bench.pkg.cycle ∧ bench.pkg.cycle < (bench.refresh 4095 1).nextRefresh 4095 1 := by decide +kernel

/-- A watchdog that has expired in user mode, and a mailbox message that wakes nobody. -/
def expired : State :=
  let s := user []
  { s with ctx := { s.ctx with sys := { s.ctx.sys with wdog := ⟨true, 0, 0⟩ } } }
theorem witness_SystemEvents : expired.pkg.power = true ∧ expired.watchdogDue = true ∧ expired.core.control = false ∧
    expired.core.run = .running ∧ expired.memoriesWf = true ∧ expired.freezeAll.pkg.poison = [] ∧ bench.watchdogDue = false ∧ bench.saveDue = false ∧ bench.async.isNone = true ∧ bench.wakeable = false ∧
    (paged []).readyBit 0x40 0 = true ∧
    ({ bench with pkg := { bench.pkg with ready := Memory.store [] 0x840 1 1 } } : State).readyBit (0x40 + 0x800) 0 = true := by decide +kernel

/-! ### More results -/

/-- v1 to v3, by their values. -/
def withV (xs : List (Nat × Vec)) (s : State) : State :=
  { s with ctx := { s.ctx with regs := { s.ctx.regs with v := xs.foldl (fun v x => vset v x.1 x.2) s.ctx.regs.v } } }
/-- v2 := op (v3, v4) at the selector. -/
def vectorResults (xs : List ((Fields → Instr) × BitVec 2 × Vec × Vec × Vec)) : Bool :=
  xs.all fun x => givesV (x.1 (plain x.2.1 (.reg 66) (.reg 67) (.reg 68))) (withV [(3, x.2.2.1), (4, x.2.2.2.1)] bench) 2 = some x.2.2.2.2
/-- Lanes of a byte: the sum does not carry into the next lane; products, extrema, logic, and shifts by the lanes of B (R111). -/
theorem test_vector_integers : vectorResults
    [(.vadd, 3, 0x02FF, 0x0101, 0x0300), (.vsub, 3, 0x0200, 0x0101, 0x01FF), (.vmul, 2, 0x00030100, 0x00020100, 0x00060000),
     (.vmulh, 2, 0x00030100, 0x00020100, 0x00000001), (.vmin, 3, 0x80, 0x01, 0x80), (.vmax, 3, 0x80, 0x01, 0x01),
     (.vand, 0, 0xC, 0xA, 8), (.vor, 0, 0xC, 0xA, 0xE), (.vxor, 0, 0xC, 0xA, 6), (.vshl, 3, 0x0181, 0x0201, 0x0402),
     (.vshr, 3, 0x0481, 0x0201, 0x0140), (.vsar, 3, 0x0481, 0x0201, 0x01C0)] = true := by decide +kernel
/-- FP32 lanes: 1 + 2 beside 1 + 1 (R114). -/
theorem test_vector_floats : vectorResults
    [(.vfadd, 1, 0x3F8000003F800000, 0x3F80000040000000, 0x4000000040400000), (.vfsub, 1, 0x40400000, 0x3F800000, 0x40000000),
     (.vfmul, 1, 0x40000000, 0x40400000, 0x40C00000), (.vfmin, 1, 0x40000000, 0x3F800000, 0x3F800000),
     (.vfmax, 1, 0x40000000, 0x3F800000, 0x40000000), (.vshuf, 3, 0x0B0A, 0x0001, BitVec.ofNat 512 (0x0A * ((2 ^ 512 - 1) / 255) + 1))] = true := by
  decide +kernel
/-- An inactive lane keeps its bits (R109): the mask register m7 has lane 0 only. -/
theorem test_vector_mask : givesV (.vadd (plain 3 (.reg 66) (.reg 67) (.reg 68)))
    (let s := withV [(2, 0x7777), (3, 0x0101), (4, 0x0101)] bench;
      { s with ctx := { s.ctx with regs := { s.ctx.regs with m := vset s.ctx.regs.m 7 1 } } }) 2 = some 0x7702 := by decide +kernel
/-- VRED.ADD of the bytes 1, 2, 3 (R119). -/
theorem test_vred : gives (.vred (plain 3 (.reg 11) (.reg 67) (.imm 0))) (withV [(3, 0x030201)] bench) 11 = some 6 := by decide +kernel
theorem test_vextr : gives (.vextr (plain 2 (.reg 11) (.reg 67) (.imm 1))) (withV [(3, 0xABCD1234)] bench) 11 = some 0xABCD := by decide +kernel

/-- LDL of two bytes, little-endian and zero-extended (R98); STL of the low byte. -/
theorem test_ldl : gives (.ldl (plain 2 (.reg 11) (.loc 0x1000) (.imm 0)))
    { bench with cl := { bench.cl with stores := vset bench.cl.stores 0 (Memory.store [] 0x1000 4 0x44338211) } } 11 = some 0x8211 := by
  decide +kernel
theorem test_stl : nextIs (exec (.stl (plain 3 (.reg 1) (.loc 0x1001) (.imm 0))) (machine [(1, 0x1234)]))
    (fun t => t.own.load 0x1000 4 == 0x3400) = true := by decide +kernel
/-- Alignment comes before range (R37). -/
theorem test_ldl_misaligned : traps (.ldl (plain 2 (.reg 11) (.loc 0x1001) (.imm 0))) (user []) = some (0x08, 0x1001) := by decide +kernel
theorem test_ldl_range : traps (.ldl (plain 0 (.reg 11) (.loc 0x1E000) (.imm 0))) (user []) = some (0x05, 0x1E000) := by decide +kernel
/-- A store and a load through the page table (R99), performed by the settling of the accesses. -/
def performs (i : Instr) (s : State) (p : State → Bool) : Bool := nextIs (exec i s) fun t => p t.performAll
theorem test_stg : performs (.stg (plain 1 (.reg 2) (.reg 1) (.imm 0))) (paged [(1, 0x100000), (2, 0xAABBCCDDEEFF1122)])
    (fun t => t.pkg.mem.load 0x8000100000 8 == 0xEEFF1122) = true := by decide +kernel
theorem test_stg_unmapped : traps (.stg (plain 1 (.reg 2) (.reg 1) (.imm 0))) (paged [(1, 0x10000000000)]) = some (0x06, 0x10000000000) := by
  decide +kernel
theorem test_ldg : nextIs (exec (.ldg (plain 3 (.reg 11) (.reg 1) (.imm 2))) (slices (paged [(1, 0x100000)]) [(0x100000, 0x0011223344AA6677)]))
    (fun t => t.drain.1.landAll.ctx.regs.scalar 11 == 0xAA) = true := by decide +kernel

/-- Transfers: an immediate counts from the instruction itself, and CALL leaves the return address in s62 (R101, R102). -/
theorem test_br : nextIs (exec (.br (plain 0 (.reg 0) (.imm 24) (.reg 0))) bench) (fun t => t.ctx.pc == 0x418) = true := by decide +kernel
theorem test_call : nextIs (exec (.call (plain 0 (.reg 0) (.loc 0x600) (.reg 0))) bench)
    (fun t => t.ctx.pc == 0x600 && t.settled.regs.scalar 62 == 0x40C) = true := by decide +kernel
theorem test_ret : nextIs (exec (.ret (plain 0 (.reg 0) (.reg 0) (.reg 0))) (machine [(62, 0x700)])) (fun t => t.ctx.pc == 0x700) = true := by
  decide +kernel
theorem test_jmp_range : traps (.jmp (plain 0 (.reg 0) (.reg 1) (.reg 0))) (user [(1, 0x400000)]) = some (0x05, 0x400000) := by decide +kernel
theorem test_loop : nextIs (exec (.loop (plain 3 (.reg 1) (.imm 0x3FFFF4) (.reg 0))) (machine [(1, 2)]))
    (fun t => t.ctx.pc == 0x3F4 && t.settled.regs.scalar 1 == 1) = true := by decide +kernel
theorem test_rep : nextIs (exec (.rep (plain 0 (.reg 0) (.imm 3) (.imm 1))) bench)
    (fun t => t.ctx.pc == 0x40C && t.ctx.rep.any fun r => r.left == 3 && r.len == 1 && r.pos == 0) = true := by decide +kernel
theorem test_nop : nextIs (exec (.nop (plain 0 (.reg 0) (.reg 0) (.reg 0))) bench) (fun t => t.ctx.pc == 0x40C && t.ctx.retired == 1) = true := by
  decide +kernel

/-- SYSC from user mode (R369, R372): trap 0x14 with the immediate, TRAPPC the instruction's address, kernel mode; ERET goes back. -/
theorem test_sysc : nextIs (exec (.sysc (plain 0 (.reg 0) (.imm 0x33) (.reg 0))) (user [])) (fun t =>
    t.ctx.trap.c == 0x14 && t.ctx.trap.val == 0x33 && t.ctx.trap.pc == 0x400 && t.core.k && !t.ctx.trap.pk && t.ctx.pc == 0x1E000) = true := by
  decide +kernel
theorem test_eret : nextIs (exec (.eret (plain 0 (.reg 0) (.reg 0) (.reg 0)))
    { bench with ctx := { bench.ctx with trap := ⟨false, 0x14, 0x40C, 0x33, none⟩ } })
    (fun t => t.ctx.pc == 0x40C && !t.core.k) = true := by decide +kernel
theorem test_eret_user : traps (.eret (plain 0 (.reg 0) (.reg 0) (.reg 0))) (user []) = some (0x04, 0x334) := by decide +kernel
theorem test_trap : nextIs (exec (.trap (plain 0 (.reg 0) (.imm 0xD) (.reg 5))) (user [(5, 9)])) (fun t =>
    t.ctx.trap.c == 0x10D && t.ctx.trap.val == 9) = true := by decide +kernel
/-- MTS and MFS (R106): HANDLER in kernel mode, and its refusal in user mode with the register and the opcode in TRAPVAL. -/
theorem test_mts : nextIs (exec (.mts (plain 0 (.imm 0x106) (.reg 1) (.reg 0))) (machine [(1, 0x1F000)])) (fun t => t.core.handler == 0x1F000) = true := by
  decide +kernel
theorem test_mfs : gives (.mfs (plain 0 (.reg 11) (.imm 0x106) (.reg 0))) bench 11 = some 0x1E000 := by decide +kernel
theorem test_mfs_user : traps (.mfs (plain 0 (.reg 11) (.imm 0x106) (.reg 0))) (user []) = some (0x04, 0x10600330) := by decide +kernel

/-- The event unit (R242 to R245): a signal of line 5, a mutex that is free, a barrier of which this core alone is a member. -/
theorem test_evsig : nextIs (exec (.evsig (plain 0 (.reg 0) (.imm 5) (.reg 0))) bench) (fun t => (t.evl 5).pend == 1) = true := by decide +kernel
theorem test_mutex : nextIs (exec (.ldl (plain 0 (.reg 11) (.loc 0x300400) (.imm 0))) bench)
    (fun t => (t.mtx 0).held && (t.mtx 0).owner == 0) = true := by decide +kernel
theorem test_barrier : nextIs (exec (.stl (plain 0 (.reg 1) (.loc 0x300010) (.imm 0)))
    { bench with cl := { bench.cl with bars := vset bench.cl.bars 0 ⟨1, 4, 0⟩ } }) (fun t => t.bar 0 == ⟨1, 5, 0⟩) = true := by decide +kernel
/-- AADD on an INT64 page returns the old word (R229); PUT of an empty word, and TAKE of a full one empties it (R235). -/
theorem test_aadd : nextIs (exec (.aadd (plain 0 (.reg 11) (.reg 1) (.reg 2))) (slices (paged [(1, 0x40100000), (2, 5)]) [(0x100000, 7)]))
    (fun t => let u := t.drain.1.landAll; u.ctx.regs.scalar 11 == 7 && u.pkg.mem.load 0x8000100000 8 == 12) = true := by decide +kernel
theorem test_take : nextIs (exec (.take (plain 0 (.reg 11) (.reg 1) (.reg 0))) (slices (paged [(1, 0x100008)]) [(0x100008, 9)]))
    (fun t => !t.full 0x8000100008 && t.settled.regs.scalar 11 == 9) = true := by decide +kernel
theorem test_put : performs (.put (plain 0 (.reg 112) (.reg 1) (.reg 2))) (paged [(1, 0x100008), (2, 6)])
    (fun t => t.pkg.mem.load 0x8000100008 8 == 6 && t.full 0x8000100008) = true := by decide +kernel

/-- KZERO enters the queue; KMOV.W then KMOV.R's chunk; the status of an idle Kiln (R158 to R160). -/
theorem test_kzero : nextIs (exec (.kzero (plain 0 (.reg 0) (.imm 3) (.reg 0))) bench) (fun t => t.core.kq.length == 1) = true := by decide +kernel
theorem test_kmov : nextIs (exec (.kmovW (plain 1 (.reg 2) (.reg 67) (.imm 3))) (withV [(3, 0xAB)] bench))
    (fun t => t.ctx.tiles.acc.load (1024 * 2 + 64 * 3) 64 == 0xAB) = true := by decide +kernel
/-- TDECL.W joins the set; TSTAT of an idle context is 0 (R294, Table 15-2). -/
theorem test_tdecl : nextIs (exec (.tdeclW (plain 1 (.reg 0) (.reg 1) (.imm 64))) (machine [(1, 0x100000)]))
    (fun t => t.ctx.tx.decl == [⟨0x100000, 64, true⟩]) = true := by decide +kernel
theorem test_tstat : gives (.tstat (plain 0 (.reg 11) (.reg 0) (.reg 0))) bench 11 = some 0 := by decide +kernel
/-- CPOST claims the first slot: W rises to 1, and word 0 of the packet and D hold sequence number 1 (R251, R269). -/
theorem test_cpost : nextIs (exec (.cpost (plain 0 (.reg 11) (.reg 1) (.loc 0x1000))) queued)
    (fun t => t.settled.regs.scalar 11 == 1 && t.pkg.mem.load 0x8000200000 8 == 1 && t.pkg.mem.load 0x8000210000 7 == 1) = true := by decide +kernel
/-- The host's question: the word placed after reset is the first instruction to run. -/
theorem test_withFetchWord : nextIs (step (State.reset.withFetchWord 96 0x009C0000000B000001000002))
    (fun t => t.ctx.retired == 1) = true := by decide +kernel

end Sys2Proof.Tests
end

section
/-! SUPPORT. What one step of the machine keeps: every instruction and event, the core's own turn, and the step itself, from the
lemmas on their effects and operations. -/

namespace Sys2Proof.Machine

/-! ### Meanings that are more than one effect or one operation -/

/-- PFX is latched, or traps (R31). -/
theorem keeps_execPfx {p : Pfx} {s t : State} (h : execPfx p s = .next t) : Keeps s t := by
  have r := Keeps.refl s
  unfold execPfx at h
  split at h
  · cases h
  split at h
  · exact Host.Outcome.next.inj h ▸ keeps_trap _ r
  split at h
  · exact Host.Outcome.next.inj h ▸ keeps_trap _ r
  · exact Host.Outcome.next.inj h ▸ Keeps.upd r rfl

/-- DETACH leaves the chain, and fetch sees the core's own store (R17, R324). -/
theorem keeps_execDetach {f : Fields} {s t : State} (h : execDetach f s = .next t) : Keeps s t := by
  unfold execDetach at h
  refine keeps_issue (fun u g => ?_) h
  have hl := keeps_leaveChain g
  refine Eff.keeps_ok (Keeps.updFrom hl rfl rfl rfl rfl rfl fun hs => ?_)
  have hi : Keeps u.leaveChain { u.leaveChain with core := { u.leaveChain.core with ifetch := u.own } } :=
    keeps_ifetch (.refl _) rfl rfl rfl rfl rfl fun _ => own_wf (g.wf hs)
  exact hi.wf (hl.wf hs)

/-- What another core does where it arrives, at a barrier line or at one of the places numbered after them (R242, R246, R296, R314, R321,
R324). -/
theorem keeps_execBarrierArrive {b core : Nat} {s t : State} (h : execBarrierArrive b core s = .next t) : Keeps s t := by
  unfold execBarrierArrive at h
  refine keeps_event (keeps_byOther core (fun u g => ?_) (.refl s)) h
  split
  · exact keeps_gangArrive _ g
  · exact keeps_otherTend _ g
  · exact keeps_arriveStep _ g
  · exact keeps_otherSlave _ g
  · exact keeps_chainForms _ g
  · exact keeps_lead g
  · exact keeps_barArrive _ _ g

/-- The translation of an access or a walk may leave entries at the station (R358, R361). -/
theorem keeps_execStationAccept {who : Requester} {k : AccKind} {va : Word} {s t : State}
    (h : execStationAccept who k va s = .next t) : Keeps s t := by
  unfold execStationAccept at h
  refine keeps_event ?_ h
  split
  · exact keeps_keep _ (.refl s)
  · exact .refl s

/-! ### Every meaning -/

/-- An instruction leaves the same core: its issue does, if its effect does. -/
theorem keeps_exec_fields {i : Instr} {f : Fields} {s t : State} (hf : i.fields = some f) (h : exec i s = .next t) : Keeps s t := by
  cases i with
  | add | sub | mul | mulh | mulhu | div | divu | rem | remu | andOp | orOp | xor | andn | shl | shr | sar | rotl | clz | ctz
  | popc | min | max | minu | maxu | abs | neg => exact keeps_issue (fun _ g => keeps_alu _ _ _ g) h
  | sext | zext => exact keeps_issue (fun _ g => keeps_extend _ _ g) h
  | bfx | bfi | lea | mov | sel | fclass | fabs | fneg | kstat | tstat | taskq =>
    simp only [exec_bfx, execBfx, exec_bfi, execBfi, exec_lea, execLea, exec_mov, execMov, exec_sel, execSel, exec_fclass,
      execFclass, exec_fabs, execFabs, exec_fneg, execFneg, exec_kstat, execKstat, exec_tstat, execTstat, exec_taskq,
      execTaskq] at h
    refine keeps_issue (fun _ g => ?_) h
    exact Eff.keeps_ok (keeps_setS _ _ _ g)
  | cmp => exact keeps_issue (fun _ g => keeps_cmpEffect _ g) h
  | plog => exact keeps_issue (fun _ g => keeps_plogEffect _ g) h
  | fadd | fsub | fmul | ffma | fdiv | fsqrt => exact keeps_issue (fun _ g => keeps_fop _ _ _ g) h
  | fmin | fmax => exact keeps_issue (fun _ g => keeps_fminmax _ _ g) h
  | fcmp => exact keeps_issue (fun _ g => keeps_fcmpEffect _ g) h
  | fcvt => exact keeps_issue (fun _ g => keeps_fcvtEffect _ g) h
  | fcvti => exact keeps_issue (fun _ g => keeps_fcvtiEffect _ g) h
  | icvtf => exact keeps_issue (fun _ g => keeps_icvtfEffect _ g) h
  | ldl => exact keeps_issue (fun _ g => keeps_ldlEffect _ g) h
  | stl => exact keeps_issue (fun _ g => keeps_stlEffect _ g) h
  | ldg => exact keeps_issue (fun _ g => keeps_ldgEffect _ g) h
  | stg => exact keeps_issue (fun _ g => keeps_stgEffect _ g) h
  | pref => exact keeps_issue (fun _ g => keeps_prefEffect _ g) h
  | br =>
    rw [exec_br, execBr] at h
    refine keeps_issue (fun _ g => ?_) h
    exact Eff.keeps_jump g
  | call => exact keeps_issue (fun _ g => keeps_callEffect _ g) h
  | ret | jmp =>
    simp only [exec_ret, execRet, exec_jmp, execJmp] at h
    refine keeps_issue (fun _ g => ?_) h
    exact keeps_jumpTo _ g
  | loop => exact keeps_issue (fun _ g => keeps_loopEffect _ g) h
  | rep => exact keeps_issue (fun _ g => keeps_repEffect _ g) h
  | nop => exact keeps_issue (fun _ g => Eff.keeps_ok g) h
  | stop => exact keeps_issue (fun _ g => keeps_stopEffect _ g) h
  | vadd | vsub | vmul | vmulh | vmin | vmax | vand | vor | vxor | vshl | vshr | vsar | vabs | vneg =>
    exact keeps_issue (fun _ g => keeps_vint _ _ _ g) h
  | vcmp => exact keeps_issue (fun _ g => keeps_vcmpEffect _ g) h
  | vsel => exact keeps_issue (fun _ g => keeps_vselEffect _ g) h
  | vclamp => exact keeps_issue (fun _ g => keeps_vclampEffect _ g) h
  | vfadd | vfsub | vfmul | vfma | vfdiv | vfsqrt | vfrsq | vfexp2 | vflog2 => exact keeps_issue (fun _ g => keeps_vfop _ _ _ g) h
  | vfmin | vfmax => exact keeps_issue (fun _ g => keeps_vfminmax _ _ g) h
  | vfcmp => exact keeps_issue (fun _ g => keeps_vfcmpEffect _ g) h
  | vcvt => exact keeps_issue (fun _ g => keeps_vcvtEffect _ g) h
  | vpack => exact keeps_issue (fun _ g => keeps_vpackEffect _ g) h
  | vunpk => exact keeps_issue (fun _ g => keeps_vunpkEffect _ g) h
  | vshuf => exact keeps_issue (fun _ g => keeps_vshufEffect _ g) h
  | vbcast => exact keeps_issue (fun _ g => keeps_vbcastEffect _ g) h
  | vextr => exact keeps_issue (fun _ g => keeps_vextrEffect _ g) h
  | vins => exact keeps_issue (fun _ g => keeps_vinsEffect _ g) h
  | vred => exact keeps_issue (fun _ g => keeps_vredEffect _ g) h
  | vscan => exact keeps_issue (fun _ g => keeps_vscanEffect _ g) h
  | vqnt => exact keeps_issue (fun _ g => keeps_vqntEffect _ g) h
  | vdqnt => exact keeps_issue (fun _ g => keeps_vdqntEffect _ g) h
  | vcbd => exact keeps_issue (fun _ g => keeps_vcbdEffect _ g) h
  | vcbdLt => exact keeps_issue (fun _ g => keeps_vcbdLtEffect _ g) h
  | lsupd => exact keeps_issue (fun _ g => keeps_lsupdEffect _ g) h
  | vldl => exact keeps_issue (fun _ g => keeps_vldlEffect _ g) h
  | vstl => exact keeps_issue (fun _ g => keeps_vstlEffect _ g) h
  | vldg => exact keeps_issue (fun _ g => keeps_vldgEffect _ g) h
  | vstg => exact keeps_issue (fun _ g => keeps_vstgEffect _ g) h
  | vgath => exact keeps_issue (fun _ g => keeps_vgathEffect _ g) h
  | vscat => exact keeps_issue (fun _ g => keeps_vscatEffect _ g) h
  | scfg => exact keeps_issue (fun _ g => keeps_scfgEffect _ g) h
  | sstat => exact keeps_issue (fun _ g => keeps_sstatEffect _ g) h
  | sstatDrain => exact keeps_issue (fun _ g => keeps_sstatDrainEffect _ g) h
  | kldb => exact keeps_issue (fun _ g => keeps_kldbEffect _ g) h
  | kmul => exact keeps_issue (fun _ g => keeps_kmulEffect _ g) h
  | kmulb => exact keeps_issue (fun _ g => keeps_kmulbEffect _ g) h
  | kmovR => exact keeps_issue (fun _ g => keeps_kmovREffect _ g) h
  | kmovW => exact keeps_issue (fun _ g => keeps_kmovWEffect _ g) h
  | kmovRz => exact keeps_issue (fun _ g => keeps_kmovRzEffect _ g) h
  | kzero => exact keeps_issue (fun _ g => keeps_kzeroEffect _ g) h
  | kcfg | kseed | kseedTc | klim =>
    simp only [exec_kcfg, execKcfg, exec_kseed, execKseed, exec_kseedTc, execKseedTc, exec_klim, execKlim] at h
    refine keeps_issue (fun _ g => ?_) h
    exact Eff.keeps_ok (Keeps.upd g rfl)
  | kstatJ | kevar =>
    simp only [exec_kstatJ, execKstatJ, exec_kevar, execKevar] at h
    refine keeps_issue (fun _ g => ?_) h
    exact keeps_joined g (Eff.keeps_ok (keeps_setS _ _ _ g))
  | kstatJc => exact keeps_issue (fun _ g => keeps_kstatJcEffect _ g) h
  | ksync =>
    rw [exec_ksync, execKsync] at h
    refine keeps_issue (fun _ g => ?_) h
    exact keeps_joined g (Eff.keeps_ok g)
  | knorm => exact keeps_issue (fun _ g => keeps_knormEffect _ g) h
  | knormRel => exact keeps_issue (fun _ g => keeps_knormRelEffect _ g) h
  | kest => exact keeps_issue (fun _ g => keeps_kestEffect _ g) h
  | cpost | cgath | cwin => exact keeps_issue (fun _ g => keeps_submitEffect _ _ g) h
  | clink => exact keeps_issue (fun _ g => keeps_clinkEffect _ g) h
  | cbinit => exact keeps_issue (fun _ g => keeps_cbinitEffect _ g) h
  | cbput => exact keeps_issue (fun _ g => keeps_cbputEffect _ g) h
  | cbget => exact keeps_issue (fun _ g => keeps_cbgetEffect _ g) h
  | mbxr | mbxrT | mrecv | mrecvT =>
    simp only [exec_mbxr, execMbxr, exec_mbxrT, execMbxrT, exec_mrecv, execMrecv, exec_mrecvT, execMrecvT] at h
    with_reducible exact keeps_issue (fun _ g => keeps_takeMessage _ _ _ g) h
  | tdeclR | tdeclW => exact keeps_issue (fun _ g => keeps_tdeclEffect _ _ g) h
  | tdeclClr =>
    rw [exec_tdeclClr, execTdeclClr] at h
    refine keeps_issue (fun _ g => ?_) h
    exact Eff.keeps_ok (keeps_setTx _ g)
  | tsub => exact keeps_issue (fun _ g => keeps_tsubEffect _ _ g) h
  | tsubD =>
    rw [exec_tsubD, execTsubD] at h
    refine keeps_issue (fun _ g => ?_) h
    exact keeps_partitioned (keeps_tsubEffect _ _ g)
  | tend | tendG => exact keeps_issue (fun _ g => keeps_tendEffect _ g) h
  | tstatW => exact keeps_issue (fun _ g => keeps_tstatWEffect _ g) h
  | aadd | aand | aor | axor | amin | amax | aminu | amaxu | afadd | afmin | afmax | aswp | acas =>
    exact keeps_issue (fun _ g => keeps_atomicEffect _ _ g) h
  | reda => exact keeps_issue (fun _ g => keeps_redaEffect _ g) h
  | take | takeK => exact keeps_issue (fun _ g => keeps_takeEffect _ _ g) h
  | put => exact keeps_issue (fun _ g => keeps_putEffect _ g) h
  | mwait => exact keeps_issue (fun _ g => keeps_mwaitEffect _ g) h
  | evwait => exact keeps_issue (fun _ g => keeps_evwaitEffect _ g) h
  | evsig =>
    rw [exec_evsig, execEvsig] at h
    refine keeps_issue (fun _ g => ?_) h
    exact Eff.keeps_ok (keeps_eventSig _ _ (keeps_published g))
  | evsigR => exact keeps_issue (fun _ g => keeps_evsigREffect _ g) h
  | bar => exact keeps_issue (fun _ g => keeps_barEffect _ g) h
  | barG => exact keeps_issue (fun _ g => keeps_barGEffect g) h
  | fence =>
    rw [exec_fence, execFence] at h
    with_reducible exact keeps_issue (fun _ g => keeps_fenceEffect g) h
  | post => exact keeps_issue (fun _ g => keeps_postEffect _ g) h
  | texit =>
    rw [exec_texit, execTexit] at h
    with_reducible exact keeps_issue (fun _ g => keeps_texitEffect _ g) h
  | slave =>
    rw [exec_slave, execSlave] at h
    with_reducible exact keeps_issue (fun _ g => keeps_slaveEffect g) h
  | slaveL => exact keeps_issue (fun _ g => keeps_slaveLEffect _ g) h
  | detach => exact keeps_execDetach h
  | xrun => exact keeps_issue (fun _ g => keeps_xrunEffect _ g) h
  | xwait => exact keeps_issue (fun _ g => keeps_xwaitEffect _ g) h
  | xwaitE => exact keeps_issue (fun _ g => keeps_xwaitEEffect _ g) h
  | msend => exact keeps_issue (fun _ g => keeps_msendEffect _ g) h
  | gearF | gearN => exact keeps_issue (fun _ g => keeps_gearEffect _ _ g) h
  | mfs => exact keeps_issue (fun _ g => keeps_mfsEffect _ g) h
  | mts | mtsRetired | mtsCycle | sensinjWrite => exact keeps_issue (fun _ g => keeps_mtsEffect _ g) h
  | trap => exact keeps_issue (fun _ g => keeps_trapEffect _ g) h
  | sysc | brk =>
    simp only [exec_sysc, execSysc, exec_brk, execBrk] at h
    refine keeps_issue (fun _ g => ?_) h
    exact Eff.keeps_trapIn (keeps_refetch _ g)
  | eret =>
    rw [exec_eret, execEret] at h
    refine keeps_issue (fun _ g => ?_) h
    exact Eff.keeps_stay (keeps_leaveTrap (keeps_retire _ _ _ (keeps_trace _ _ g)))
  | ctxsv => exact keeps_issue (fun _ g => keeps_ctxsvEffect _ g) h
  | ctxsvCl =>
    rw [exec_ctxsvCl, execCtxsvCl] at h
    refine keeps_issue (fun _ g => ?_) h
    exact keeps_clusterForm g fun _ => Eff.keeps_ok (keeps_saveCluster _ (keeps_published g))
  | ctxld => exact keeps_issue (fun _ g => keeps_ctxldEffect g) h
  | ctxldCl => exact keeps_issue (fun _ g => keeps_ctxldClEffect _ g) h
  | stinvVa | stinvPid | stinvAll =>
    simp only [exec_stinvVa, execStinvVa, exec_stinvPid, execStinvPid, exec_stinvAll, execStinvAll] at h
    refine keeps_issue (fun _ g => ?_) h
    exact keeps_invalidates _ g
  | tmark =>
    rw [exec_tmark, execTmark] at h
    refine keeps_issue (fun _ g => ?_) h
    exact Eff.keeps_ok (keeps_trace _ _ g)
  | _ => cases hf

/-- PFX, an event of the outside or of an agent, and a boot leave the same core. -/
theorem keeps_exec_event {i : Instr} {s t : State} (hf : i.fields = none) (h : exec i s = .next t) : Keeps s t := by
  have r := Keeps.refl s
  cases i with
  | pfx => exact keeps_execPfx h
  | dbgctlHalt => exact keeps_event (keeps_haltRequest _ r) h
  | dbgctlStep | dbgctlQuiesce | exportWindowNarrow =>
    simp only [exec_dbgctlStep, execDbgctlStep, exec_dbgctlQuiesce, execDbgctlQuiesce, exec_exportWindowNarrow,
      execExportWindowNarrow] at h
    refine keeps_event ?_ h
    exact Keeps.upd r rfl
  | barrierMaskWrite => exact keeps_event (keeps_barMask _ _ r) h
  | barrierArrive => exact keeps_execBarrierArrive h
  | barrierSync =>
    rw [exec_barrierSync, execBarrierSync] at h
    refine keeps_event ?_ h
    exact keeps_byOther _ (fun _ g => keeps_barArrive _ _ g) r
  | mutexLock =>
    rw [exec_mutexLock, execMutexLock] at h
    refine keeps_event ?_ h
    exact keeps_byOther _ (fun _ g => keeps_mutexLock _ _ g) r
  | mutexTry =>
    rw [exec_mutexTry, execMutexTry] at h
    refine keeps_event ?_ h
    exact keeps_byOther _ (fun _ g => keeps_mutexTry _ _ g) r
  | mutexUnlock =>
    rw [exec_mutexUnlock, execMutexUnlock] at h
    refine keeps_event ?_ h
    exact keeps_byOther _ (fun _ g => keeps_mutexUnlock _ _ g) r
  | mutexErrClear =>
    rw [exec_mutexErrClear, execMutexErrClear] at h
    refine keeps_event ?_ h
    exact keeps_setMtx _ _ r
  | eventPendWrite => exact keeps_event (keeps_eventPend _ _ r) h
  | eventSig | eventMessageLand => exact keeps_event (keeps_eventSig _ _ r) h
  | eventWait =>
    rw [exec_eventWait, execEventWait] at h
    refine keeps_event ?_ h
    exact keeps_byOther _ (fun _ g => keeps_eventWait _ _ g) r
  | waitWake => exact keeps_event (keeps_wake r) h
  | trapEntry => exact keeps_event (keeps_takeRequest r) h
  | stationAccept => exact keeps_execStationAccept h
  | pageWalk => exact keeps_execStationAccept (k := .read) h
  | globalAccessPerform =>
    rw [exec_globalAccessPerform, execGlobalAccessPerform] at h
    refine keeps_event ?_ h
    exact Keeps.ite (fun _ => keeps_outsideNth _ r) fun _ => Keeps.ite (fun _ => keeps_performNth _ r) fun _ => r
  | globalLoadReturn => exact keeps_event (keeps_returnNth _ r) h
  | bankAluAtomic => exact keeps_event (keeps_otherAtomic _ _ _ _ _ r) h
  | atomicLineMove =>
    rw [exec_atomicLineMove, execAtomicLineMove] at h
    refine keeps_event ?_ h
    exact keeps_lineMove _ _ r
  | atomicLineReturn => exact keeps_event (keeps_lineHome _ r) h
  | redaArrival => exact keeps_event (keeps_otherArrives _ _ _ _ r) h
  | feTakeAtHome => exact keeps_event (keeps_otherTakes _ _ _ _ r) h
  | fePutAtHome => exact keeps_event (keeps_otherPuts _ _ _ r) h
  | fenceComplete => exact keeps_event (keeps_completeFence r) h
  | kilnCommandStart => exact keeps_event (keeps_startCmd _ r) h
  | slicePassGrant => exact keeps_event (keeps_grantPass r) h
  | slicePassComplete => exact keeps_event (keeps_finishPass r) h
  | kestSelection => exact keeps_event (keeps_selectEst r) h
  | kilnCommandComplete => exact keeps_event (keeps_finishCmd _ r) h
  | kilnBudgetWindow => exact keeps_event (keeps_budgetWindow r) h
  | queueClaim =>
    rw [exec_queueClaim, execQueueClaim] at h
    refine keeps_event ?_ h
    exact keeps_claimAt _ r
  | queueStatWrite =>
    rw [exec_queueStatWrite, execQueueStatWrite] at h
    refine keeps_event ?_ h
    exact keeps_restartQueues (keeps_homeStore _ _ _ r)
  | packetRead => exact keeps_event (keeps_readPacket _ r) h
  | copyJobStart => exact keeps_event (keeps_startJob _ r) h
  | copyBurst => exact keeps_event (keeps_burstJob _ r) h
  | linkPacketRead => exact keeps_event (keeps_linkJob _ r) h
  | clipMessage => exact keeps_event (keeps_clipMsg _ r) h
  | stampWrite => exact keeps_event (keeps_stampJob _ r) h
  | streamReadAhead => exact keeps_event (keeps_readAhead _ r) h
  | streamPushWrite => exact keeps_event (keeps_writePush _ r) h
  | launch => exact keeps_event (keeps_launch _ _ _ _ _ r) h
  | overflowReturn => exact keeps_event (keeps_returnOverflow r) h
  | taskDispatch => exact keeps_event (keeps_dispatch r) h
  | recordReservation => exact keeps_event (keeps_reserve _ r) h
  | gangMigration => exact keeps_event (keeps_migrate _ _ r) h
  | launchComplete => exact keeps_event (keeps_completeLaunch r) h
  | computeBarrierRelease => exact keeps_event (keeps_openExchange r) h
  | exchangeTransferStart => exact keeps_event (keeps_startTransfer _ r) h
  | exchangeLanding => exact keeps_event (keeps_landTransfer _ r) h
  | exchangeBarrierRelease => exact keeps_event (keeps_closeExchange _ r) h
  | computePhaseStart => exact keeps_event (keeps_startPhase r) h
  | messageDelivery => exact keeps_event (keeps_deliverMessage _ _ r) h
  | gearLift => exact keeps_event (keeps_liftGear _ r) h
  | railHandover => exact keeps_event (keeps_changeRail _ r) h
  | handoverComplete => exact keeps_event (keeps_endHandover r) h
  | controlInterval => exact keeps_event (keeps_interval _ _ _ _ _ r) h
  | sagStretch => exact keeps_event (keeps_stretch r) h
  | sagHoldEnd => exact keeps_event (keeps_endSag r) h
  | sensorReading => exact keeps_event (keeps_sensor _ _ _ _ r) h
  | dramRefresh => exact keeps_event (keeps_refresh _ _ r) h
  | refreshEnd => exact keeps_event (keeps_endRefresh _ _ r) h
  | scrub => exact keeps_event (keeps_scrubAt _ _ r) h
  | watchdogExpiry => exact keeps_event (keeps_expire r) h
  | sequencerSubmission => exact keeps_event (keeps_submitKey _ _ r) h
  | beatEnd => exact keeps_event (keeps_endBeat _ r) h
  | orderMerged => exact keeps_event (keeps_mergeOrder _ _ r) h
  | sliceGrant => exact keeps_event (keeps_grantTile _ r) h
  | grantDelivery => exact keeps_event (keeps_deliverGrant r) h
  | releasePerform => exact keeps_event (keeps_release _ r) h
  | haltTreeStop => exact keeps_event (keeps_haltStop r) h
  | haltTreeFreeze => exact keeps_event (keeps_freezeAll r) h
  | kernelCrash =>
    rw [exec_kernelCrash, execKernelCrash] at h
    refine keeps_event ?_ h
    exact Keeps.ite (fun _ => keeps_crash _ r) fun _ => r
  | warmReboot => exact Host.Outcome.next.inj h ▸ keeps_warmReboot r
  | coldBoot => exact Host.Outcome.next.inj h ▸ keeps_coldBoot _ r
  | selfTestPass => exact keeps_event (keeps_pass _ _ r) h
  | functionFailed => exact keeps_event (keeps_fail _ _ r) h
  | linkFailed => exact keeps_event (keeps_failLink _ r) h
  | hostRead => exact keeps_event (keeps_hostRead _ _ _ r) h
  | hostWrite => exact keeps_event (keeps_hostWrite _ _ _ _ r) h
  | remoteAccess => exact keeps_event (keeps_remote _ _ _ _ r) h
  | domainFormation => exact keeps_event (keeps_form _ _ _ r) h
  | preemptionRequest => exact keeps_event (keeps_requestRunning _ r) h
  | contextDiscard => exact keeps_event (keeps_discard r) h
  | recordDelivery => exact keeps_event (keeps_deliverRecord r) h
  | _ => cases hf

/-- Every instruction and every event leaves the same core. -/
theorem keeps_exec {i : Instr} {s t : State} (h : exec i s = .next t) : Keeps s t := by
  cases hf : i.fields with
  | some f => exact keeps_exec_fields hf h
  | none => exact keeps_exec_event hf h

/-! ### The core's turn -/

theorem keeps_runWord {w : IWord} {s t : State} (h : runWord w s = .next t) : Keeps s t := by
  unfold runWord at h
  split at h
  · exact keeps_exec h
  · exact Host.Outcome.next.inj h ▸ keeps_trap _ (.refl s)
  · exact Host.Outcome.next.inj h ▸ .refl s

theorem keeps_fetchAndRun {a : Word} {s t : State} (h : fetchAndRun a s = .next t) : Keeps s t := by
  unfold fetchAndRun at h
  split at h
  · exact Host.Outcome.next.inj h ▸ keeps_trap _ (.refl s)
  · exact keeps_runWord h

theorem keeps_runForwarded {k : Nat} {a : Word} {pre : Option Pfx} {w : IWord} {s t : State}
    (h : runForwarded k a pre w s = .next t) : Keeps s t := by
  unfold runForwarded at h
  dsimp only at h
  split at h
  · next m hm =>
    have hsm : Keeps s m := by
      refine Keeps.trans ?_ (keeps_runWord hm)
      exact Keeps.upd (.refl s) rfl
    split at h
    · exact Host.Outcome.next.inj h ▸ hsm
    · exact Host.Outcome.next.inj h ▸ keeps_forwardedIssued _ _ hsm
  · next hno => exact (hno _ h).elim

theorem keeps_followStep {c : Chain} {s t : State} (h : followStep c s = .next t) : Keeps s t := by
  unfold followStep at h
  extract_lets r at h
  have hr : Keeps s r.1 := keeps_fill 2 c (.refl s)
  split at h
  · extract_lets pre k w at h
    split at h
    · exact hr.trans (keeps_runForwarded h)
    · exact Host.Outcome.next.inj h ▸ keeps_passOver _ _ _ (fun _ _ _ e => keeps_exec e) hr
  · exact Host.Outcome.next.inj h ▸ hr

/-- The core's own step: the end of a handover, one that is due, a request, a cycle without an instruction, or an instruction. -/
theorem keeps_coreStep {s t : State} (h : coreStep s = .next t) : Keeps s t := by
  have r := Keeps.refl s
  unfold coreStep at h
  split at h
  · exact keeps_event (keeps_endHandover r) h
  split at h
  · exact Host.Outcome.next.inj h ▸ Keeps.ite (fun _ => keeps_idle r) fun _ => keeps_startHandover _ r
  split at h
  · exact keeps_event (keeps_takeRequest r) h
  split at h
  · exact Host.Outcome.next.inj h ▸ keeps_idle r
  split at h
  · split at h
    · exact keeps_fetchAndRun h
    · exact keeps_followStep h
  · exact keeps_fetchAndRun h

/-! ### The step -/

/-- A step beside the core's own is an event of the opcode table. -/
theorem runAct_isEvent (a : Act) : ∃ i, ∀ s, runAct a s = exec i s := by
  cases a with
  | globalAccessPerform k => exact ⟨.globalAccessPerform k, fun _ => rfl⟩
  | globalLoadReturn k => exact ⟨.globalLoadReturn k, fun _ => rfl⟩
  | fenceComplete => exact ⟨.fenceComplete, fun _ => rfl⟩
  | streamPushWrite q => exact ⟨.streamPushWrite q, fun _ => rfl⟩
  | streamReadAhead q => exact ⟨.streamReadAhead q, fun _ => rfl⟩
  | kilnCommandStart k => exact ⟨.kilnCommandStart k, fun _ => rfl⟩
  | kestSelection => exact ⟨.kestSelection, fun _ => rfl⟩
  | slicePassGrant => exact ⟨.slicePassGrant, fun _ => rfl⟩
  | slicePassComplete => exact ⟨.slicePassComplete, fun _ => rfl⟩
  | kilnCommandComplete k => exact ⟨.kilnCommandComplete k, fun _ => rfl⟩
  | kilnBudgetWindow => exact ⟨.kilnBudgetWindow, fun _ => rfl⟩
  | packetRead q => exact ⟨.packetRead q, fun _ => rfl⟩
  | copyJobStart j => exact ⟨.copyJobStart j, fun _ => rfl⟩
  | copyBurst j => exact ⟨.copyBurst j, fun _ => rfl⟩
  | clipMessage j => exact ⟨.clipMessage j, fun _ => rfl⟩
  | stampWrite j => exact ⟨.stampWrite j, fun _ => rfl⟩
  | linkPacketRead j => exact ⟨.linkPacketRead j, fun _ => rfl⟩
  | sequencerSubmission key tiles => exact ⟨.sequencerSubmission key tiles, fun _ => rfl⟩
  | beatEnd b => exact ⟨.beatEnd b, fun _ => rfl⟩
  | orderMerged b => exact ⟨.orderMerged b [], fun _ => rfl⟩
  | sliceGrant k => exact ⟨.sliceGrant k, fun _ => rfl⟩
  | grantDelivery => exact ⟨.grantDelivery, fun _ => rfl⟩
  | releasePerform key => exact ⟨.releasePerform key, fun _ => rfl⟩
  | sagHoldEnd => exact ⟨.sagHoldEnd, fun _ => rfl⟩
  | controlInterval c t boost dly stag => exact ⟨.controlInterval c t boost dly stag, fun _ => rfl⟩
  | gearLift on => exact ⟨.gearLift on, fun _ => rfl⟩
  | railHandover n => exact ⟨.railHandover n, fun _ => rfl⟩
  | overflowReturn => exact ⟨.overflowReturn, fun _ => rfl⟩
  | taskDispatch => exact ⟨.taskDispatch, fun _ => rfl⟩
  | recordReservation pidx => exact ⟨.recordReservation pidx, fun _ => rfl⟩
  | gangMigration cores dest => exact ⟨.gangMigration cores dest, fun _ => rfl⟩
  | launchComplete => exact ⟨.launchComplete, fun _ => rfl⟩
  | exchangeTransferStart => exact ⟨.exchangeTransferStart false, fun _ => rfl⟩
  | exchangeLanding k => exact ⟨.exchangeLanding k, fun _ => rfl⟩
  | computeBarrierRelease => exact ⟨.computeBarrierRelease, fun _ => rfl⟩
  | exchangeBarrierRelease => exact ⟨.exchangeBarrierRelease [], fun _ => rfl⟩
  | computePhaseStart => exact ⟨.computePhaseStart, fun _ => rfl⟩
  | messageDelivery core data => exact ⟨.messageDelivery core data, fun _ => rfl⟩
  | recordDelivery => exact ⟨.recordDelivery, fun _ => rfl⟩
  | watchdogExpiry => exact ⟨.watchdogExpiry, fun _ => rfl⟩
  | trapEntry => exact ⟨.trapEntry, fun _ => rfl⟩
  | dramRefresh channel layer => exact ⟨.dramRefresh channel layer, fun _ => rfl⟩
  | refreshEnd channel layer => exact ⟨.refreshEnd channel layer, fun _ => rfl⟩
  | waitWake => exact ⟨.waitWake, fun _ => rfl⟩

theorem keeps_runAct {a : Act} {s t : State} (h : runAct a s = .next t) : Keeps s t :=
  have ⟨_, e⟩ := runAct_isEvent a
  keeps_exec ((e s).symm.trans h)

theorem keeps_agentStep {s t : State} (h : agentStep s = .next t) : Keeps s t := by
  unfold agentStep at h
  split at h
  · split at h
    · exact keeps_runAct h
    · exact keeps_coreStep h
  · extract_lets v at h
    have hv : Keeps s v := Keeps.upd (.refl s) rfl
    split at h
    · exact hv.trans (keeps_coreStep h)
    · split at h
      · exact hv.trans (keeps_runAct h)
      · exact hv.trans (keeps_coreStep h)

/-- A step is a boot, the consumer of a PFX, an event of the outside or an agent's step, and each leaves the same core (R98, R404). -/
theorem keeps_step {s t : State} (h : step s = .next t) : Keeps s t := by
  have hagenda : ∀ rest, Keeps s { s with agenda := rest } := fun _ => Keeps.upd (.refl s) rfl
  unfold step oneStep at h
  split at h
  · split at h
    · next image _ _ => exact (hagenda _).trans (keeps_exec (i := .coldBoot image) h)
    · exact (hagenda _).trans (keeps_exec (i := .warmReboot) h)
    · cases h
  split at h
  · exact keeps_fetchAndRun h
  split at h
  · exact (hagenda _).trans (keeps_exec h)
  · exact keeps_agentStep h

end Sys2Proof.Machine
end

section
/-! SUPPORT. A store at its home where no granule is poisoned. -/

namespace Sys2Proof.Machine

/-- With no poisoned granule, a store at its home writes its bytes and changes nothing else (R203, R208). -/
theorem homeStore_unpoisoned {s : State} (hp : s.pkg.poison = []) (pa n x : Nat) :
    s.homeStore pa n x = { s with pkg := { s.pkg with mem := s.pkg.mem.store pa n x } } := if_pos hp

end Sys2Proof.Machine
end

section
/-! SUPPORT. The settled statements of the scope: memories in canonical form, and memory as bytes (R2). -/

open Sys2Proof Sys2Proof.Machine

namespace Sys2Proof.Proofs

/-- Settles O9: the memories are part of what every step keeps. -/
theorem stepKeepsMemories : Obligations.StepKeepsMemories := by
  unfold Obligations.StepKeepsMemories
  exact fun _ _ hwf h => (keeps_step h).wf hwf

/-- Settles O12: where no granule is poisoned the store is one of memory, whose laws give the bytes inside and outside it. -/
theorem storesReadBack : Obligations.StoresReadBack := by
  unfold Obligations.StoresReadBack
  intro s pa n x hwf hp
  rw [homeStore_unpoisoned hp]
  exact ⟨Memory.load_store hwf pa n x, fun a ha => Memory.store_read hwf pa n x a ha, Memory.store_wf hwf⟩

end Sys2Proof.Proofs
end

section
/-! SUPPORT. Events with power, and what a word of global memory reads after a store at its home (R2, R203, R208). -/

open Sys2Proof.Claims

namespace Sys2Proof.Machine

/-- With power an event happens as the change `g` of the state that it is. Where the statement writes the changed state out, `(… :)` lets
the event's own definition say what `g` is. -/
theorem happens_event {i : Instr} {s : State} {g : State → State} (hp : s.pkg.power = true) (he : exec i s = event g s) :
    happens i s (g s) := he.trans (event_powered g hp)

/-- With power an event happens as the state that its change makes of this one. -/
theorem happens_of_eq {i : Instr} {s t : State} {g : State → State} (hp : s.pkg.power = true) (he : exec i s = event g s)
    (ht : g s = t) : happens i s t := ht ▸ happens_event hp he

/-- A store at a home leaves the rank of the package. -/
@[simp] theorem homeStore_rank (pa n x : Nat) (s : State) : (s.homeStore pa n x).pkg.rank = s.pkg.rank := by
  unfold State.homeStore
  split
  · rfl
  · extract_lets whole lost mem pkg t
    split <;> rfl

/-- A store at a home leaves the context's saggar entry where it is. -/
@[simp] theorem homeStore_saggar (pa n x : Nat) (s : State) : (s.homeStore pa n x).saggar = s.saggar := by
  unfold State.saggar
  rw [homeStore_rank, (homeStore_leaves pa n x s).2.1]

/-- A word stored in a memory in canonical form reads back (R2). -/
theorem Memory.word_store {m : Memory} (hm : m.wf = true) (a : Nat) (v : Word) : (m.store a 8 v.toNat).word a = v := by
  unfold Memory.word
  rw [Memory.load_store hm, Nat.mod_eq_of_lt (by omega)]
  exact BitVec.ofNat_toNat ..

/-- A word stored at its home reads back where no granule is left poisoned (R203, R208). -/
theorem homeStore_word {s : State} {pa : Nat} {v : Word} (hm : s.pkg.mem.wf = true)
    (hp : (s.homeStore pa 8 v.toNat).pkg.poison = []) : (s.homeStore pa 8 v.toNat).pkg.mem.word pa = v := by
  rw [homeStore_mem hp, Memory.word_store hm]

end Sys2Proof.Machine
end

section
/-! SUPPORT. Accesses at stations and homes: when they return, and what the events of other agents do where their conditions hold
(R14, R81, R204, R229, R235, R238). -/

namespace Sys2Proof.Machine

/-- A station that has used no entry keeps those it has. -/
@[simp] theorem State.keep_nil (s : State) : s.keep [] = s := rfl

/-- The act in its place takes its next event, unless its home is not ready (R14). -/
theorem outsideNth_of_getElem? {s : State} {k : Nat} {a : OtherAct} (h : s.outside[k]? = some a) :
    s.outsideNth k = if s.actHeld a then s
      else { s with outside := match actRest a with | some b => s.outside.set k b | none => s.outside.eraseIdx k }.otherAct a := by
  unfold State.outsideNth
  split
  · next hn => exact nomatch hn.symm.trans h
  · next b hb => cases hb.symm.trans h; rfl

/-- A performed access returns: its data arrive, or trap 0x11 is taken once the context runs and its wait has completed (R81, R375). -/
theorem returnNth_of_performed {s : State} {k : Nat} {a : GAccess} (h : s.core.gq[k]? = some a) (hp : a.performed = true)
    (hr : a.returns = true) (hb : a.bad = true → s.core.run = .running ∧ s.waitServed = false) :
    s.returnNth k = let t : State := { s with core := { s.core with gq := s.core.gq.eraseIdx k } }
      if a.bad then t.enterTrap 0x11 a.va t.ctx.pc else t.arrive a := by
  have ready : s.returnable k = true := by
    simp only [State.returnable, h, hp, hr, Bool.true_and, Bool.or_eq_true, Bool.not_eq_true', Bool.and_eq_true, beq_iff_eq]
    cases hbad : a.bad
    · exact .inl rfl
    · exact .inr (hb hbad)
  unfold State.returnNth
  simp only [h, ready, Bool.not_true, Bool.false_eq_true, if_false]

/-- An atomic of another agent that reaches a ready home, aligned and on a page that takes it. -/
theorem otherAtomic_of_fits {s : State} {x : AtomForm} {fmt : BitVec 5} {n pa : Nat} (hw : atomicWidth fmt = some n)
    (hh : s.atHome pa = true) (hf : atomFits x.op fmt = true) (ha : pa % n = 0) (b d : Word) :
    s.otherAtomic x fmt pa b d = let t := (s.waitRefresh [pa]).place x.cluster x.hint pa
      if t.poisoned pa n then t.uncorrectable pa else (t.atomicAt x.op fmt x.rm pa b d).1.restartQueues := by
  simp [State.otherAtomic, hw, hh, hf, ha]

section
variable {s : State} {pa : Nat} (ht : tierOf pa = .slice) (hh : s.atHome pa = true)
include ht hh

/-- Another rank arrives at an aligned block of a ready slice. -/
theorem otherArrives_of_atHome (ha : pa % 64 = 0) (c : Nat) (rank : BitVec 16) (v : Word) :
    s.otherArrives c pa rank v = if s.redaBad pa rank.toNat then s.uncorrectable pa else (s.redaAt c pa rank.toNat v).1 := by
  simp [State.otherArrives, ht, hh, ha]

/-- A TAKE of another core at an aligned word of a ready slice. -/
theorem otherTakes_of_atHome (ha : pa % 8 = 0) (c : Nat) (keep : Bool) (core : Nat) :
    s.otherTakes c pa keep core = if s.poisoned pa 8 then s.uncorrectable pa
      else match s.takeAt c pa keep (some core) with | .value t _ => t | .queued t => t | .overflow => s := by
  unfold State.otherTakes
  exact if_neg (by simp [ht, hh, ha])

/-- A PUT of another core at an aligned, sound word of a ready slice. -/
theorem otherPuts_of_atHome (ha : pa % 8 = 0) (hp : s.poisoned pa 8 = false) (c : Nat) (v : Word) :
    s.otherPuts c pa v = (s.putAt c pa v).1 := by
  simp [State.otherPuts, ht, hh, ha, hp]

end

end Sys2Proof.Machine
end

section
/-! SUPPORT. Full/empty words: what a PUT leaves, and a TAKE after it (R235, R236). -/

namespace Sys2Proof.Machine

theorem mem_insertNat (x : Nat) (l : List Nat) : x ∈ insertNat x l := by
  induction l with
  | nil => exact List.mem_singleton_self x
  | cons y ys ih =>
    unfold insertNat
    split
    · exact List.mem_cons_self
    · split
      · next h => exact h ▸ List.mem_cons_self
      · exact List.mem_cons_of_mem y ih

/-- The full/empty bit of a word reads as it was last set. -/
@[simp] theorem full_setFull (pa : Nat) (b : Bool) (s : State) : (s.setFull pa b).full pa = b := by
  cases b with
  | true => simp [State.full]
  | false => simp [State.full, mem_insertNat]

/-- A line that goes home changes only where lines are and what the predictors count (R233, R234). -/
theorem sendHome_leaves (c line : Nat) (s : State) :
    (s.sendHome c line).pkg.mem = s.pkg.mem ∧ (s.sendHome c line).pkg.empty = s.pkg.empty ∧
      (s.sendHome c line).pkg.poison = s.pkg.poison ∧ (s.sendHome c line).pkg.deferred = s.pkg.deferred := by
  unfold State.sendHome State.lineReturn
  split <;> exact ⟨rfl, rfl, rfl, rfl⟩

/-- A line that goes home leaves every full/empty bit. -/
@[simp] theorem full_sendHome (c line pa : Nat) (s : State) : (s.sendHome c line).full pa = s.full pa := by
  unfold State.full
  rw [(sendHome_leaves c line s).2.1]

/-- A PUT serves nothing where no request waits for the word (R235). -/
theorem servePut_of_none_deferred {s : State} {pa : Nat} (hd : ∀ d ∈ s.pkg.deferred, d.pa ≠ pa) (v : Word) (k : Nat) (b : Bool) :
    s.servePut pa v k b = (s, b) := by
  have none_waits : s.pkg.deferred.find? (·.pa == pa) = none := by simpa [List.find?_eq_none] using hd
  cases k with
  | zero => rfl
  | succ k => simp [State.servePut, none_waits]

/-- A PUT of a word that is sound and awaited by none fills it, and answers whether it was full (R235). -/
theorem putAt_of_none_deferred {s : State} {pa : Nat} (hp : s.pkg.poison = []) (hd : ∀ d ∈ s.pkg.deferred, d.pa ≠ pa)
    (c : Nat) (v : Word) :
    s.putAt c pa v = (((s.sendHome c (pa / 64 * 64)).homeStore pa 8 v.toNat).setFull pa true, bit01 (s.full pa)) := by
  obtain ⟨-, -, hpoison, hdeferred⟩ := sendHome_leaves c (pa / 64 * 64) s
  unfold State.putAt
  rw [homeStore_unpoisoned (hpoison.trans hp)]
  dsimp only
  rw [servePut_of_none_deferred (by simpa [hdeferred] using hd)]
  simp [bit01]

/-- A TAKE of a full word has its value, and leaves it empty unless it keeps it (R235, R236). -/
theorem takeAt_of_full {s : State} {pa : Nat} (hf : s.full pa = true) (c : Nat) (keep : Bool) (who : Option Nat) :
    ∃ r, s.takeAt c pa keep who = .value r (s.pkg.mem.word pa) ∧ r.full pa = keep := by
  have value : s.takeAt c pa keep who = .value
      (if keep then s.sendHome c (pa / 64 * 64) else (s.sendHome c (pa / 64 * 64)).setFull pa false) (s.pkg.mem.word pa) := by
    unfold State.takeAt
    simp [hf, (sendHome_leaves c (pa / 64 * 64) s).1]
  refine ⟨_, value, ?_⟩
  cases keep with
  | true => simpa using hf
  | false => simp

end Sys2Proof.Machine
end

section
/-! SUPPORT. The settled statement of stations and homes. -/

open Sys2Proof Sys2Proof.Machine Sys2Proof.Claims

namespace Sys2Proof.Proofs

/-- What a PUT leaves of a sound word that no request awaits, and what a TAKE of it then meets. -/
theorem put_then_take (s : State) (c pa : Nat) (v : Word) (hm : s.pkg.mem.wf = true) (hp : s.pkg.poison = [])
    (hd : ∀ d ∈ s.pkg.deferred, d.pa ≠ pa) :
    let t := (s.putAt c pa v).1
    (s.putAt c pa v).2 = bit01 (s.full pa) ∧ t.full pa = true ∧ t.pkg.mem.word pa = v ∧
      (∀ c' keep who, ∃ r, t.takeAt c' pa keep who = .value r v ∧ r.full pa = keep) := by
  obtain ⟨hmem, -, hpoison, -⟩ := sendHome_leaves c (pa / 64 * 64) s
  rw [putAt_of_none_deferred hp hd]
  intro t
  have full : t.full pa = true := full_setFull ..
  have word : t.pkg.mem.word pa = v := by
    show ((s.sendHome c (pa / 64 * 64)).homeStore pa 8 v.toNat).pkg.mem.word pa = v
    rw [homeStore_unpoisoned (hpoison.trans hp)]
    exact Memory.word_store (hmem ▸ hm) pa v
  exact ⟨rfl, full, word, fun c' keep who => word ▸ takeAt_of_full full c' keep who⟩

/-- The station of another agent's translation keeps the entries that it used, and after a fault none: that of an accepted access (R81),
and that of a walk, which is one of a read (R358, R361). -/
theorem happens_keep {i : Instr} {s : State} {who : Requester} {k : AccKind} {va : Word} (hp : s.pkg.power = true)
    (he : exec i s = execStationAccept who k va s) : ∃ ks, happens i s (s.keep ks) := by
  cases h : s.translateAs false who k va with
  | ok x => exact ⟨x.2, happens_of_eq hp he (by simp only [h])⟩
  | error t => exact ⟨[], happens_of_eq hp he (by simp only [h, State.keep_nil])⟩

/-- Settles O55: each event is the change that its rule gives, under the conditions under which it changes anything; a PUT is a
store that fills its word. -/
theorem homeEvents : Obligations.HomeEvents := by
  unfold Obligations.HomeEvents
  refine ⟨fun s hp => ⟨fun who k va => happens_keep hp rfl, fun who va => happens_keep (k := .read) hp rfl,
    fun k => ?perform, fun k a => outsideNth_of_getElem?, fun k a h hperf hret hbad => ?returns,
    fun x fmt n pa b d hw hh hf ha => ?atomic, fun line cluster => happens_event hp rfl,
    fun line => ⟨happens_event hp rfl, fun c => happens_event hp rfl⟩,
    fun x ht hh => ⟨fun rank v ha => ?reda, fun keep core ha => ?take, fun v ha hpoison => ?put⟩,
    happens_event hp rfl, fun fn addr n => happens_event hp rfl, fun fn addr n v => happens_event hp rfl,
    fun pkg pa n w => happens_event hp rfl⟩, put_then_take⟩
  case perform => exact (happens_event hp (exec_globalAccessPerform k s) :)
  case returns => exact happens_of_eq hp rfl (returnNth_of_performed h hperf hret hbad)
  case atomic => exact happens_of_eq hp rfl (otherAtomic_of_fits hw hh hf ha b d)
  case reda => exact happens_of_eq hp rfl (otherArrives_of_atHome ht hh ha x.cluster rank v)
  case take => exact happens_of_eq hp rfl (otherTakes_of_atHome ht hh ha x.cluster keep core)
  case put => exact happens_of_eq hp rfl (otherPuts_of_atHome ht hh ha hpoison x.cluster v)

end Sys2Proof.Proofs
end

section
/-! SUPPORT. Requests, halts and waits: what a request leaves pending, what the halt tree leaves of a core, and when nothing changes
(R247, R372 to R374, R387, R397). -/

namespace Sys2Proof.Machine

/-- With no save due and no request that may be taken here, none is taken (R374). -/
theorem takeRequest_of_none {s : State} (hs : s.saveDue = false) (ha : s.async.isNone = true) : s.takeRequest = s := by
  unfold State.takeRequest
  rw [hs, Option.isNone_iff_eq_none.1 ha]
  rfl

/-- A core whose wait has not ended goes on waiting (R247). -/
theorem wake_of_not_wakeable {s : State} (h : s.wakeable = false) : s.wake = s := by
  simp [State.wake, h]

/-- A request reaches the core that runs (R373). -/
theorem requestRunning_eq (g : Requests → Requests) (s : State) :
    s.requestRunning g = if s.core.run = .running then s.request g else s := by
  simp [State.requestRunning]

/-- A watchdog that is not due does not expire (R397). -/
theorem expire_of_not_due {s : State} (h : s.watchdogDue = false) : s.expire = s := by
  simp [State.expire, h]

/-- The watchdog of a compute core requests trap 0x10, and counts no more (R397). -/
theorem expire_requests {s : State} (hd : s.watchdogDue = true) (hc : s.core.control = false) :
    s.expire.core.reqs.wdog = true ∧ s.expire.ctx.sys.wdog.en = false := by
  have expired : s.expire = (s.setSys fun y => { y with wdog := { y.wdog with en := false } }).request
      fun r => { r with wdog := true } := by
    simp [State.expire, hd, State.setSys, hc]
  rw [expired]
  exact ⟨rfl, rfl⟩

/-- The halt tree's STOP is pending at a compute core that runs (R387). -/
theorem haltStop_requests {s : State} (hr : s.core.run = .running) (hc : s.core.control = false) :
    s.haltStop.core.reqs.stop = some 1 := by
  have stopped : s.haltStop = (s.setPart { s.cl.part with reached := s.cl.part.reached + 1 }).request
      fun r => { r with stop := some 1 } := by
    simp [State.haltStop, hr, hc]
  rw [stopped]
  rfl

/-- FREEZE at a compute core that runs: in a state `w` in which it is frozen a word with FRZ, bit 61, is stored in its saggar entry
(R387). -/
theorem haltFreeze_marks {s : State} (hr : s.core.run = .running) (hc : s.core.control = false) :
    ∃ (w : State) (frz : Word), w.core.run = .frozen ∧ (s.memoriesWf = true → w.memoriesWf = true) ∧ frz.getLsbD 61 = true ∧
      s.haltFreeze = w.homeStore w.saggar 8 frz.toNat := by
  have settled : Keeps s s.landAll.landLoads.flushStreams.leaveChain.freeze :=
    keeps_freeze (keeps_leaveChain (keeps_flushStreams (keeps_landLoads (keeps_landAll (.refl s)))))
  have frozen : s.landAll.landLoads.flushStreams.leaveChain.freeze.core.run = .frozen := rfl
  unfold State.haltFreeze
  rw [if_pos (by simp [hr, hc])]
  generalize s.landAll.landLoads.flushStreams.leaveChain.freeze = v at settled frozen
  extract_lets _ _ _ w entry
  have kept : Keeps s w := Keeps.upd settled rfl
  exact ⟨w, _, frozen, kept.wf, by simp, rfl⟩

/-- A compute core that runs is frozen, and its saggar entry has FRZ where no granule is left poisoned (R387, R208). -/
theorem freezeAll_freezes {s : State} (hr : s.core.run = .running) (hc : s.core.control = false) :
    s.freezeAll.core.run = .frozen ∧ (s.memoriesWf = true → s.freezeAll.pkg.poison = [] →
      (s.freezeAll.pkg.mem.word s.freezeAll.saggar).getLsbD 61 = true) := by
  obtain ⟨w, frz, hrun, hwf, hfrz, hmarks⟩ := haltFreeze_marks hr hc
  have core : s.freezeAll.core = s.haltFreeze.core := rfl
  have poison : s.freezeAll.pkg.poison = s.haltFreeze.pkg.poison := rfl
  have word : s.freezeAll.pkg.mem.word s.freezeAll.saggar = s.haltFreeze.pkg.mem.word s.haltFreeze.saggar := rfl
  rw [core, poison, word, hmarks]
  refine ⟨?_, fun hm hp => ?_⟩
  · rw [(homeStore_leaves ..).1, hrun]
  · rw [homeStore_saggar, homeStore_word (memoriesWf_iff.1 (hwf hm)).1 hp, hfrz]

end Sys2Proof.Machine
end

section
/-! SUPPORT. Readiness, the domain and boots: a function keeps the bit it has (R407), what a domain's formation sets (R201), and what
a boot leaves (R200, R401, R408). -/

namespace Sys2Proof.Machine

/-- A function that has been declared failed passes no self-test (R407). -/
theorem pass_of_failed {s : State} {o i : Nat} (h : s.readyBit (o + 0x800) i = true) : s.pass o i = s := by
  simp [State.pass, h]

/-- A function that has passed its self-test is not declared failed (R407). -/
theorem fail_of_ready {s : State} {o i : Nat} (h : s.readyBit o i = true) : s.fail o i = s := by
  simp [State.fail, h]

/-- A domain is formed with the rank and the size given where these are legal, or not at all (R201). -/
theorem form_cases (rank n : Nat) (tables : List (Nat × ExportWindow)) (s : State) :
    s.form rank n tables = s ∨
      ((s.form rank n tables).pkg.rank = rank ∧ (s.form rank n tables).pkg.domain = n ∧ rank < n ∧ n ≤ 8) := by
  unfold State.form
  split
  · exact .inl rfl
  · next h =>
    simp only [Bool.or_eq_true, decide_eq_true_eq, not_or, Nat.not_lt, Nat.not_le] at h
    obtain ⟨⟨⟨-, hn⟩, hr⟩, -⟩ := h
    exact .inr ⟨rfl, rfl, hr, hn⟩

/-- The start of a control core leaves the package, and what kind of core this is (R401). -/
theorem startControl_leaves (m : Memory) (s : State) :
    (s.startControl m).pkg = s.pkg ∧ (s.startControl m).core.control = s.core.control := by
  unfold State.startControl
  split
  · exact ⟨rfl, rfl⟩
  · next h => exact ⟨rfl, by simpa using h⟩

/-- A cold boot restores power, knows no function's readiness, and keeps of global memory what lies outside the slices (R408, R200). -/
theorem coldBoot_leaves (image : List Host.Cell) (s : State) :
    (s.coldBoot image).pkg.power = true ∧ (s.coldBoot image).pkg.ready = [] ∧ (s.coldBoot image).core.control = s.core.control ∧
      (s.coldBoot image).pkg.mem = s.pkg.mem.filter fun c => tierOf c.1 != .slice := by
  unfold State.coldBoot
  extract_lets flash keep _ _ _ _ t
  obtain ⟨hpkg, hcontrol⟩ := startControl_leaves flash t
  split
  · rw [hpkg, hcontrol]
    exact ⟨rfl, rfl, rfl, rfl⟩
  · exact ⟨rfl, rfl, rfl, rfl⟩

/-- The bytes of global memory after a cold boot are those before it outside the slices (R200). -/
theorem mem_coldBoot {image : List Host.Cell} {s : State} {c : Host.Cell} :
    c ∈ (s.coldBoot image).pkg.mem ↔ c ∈ s.pkg.mem ∧ tierOf c.1 ≠ .slice := by
  obtain ⟨-, -, -, hmem⟩ := coldBoot_leaves image s
  rw [hmem, List.mem_filter, bne_iff_ne]

/-- A warm reboot leaves power, as the cold boot does that it makes of a bad image (R401). -/
theorem warmReboot_power (s : State) : s.warmReboot.pkg.power = true := by
  unfold State.warmReboot
  extract_lets
  split
  · exact (coldBoot_leaves ..).1
  · rfl

end Sys2Proof.Machine
end

section
/-! SUPPORT. The settled statement of the events of the system. -/

open Sys2Proof Sys2Proof.Machine Sys2Proof.Claims

namespace Sys2Proof.Proofs

/-- A crash for a reason of R400. -/
theorem happens_kernelCrash {s : State} (hp : s.pkg.power = true) (n : Nat) :
    happens (.kernelCrash n) s (if 1 ≤ n ∧ n ≤ 4 then s.crash n else s) :=
  happens_of_eq hp rfl (by simp only [Bool.and_eq_true, decide_eq_true_eq])

/-- Settles O60: each event is the change that its rule gives, and none where its condition does not hold; FRZ is the word that FREEZE
stores, and a cold boot's memory is a filter of the one before. -/
theorem systemEvents : Obligations.SystemEvents := by
  unfold Obligations.SystemEvents
  refine ⟨fun s hp => ⟨happens_event hp rfl, rfl, (happens_event hp (exec_dbgctlStep s) :),
    fun on => (happens_event hp (exec_dbgctlQuiesce on s) :), happens_of_eq hp rfl (requestRunning_eq _ s),
    happens_event hp rfl, takeRequest_of_none, happens_event hp rfl, wake_of_not_wakeable,
    happens_event hp rfl, expire_of_not_due, expire_requests, happens_event hp rfl, haltStop_requests,
    happens_event hp rfl, rfl, freezeAll_freezes, happens_kernelCrash hp,
    fun o i => ⟨happens_event hp rfl, happens_event hp rfl, pass_of_failed, fail_of_ready⟩, fun l => happens_event hp rfl,
    fun p i w => (happens_event hp (exec_exportWindowNarrow p i w s) :),
    fun rank n tables => ⟨happens_event hp rfl, form_cases rank n tables s⟩⟩,
    fun s => ⟨rfl, warmReboot_power s, fun image => ?coldBoot⟩⟩
  case coldBoot =>
    obtain ⟨hpower, hready, hcontrol, -⟩ := coldBoot_leaves image s
    exact ⟨rfl, hpower, hready, hcontrol, fun c hc => (mem_coldBoot.1 hc).2, fun c hc ht => mem_coldBoot.2 ⟨hc, ht⟩⟩

end Sys2Proof.Proofs
end

section
/-! SUPPORT. The encoding in both directions: operand fields, the fields of a word, PFX words, and the opcode table (R15, R24, R30, R35). -/

namespace Sys2Proof

/-! ### Fields of a word -/

/-- A bit stands for the field of one bit at its place. -/
theorem ofBool_getLsbD {n : Nat} (x : BitVec n) (i : Nat) : BitVec.ofBool (x.getLsbD i) = x.extractLsb' i 1 := by
  ext j hj
  obtain rfl : j = 0 := by omega
  simp

/-- An operand field is its kind and its value (R24). -/
theorem kind_append_value (x : BitVec 24) : x.extractLsb' 22 2 ++ x.extractLsb' 0 22 = x :=
  (BitVec.extractLsb'_append_extractLsb'_eq_extractLsb' (start₁ := 0) (len₁ := 22) rfl).trans BitVec.extractLsb'_eq_self

/-- A register field whose other bits are clear is its number (R25). -/
theorem zeroExtend_number {x : BitVec 24} (hk : (x.extractLsb' 22 2).toNat = 0) (hz : x.extractLsb' 7 15 = 0) :
    (x.extractLsb' 0 7).zeroExtend 24 = x := by
  have hz' := congrArg BitVec.toNat hz
  apply BitVec.eq_of_toNat_eq
  simp only [BitVec.extractLsb'_toNat, Nat.shiftRight_eq_div_pow, BitVec.toNat_setWidth, BitVec.ofNat_eq_ofNat,
    BitVec.toNat_ofNat] at hk hz' ⊢
  omega

/-- No bit of an operand field is dropped (R24, R25). -/
theorem encodeOperand_decodeOperand (x : BitVec 24) : encodeOperand (decodeOperand x) = x := by
  have hx := kind_append_value x
  unfold decodeOperand
  split
  case h_1 hk =>
    split
    · next hz => exact zeroExtend_number hk (eq_of_beq hz)
    · rfl
  case h_2 hk => rwa [show x.extractLsb' 22 2 = 1#2 from BitVec.eq_of_toNat_eq hk] at hx
  case h_3 hk => rwa [show x.extractLsb' 22 2 = 2#2 from BitVec.eq_of_toNat_eq hk] at hx
  case h_4 h0 h1 h2 =>
    split
    · next hz =>
      have hk : (x.extractLsb' 22 2).toNat = 3 := by
        have hlt := (x.extractLsb' 22 2).isLt
        simp only [imp_false] at h0 h1 h2
        omega
      rwa [show x.extractLsb' 22 2 = 3#2 from BitVec.eq_of_toNat_eq hk, eq_of_beq hz] at hx
    · rfl

/-- A register's field: kind 00, clear bits, and its number (R24, R25). -/
theorem encodeOperand_reg (n : BitVec 7) : encodeOperand (.reg n) = 0#17 ++ n := by
  apply BitVec.eq_of_toNat_eq
  rw [encodeOperand, BitVec.toNat_append, BitVec.toNat_setWidth, Nat.mod_eq_of_lt (by omega)]
  simp

/-- An operand that no rule refuses is read back from its field (R24). -/
theorem decodeOperand_encodeOperand {o : Operand} (h : ∀ x, o ≠ .raw x) : decodeOperand (encodeOperand o) = o := by
  cases o with
  | reg n =>
    have hk : (0#17 ++ n).extractLsb' 22 2 = 0#2 := BitVec.extractLsb'_append_eq_of_le (by decide)
    have hz : (0#17 ++ n).extractLsb' 7 15 = 0#15 := BitVec.extractLsb'_append_eq_of_le (by decide)
    have hv : (0#17 ++ n).extractLsb' 0 7 = n := BitVec.extractLsb'_append_eq_right
    rw [encodeOperand_reg]
    simp only [decodeOperand, hk, hz, hv]
    rfl
  | imm v =>
    simp only [decodeOperand, encodeOperand, BitVec.extractLsb'_append_eq_left, BitVec.extractLsb'_append_eq_right]
    rfl
  | loc a =>
    simp only [decodeOperand, encodeOperand, BitVec.extractLsb'_append_eq_left, BitVec.extractLsb'_append_eq_right]
    rfl
  | lit => decide
  | raw x => exact absurd rfl (h x)

/-- No bit of a word is dropped by its opcode and its fields (Table 2-1). -/
theorem encodeFields_decodeFields (w : IWord) : encodeFields (w.extractLsb' 86 10) (decodeFields w) = w := by
  simp only [encodeFields, decodeFields, encodeOperand_decodeOperand, ofBool_getLsbD,
    BitVec.extractLsb'_append_extractLsb'_eq_extractLsb']
  exact BitVec.extractLsb'_eq_self

/-- The opcode is read back from a word (Table 2-1). -/
theorem opcode_encodeFields (op : BitVec 10) (f : Fields) : (encodeFields op f).extractLsb' 86 10 = op := by
  simp (disch := decide) only [encodeFields, BitVec.extractLsb'_append_eq_of_le, Nat.reduceSub, BitVec.extractLsb'_eq_self]

/-- Fields whose operands are read back are read back from the word (Table 2-1). -/
theorem decodeFields_encodeFields (op : BitVec 10) {f : Fields} (hd : ∀ x, f.opD ≠ .raw x) (ha : ∀ x, f.opA ≠ .raw x)
    (hb : ∀ x, f.opB ≠ .raw x) : decodeFields (encodeFields op f) = f := by
  simp (disch := decide) only [decodeFields, encodeFields, BitVec.extractLsb'_append_eq_of_add_le,
    BitVec.extractLsb'_append_eq_of_le, BitVec.getLsbD_append, BitVec.getLsbD_ofBool, BitVec.extractLsb'_eq_self, Nat.reduceSub,
    Nat.reduceLT, decide_true, Bool.true_and, ↓reduceIte, decodeOperand_encodeOperand hd, decodeOperand_encodeOperand ha,
    decodeOperand_encodeOperand hb]

/-- No bit of a PFX word is dropped (Table 2-6). -/
theorem encodePfx_decodePfx {w : IWord} (h : w.extractLsb' 86 10 = 0x300#10) : encodePfx (decodePfx w) = w := by
  simp only [encodePfx, decodePfx, ← h, ofBool_getLsbD, BitVec.extractLsb'_append_extractLsb'_eq_extractLsb']
  exact BitVec.extractLsb'_eq_self

/-- The opcode of a PFX word (Table 2-6). -/
theorem opcode_encodePfx (p : Pfx) : (encodePfx p).extractLsb' 86 10 = 0x300#10 := by
  simp (disch := decide) only [encodePfx, BitVec.extractLsb'_append_eq_of_le, Nat.reduceSub, BitVec.extractLsb'_eq_self]

/-- The fields of a PFX are read back from its word (Table 2-6). -/
theorem decodePfx_encodePfx (p : Pfx) : decodePfx (encodePfx p) = p := by
  simp (disch := decide) only [decodePfx, encodePfx, BitVec.extractLsb'_append_eq_of_add_le, BitVec.extractLsb'_append_eq_of_le,
    BitVec.getLsbD_append, BitVec.getLsbD_ofBool, BitVec.extractLsb'_eq_self, Nat.reduceSub, Nat.reduceLT, decide_true,
    Bool.true_and, ↓reduceIte]

/-! ### What the static checks say of the fields -/

/-- A well-formed instruction passes the static checks of its fields. -/
theorem fieldsOk_of_wf {i : Instr} {f : Fields} (hf : i.fields = some f) (hw : i.wf = true) : i.fieldsOk f = true := by
  cases i with
  | mts =>
    cases hf
    simp only [Instr.wf, Bool.and_eq_true] at hw
    exact hw.1.1.1
  | mtsRetired | mtsCycle | sensinjWrite =>
    cases hf
    simp only [Instr.wf, Bool.and_eq_true] at hw
    exact hw.1
  | _ =>
    cases hf
    all_goals exact hw

/-- An operand that its field permits has no forbidden bits (R25). -/
theorem ne_raw_of_permits {k : OpSpec} {o : Operand} (h : k.permits o = true) (x : BitVec 24) : o ≠ .raw x := by
  rintro rfl
  cases h

/-- Fields that pass the static checks: the selector is one of the row's, and every operand is permitted (R22, R24). -/
theorem fieldsOk_permits {i : Instr} {f : Fields} (h : i.fieldsOk f = true) :
    i.spec.sels.getLsbD f.sel.toNat = true ∧ i.spec.d.permits f.opD = true ∧ i.spec.a.permits f.opA = true ∧
      i.spec.b.permits f.opB = true := by
  simp only [Instr.fieldsOk, Bool.and_eq_true] at h
  obtain ⟨⟨⟨⟨⟨⟨-, hsel⟩, hd⟩, ha⟩, hb⟩, -⟩, -⟩ := h
  exact ⟨hsel, hd, ha, hb⟩

/-! ### The opcode table -/

/-! A row's mask of selectors that permits one of them, or one parity (R22). -/

theorem sel_eq_zero {n : BitVec 2} (h : (0x1#4).getLsbD n.toNat = true) : n = 0 := by decide +revert
theorem sel_eq_one {n : BitVec 2} (h : (0x2#4).getLsbD n.toNat = true) : n = 1 := by decide +revert
theorem sel_eq_two {n : BitVec 2} (h : (0x4#4).getLsbD n.toNat = true) : n = 2 := by decide +revert
theorem sel_even {n : BitVec 2} (h : (0x5#4).getLsbD n.toNat = true) : n = 0 ∨ n = 2 := by decide +revert
theorem sel_odd {n : BitVec 2} (h : (0xa#4).getLsbD n.toNat = true) : n = 1 ∨ n = 3 := by decide +revert

/-- Each row of opcode 0x331 carries the fields (R106, R409, R410). -/
theorem mtsForm_row (f : Fields) : (mtsForm f).fields = some f ∧ (mtsForm f).spec.op.toNat = 0x331 := by
  unfold mtsForm
  split <;> exact ⟨rfl, rfl⟩

theorem mtsForm_retired {f : Fields} (h : sysNumber f = 2) : mtsForm f = .mtsRetired f := by rw [mtsForm, h]; rfl
theorem mtsForm_cycle {f : Fields} (h : sysNumber f = 1) : mtsForm f = .mtsCycle f := by rw [mtsForm, h]; rfl
theorem mtsForm_sensinj {f : Fields} (h : sysNumber f = 0x10C) : mtsForm f = .sensinjWrite f := by rw [mtsForm, h]; rfl

/-- A register without a row of its own is MTS's. -/
theorem mtsForm_mts {f : Fields} (h₁ : sysNumber f ≠ 1) (h₂ : sysNumber f ≠ 2) (h₃ : sysNumber f ≠ 0x10C) : mtsForm f = .mts f := by
  unfold mtsForm
  split
  · contradiction
  · contradiction
  · contradiction
  · rfl

/-- The row of opcode 0x331 that a well-formed instruction has is the one that its register names (R106, R409, R410). -/
theorem mtsForm_of_wf {i : Instr} {f : Fields} (hi : i ∈ [Instr.mts f, .mtsRetired f, .mtsCycle f, .sensinjWrite f])
    (hw : i.wf = true) : mtsForm f = i := by
  simp only [List.mem_cons, List.not_mem_nil, or_false] at hi
  obtain rfl | rfl | rfl | rfl := hi <;>
    simp only [Instr.wf, Bool.and_eq_true, bne_iff_ne, beq_iff_eq] at hw
  · exact mtsForm_mts hw.1.1.2 hw.1.2 hw.2
  · exact mtsForm_retired hw.2
  · exact mtsForm_cycle hw.2
  · exact mtsForm_sensinj hw.2

set_option maxRecDepth 2000 in
/-- What an opcode names carries the fields, and its row has that opcode (Table 2-8): a split along the table, whose rows of
several forms are split by selector or register. The split nests once for each row, which takes a deeper recursion. -/
theorem instrOf_row (op : Nat) (f : Fields) : ∀ i ∈ instrOf op f, i.fields = some f ∧ i.spec.op.toNat = op := by
  unfold instrOf
  split
  all_goals rintro i ⟨⟩
  any_goals exact ⟨rfl, rfl⟩
  any_goals exact mtsForm_row f
  all_goals split
  all_goals exact ⟨rfl, rfl⟩

/-- A well-formed instruction is what its row's opcode names: where a row has several forms, the selector or the register of
the fields tells them apart (Table 2-8). -/
theorem instrOf_of_wf {i : Instr} {f : Fields} (hf : i.fields = some f) (hw : i.wf = true) :
    instrOf i.spec.op.toNat f = some i := by
  have hsel := (fieldsOk_permits (fieldsOk_of_wf hf hw)).1
  obtain ⟨sense, pred, stall, y, b, t, rsv, sel, opD, opA, opB⟩ := f
  cases i with
  | vcbdLt | sstat | kmovR | kstat | knorm | kseed | mbxr | tdeclR | tend | tstat | take | evsig | bar | slave | xwait
  | mrecv | gearF | ctxsv | ctxld | stinvVa =>
    cases hf
    obtain rfl := sel_eq_zero hsel
    dsimp only [Instr.spec, BitVec.reduceToNat]
    rfl
  | sstatDrain | kmovW | kstatJ | knormRel | kseedTc | mbxrT | tdeclW | tendG | tstatW | takeK | evsigR | barG | slaveL
  | xwaitE | mrecvT | gearN | ctxsvCl | ctxldCl | stinvPid =>
    cases hf
    obtain rfl := sel_eq_one hsel
    dsimp only [Instr.spec, BitVec.reduceToNat]
    rfl
  | vcbd | kmovRz | kstatJc | tdeclClr | stinvAll =>
    cases hf
    obtain rfl := sel_eq_two hsel
    dsimp only [Instr.spec, BitVec.reduceToNat]
    rfl
  | tsub =>
    cases hf
    obtain rfl | rfl := sel_even hsel <;> rfl
  | tsubD =>
    cases hf
    obtain rfl | rfl := sel_odd hsel <;> rfl
  | mts | mtsRetired | mtsCycle | sensinjWrite =>
    cases hf
    exact congrArg some (mtsForm_of_wf (by simp) hw)
  | _ =>
    cases hf
    all_goals dsimp only [Instr.spec, BitVec.reduceToNat]
    all_goals rfl

/-! ### Words -/

/-- A word with the opcode of PFX is the PFX of its fields (R30). -/
theorem decodeWord_pfx {w : IWord} (h : w.extractLsb' 86 10 = 0x300#10) : decodeWord w = .ok (.pfx (decodePfx w)) := by
  simp [decodeWord, h]

/-- A word whose opcode names an instruction is that instruction (R35): PFX's opcode names none. -/
theorem decodeWord_instrOf {w : IWord} {i : Instr} (h : instrOf (w.extractLsb' 86 10).toNat (decodeFields w) = some i) :
    decodeWord w = .ok i := by
  have hop : w.extractLsb' 86 10 ≠ 0x300#10 := by
    intro e
    rw [e] at h
    exact nomatch h
  unfold decodeWord
  rw [if_neg (by simpa using hop), h]

/-- What a word decodes to is the PFX of its fields, or what its opcode names (R35). -/
theorem decodeWord_cases {w : IWord} {i : Instr} (h : decodeWord w = .ok i) :
    (w.extractLsb' 86 10 = 0x300#10 ∧ i = .pfx (decodePfx w)) ∨
      instrOf (w.extractLsb' 86 10).toNat (decodeFields w) = some i := by
  simp only [decodeWord] at h
  split at h
  · next hop => exact .inl ⟨eq_of_beq hop, (Except.ok.inj h).symm⟩
  · split at h
    · next hi => exact .inr (Except.ok.inj h ▸ hi)
    · cases h

/-- The word of an instruction with fields: its row's opcode and the fields (Table 2-1). -/
theorem encode_fields {i : Instr} {f : Fields} (h : i.fields = some f) : encode i = some (encodeFields i.spec.op f) := by
  unfold encode
  split
  · cases h
  · rw [h]

/-- What has a word is a PFX or has fields. -/
theorem encode_cases {i : Instr} {w : IWord} (h : encode i = some w) :
    (∃ p, i = .pfx p ∧ w = encodePfx p) ∨ ∃ f, i.fields = some f ∧ w = encodeFields i.spec.op f := by
  unfold encode at h
  split at h
  · exact .inl ⟨_, rfl, (Option.some.inj h).symm⟩
  · split at h
    · next f hf => exact .inr ⟨f, hf, (Option.some.inj h).symm⟩
    · cases h

end Sys2Proof
end

section
/-! SUPPORT. The settled statements of the encoding. -/

open Sys2Proof

namespace Sys2Proof.Proofs

/-- Settles O2: the word gives back opcode and fields, and the opcode with the selector or the register names the instruction. -/
theorem decodeEncode : Obligations.DecodeEncode := by
  unfold Obligations.DecodeEncode
  intro i w hw he
  obtain ⟨p, rfl, rfl⟩ | ⟨f, hf, rfl⟩ := encode_cases he
  · rw [decodeWord_pfx (opcode_encodePfx p), decodePfx_encodePfx]
  · obtain ⟨-, hd, ha, hb⟩ := fieldsOk_permits (fieldsOk_of_wf hf hw)
    apply decodeWord_instrOf
    rw [opcode_encodeFields,
      decodeFields_encodeFields _ (ne_raw_of_permits hd) (ne_raw_of_permits ha) (ne_raw_of_permits hb)]
    exact instrOf_of_wf hf hw

/-- Settles O3: what an opcode names has a row of that opcode, and the fields of a word hold all its other bits. -/
theorem encodeDecode : Obligations.EncodeDecode := by
  unfold Obligations.EncodeDecode
  intro w i h
  obtain ⟨hop, rfl⟩ | hi := decodeWord_cases h
  · exact congrArg some (encodePfx_decodePfx hop)
  · obtain ⟨hf, hop⟩ := instrOf_row _ _ i hi
    rw [encode_fields hf, BitVec.eq_of_toNat_eq hop, encodeFields_decodeFields]

end Sys2Proof.Proofs
end

section
/-! SUPPORT. Fetch and its faults, the step that follows from it, and TRAPPC of a trap (R16, R17, R35, R103, R372). -/

namespace Sys2Proof.Machine

/-! ### TRAPPC -/

/-- Trap entry outside the double-trap case saves the address in TRAPPC (R372). -/
theorem enterTrap_trappc {s : State} {c val pc : Word} (hd : (s.core.k && !s.core.saved) = false) :
    (s.enterTrap c val pc).ctx.trap.pc = pc.extractLsb' 0 22 := by
  obtain ⟨w, -, e⟩ := enterTrap_takes (c := c) (val := val) (pc := pc) hd
  rw [e]
  dsimp only [State.toHandler]
  rw [(trace_leaves ..).1]
  rfl

/-- A trap that is neither held for a home nor an error of the kernel's store names the instruction in TRAPPC (R14, R372, R399). -/
theorem trap_trappc {s : State} {t : Trap} (hh : t.1 ≠ heldCause) (hk : inKernelStore t = false)
    (hd : (s.core.k && !s.core.saved) = false) : (s.trap t).ctx.trap.pc = s.ctx.pc.extractLsb' 0 22 := by
  obtain ⟨u, hcore, -, e⟩ := trap_takes (s := s) hh hk
  have hb := behind_recordError t s
  have hpc : (s.recordError t).ctx.pc = s.ctx.pc := by rw [hb.ctx]
  rw [e, hpc]
  apply enterTrap_trappc
  rw [hcore, hb.core]
  exact hd

/-! ### Fetch -/

/-- The fetch traps of R16 at an address: misaligned, or aligned and beyond local store or, in user mode, in the kernel's bytes. -/
def State.fetchFaults (s : State) (a : Word) (t : Trap) : Prop :=
  (a.toNat % 4 ≠ 0 ∧ t = (0x08, a)) ∨
    (a.toNat % 4 = 0 ∧ (0x20000 < a.toNat + 12 ∨ s.core.k = false ∧ 0x1E000 < a.toNat + 12) ∧ t = (0x05, a))

/-- A fetch that faults traps at the address (R16). -/
theorem fetch_faults {s : State} {a : Word} {t : Trap} (h : s.fetchFaults a t) : s.fetch a = .error t := by
  unfold State.fetch
  obtain ⟨hal, rfl⟩ | ⟨hal, hout | ⟨hk, hout⟩, rfl⟩ := h
  · rw [if_pos (by simpa using hal)]
  · rw [if_neg (by simpa using hal), if_pos hout]
  · rw [if_neg (by simpa using hal)]
    split
    · rfl
    · rw [if_pos (by simp [hk, hout])]

/-- The causes of fetch traps: 0x08 and 0x05 (R16). -/
theorem fetchFaults_cause {s : State} {a : Word} {t : Trap} (h : s.fetchFaults a t) : t.1 = 0x08 ∨ t.1 = 0x05 := by
  obtain ⟨-, rfl⟩ | ⟨-, -, rfl⟩ := h
  · exact .inl rfl
  · exact .inr rfl

/-- A fetch trap names the first word in TRAPPC, outside the double-trap case (R16, R372). -/
theorem trap_fetchFaults_trappc {s : State} {a : Word} {t : Trap} (h : s.fetchFaults a t)
    (hd : (s.core.k && !s.core.saved) = false) : (s.trap t).ctx.trap.pc = s.ctx.pc.extractLsb' 0 22 := by
  refine trap_trappc ?_ ?_ hd
  · obtain hc | hc := fetchFaults_cause h <;> simp [hc, heldCause]
  · obtain hc | hc := fetchFaults_cause h <;> simp [inKernelStore, hc]

/-- With no copy job running, fetch sees the core's own store as it stands (R17). -/
theorem fetchable_eq_own {s : State} (hj : ∀ j ∈ s.cl.jobs, j.started = true → j.finished = true) : s.fetchable = s.own := by
  unfold State.fetchable
  generalize s.own = m
  generalize s.cl.jobs = jobs at hj
  induction jobs with
  | nil => rfl
  | cons j jobs ih =>
    have hrun : (j.started && !j.finished) = false := by
      cases hs : j.started
      · rfl
      · simp [hj j List.mem_cons_self hs]
    rw [List.foldl_cons, hrun, if_neg Bool.false_ne_true]
    exact ih fun j' hj' => hj j' (List.mem_cons_of_mem j hj')

/-- Outside a repeat body, with nothing written since the latest transfer, a word is read from the core's own store (R17, R103). -/
theorem wordAt_eq_own {s : State} (hrep : s.ctx.rep = none) (hif : s.core.ifetch = s.own)
    (hj : ∀ j ∈ s.cl.jobs, j.started = true → j.finished = true) (a : Nat) :
    s.wordAt a = BitVec.ofNat 96 (s.own.load a 12) := by
  simp [State.wordAt, hrep, fetchable_eq_own hj, hif]

/-- A fetch that does not fault, of a word without an uncorrectable error, gives the word at the address (R16, R207). -/
theorem fetch_ok {s : State} {a : Word} (hal : a.toNat % 4 = 0) (hin : a.toNat + 12 ≤ if s.core.k then 0x20000 else 0x1E000)
    (hbad : s.localBad .store a.toNat 12 = false) : s.fetch a = .ok (s.wordAt a.toNat) := by
  have hstore : ¬0x20000 < a.toNat + 12 := by split at hin <;> omega
  have huser : (!s.core.k && decide (0x1E000 < a.toNat + 12)) = false := by
    cases hk : s.core.k
    · simp only [hk, Bool.false_eq_true, if_false] at hin
      simp only [Bool.not_false, Bool.true_and, decide_eq_false_iff_not]
      omega
    · rfl
  have hword : s.badWord a.toNat = none := by simp [State.badWord, hbad]
  unfold State.fetch
  rw [if_neg (by simpa using hal), if_neg hstore, huser, if_neg Bool.false_ne_true, hword]

/-! ### The step after a fetch -/

/-- A word whose fetch faults traps (R16). -/
theorem fetchAndRun_error {s : State} {a : Word} {t : Trap} (hf : s.fetch a = .error t) : fetchAndRun a s = .next (s.trap t) := by
  unfold fetchAndRun
  rw [hf]

/-- A word of a reserved opcode takes trap 0x01 with the opcode (R35). -/
theorem fetchAndRun_reserved {s : State} {a : Word} {w : IWord} {op : BitVec 10} (hf : s.fetch a = .ok w)
    (hd : decodeWord w = .error (.reserved op)) : fetchAndRun a s = .next (s.trap (0x01, op.zeroExtend 64)) := by
  unfold fetchAndRun
  rw [hf]
  simp [runWord, hd]

/-- A PFX whose next word faults takes that fetch's trap (R16, R31). -/
theorem execPfx_error {p : Pfx} {s : State} {t : Trap} (hp : s.pkg.power = true) (hpre : s.core.pre = none)
    (hf : s.fetch (s.ctx.pc + 12) = .error t) : execPfx p s = .next (s.trap t) := by
  simp only [execPfx, hp, hpre, hf, Bool.not_true, Bool.false_eq_true, if_false]

/-- A PFX whose next word can be fetched is latched, and issues nothing (R30, R31). -/
theorem execPfx_ok {p : Pfx} {s : State} {w : IWord} (hp : s.pkg.power = true) (hpre : s.core.pre = none)
    (hf : s.fetch (s.ctx.pc + 12) = .ok w) : execPfx p s = .next { s with core := { s.core with pre := some p } } := by
  simp only [execPfx, hp, hpre, hf, Bool.not_true, Bool.false_eq_true, if_false]

end Sys2Proof.Machine
end

section
/-! SUPPORT. The checks that bind every instruction with fields (R32, R33, R34), and the privilege check among them (R106, R355). -/

namespace Sys2Proof.Machine

/-- An instruction whose check fails takes the trap of the first one, and has no other effect (R33, R34). -/
theorem exec_checked {i : Instr} {f : Fields} {s : State} {t : Trap} (hf : i.fields = some f) (hp : s.pkg.power = true)
    (hw : s.waitServed = false) (ha : s.awaits (i.names f s) = false) (hc : i.checks f (s.atIssue i f) = some t) :
    exec i s = .next ((s.atIssue i f).trap t) := by
  obtain ⟨eff, he⟩ := exec_issues hf s
  rw [he]
  exact issue_checked eff hp hw ha hc

/-- An instruction that is guarded off reads its guard's predicate alone (R33, R207). -/
theorem badSource_guarded {i : Instr} {f : Fields} {s : State} (hg : f.guard s = false)
    (hb : s.badReg [predNum f.pred] = none) : s.badSource i f = none := by
  simp [State.badSource, hg, hb]

/-- An instruction that is guarded off, by a predicate that is not held bad, only retires (R33). -/
theorem exec_guarded {i : Instr} {f : Fields} {s : State} (hf : i.fields = some f) (hp : s.pkg.power = true)
    (hw : s.waitServed = false) (ha : s.awaits (i.names f s) = false) (hc : i.checks f (s.atIssue i f) = none)
    (hg : f.guard (s.atIssue i f) = false) (hb : (s.atIssue i f).badReg [predNum f.pred] = none) :
    exec i s = .next ((s.atIssue i f).retire f ((s.atIssue i f).ctx.pc + (s.atIssue i f).len) .seq) := by
  obtain ⟨eff, he⟩ := exec_issues hf s
  rw [he]
  exact issue_guarded eff hp hw ha hc (badSource_guarded hg hb) hg

/-- Where the fields pass, and a PFX before it is admitted and consumed, the check of privilege is left (R32, R34). -/
theorem checks_eq_privTrap {i : Instr} {f : Fields} {s : State} (hb : i.badField f s = none)
    (hp : ∀ p, s.core.pre = some p → p.check i.spec f = none ∧ p.consumed i.spec f = true) : i.checks f s = i.privTrap f s := by
  unfold Instr.checks
  cases hpre : s.core.pre with
  | none => simp [hb]
  | some p =>
    obtain ⟨hcheck, hcons⟩ := hp p hpre
    simp [hb, hcheck, hcons]

/-- A privileged instruction in user mode (R32, R355). -/
theorem privTrap_privileged {i : Instr} {f : Fields} {s : State} (hk : s.core.k = false) (hr : i.sysReg f = none)
    (hp : i.spec.priv = true) : i.privTrap f s = some (0x04, i.spec.op.zeroExtend 64) := by
  simp [Instr.privTrap, hr, hp, hk]

/-- A system register of the kernel in user mode (R106). -/
theorem privTrap_register {i : Instr} {f : Fields} {s : State} {n : BitVec 22} (hk : s.core.k = false)
    (hr : i.sysReg f = some n.toNat) (hlo : 0x100 ≤ n.toNat) (hhi : n.toNat ≤ 0x1FF) :
    i.privTrap f s = some (0x04, (n.zeroExtend 64 <<< 20) ||| i.spec.op.zeroExtend 64) := by
  have hn : BitVec.ofNat 64 n.toNat = n.zeroExtend 64 := BitVec.eq_of_toNat_eq (by simp)
  simp [Instr.privTrap, hr, hk, hlo, hhi, hn]

end Sys2Proof.Machine
end

section
/-! SUPPORT. What retirement leaves of the cluster, the package and the results that are due (R20, R33). -/

namespace Sys2Proof.Machine

/-- Of the cluster retirement changes what its count does and what time does. -/
theorem retire_cl (f : Fields) (pc : Word) (flow : Flow) (s : State) :
    (s.retire f pc flow).cl = { s.cl with
      stores := (s.countRetired f).cl.stores, bad := (s.countRetired f).cl.bad
      phase := (s.retire f pc flow).cl.phase, pointers := (s.retire f pc flow).cl.pointers
      bankBusy := (s.retire f pc flow).cl.bankBusy
      gear := { s.cl.gear with sagLeft := (s.retire f pc flow).cl.gear.sagLeft } } := by
  have ht := (timed_retire f pc flow s).cl
  obtain ⟨-, -, hcl⟩ := countRetired_leaves f s
  generalize (s.retire f pc flow).cl = c at ht ⊢
  rw [ht]
  show ({ (s.countRetired f).cl with
    phase := c.phase, pointers := c.pointers, bankBusy := c.bankBusy
    gear := { (s.countRetired f).cl.gear with sagLeft := c.gear.sagLeft } } : Cluster) = _
  generalize (s.countRetired f).cl = d at hcl ⊢
  rw [hcl]

/-- Global memory is as the count of the instruction leaves it. -/
theorem retire_mem (f : Fields) (pc : Word) (flow : Flow) (s : State) :
    (s.retire f pc flow).pkg.mem = (s.countRetired f).pkg.mem := (timed_retire f pc flow s).mem

/-- Of the registers retirement writes what was due and nothing else (R20). -/
theorem retire_settled (f : Fields) (pc : Word) (flow : Flow) (s : State) :
    (s.retire f pc flow).settled.regs = s.settled.regs ∧ (s.retire f pc flow).settled.fmode = s.settled.fmode := by
  have ht := timed_retire f pc flow s
  obtain ⟨hctx, hcore, -⟩ := countRetired_leaves f s
  have hregs : (s.countRetired f).ctx.regs = s.ctx.regs := by rw [hctx]
  have hfmode : (s.countRetired f).ctx.fmode = s.ctx.fmode := by rw [hctx]
  have hpend : (s.countRetired f).core.pend = s.core.pend := by rw [hcore]
  have hs := settled_congr (t := s.retiring f pc flow) hregs hfmode hpend
  exact ⟨ht.regs.trans hs.1, ht.fmode.trans hs.2⟩

/-- Outside a repeat body the stream goes on where it was led (R103). -/
theorem continueAt_of_no_rep {s : State} (h : s.ctx.rep = none) (flow : Flow) (pc : Word) : s.continueAt flow pc = (none, pc) := by
  cases flow <;> simp [State.continueAt, h]

end Sys2Proof.Machine
end

section
/-! SUPPORT. Registers that are wired or reset to a value (R26, R27, R79, R107). -/

namespace Sys2Proof.Machine

/-- The zero register is none of the registers that a scalar write finds (R26). -/
theorem scalarWrite_zr (x : Word) : scalarWrite 112 x = none := rfl

/-- A result for the zero register is discarded, whatever its latency (R79). -/
theorem putS_zr (lat : Nat) (x : Word) (s : State) : s.putS lat 112 x = s := by rw [State.putS, scalarWrite_zr]

/-- An interlocked result for the zero register is discarded (R79). -/
theorem putSLocked_zr (x : Word) (s : State) : s.putSLocked 112 x = s := by rw [State.putSLocked, scalarWrite_zr]

/-- A write to p7 is discarded (R27). -/
theorem land_p7 (b : Bool) (c : Ctx) : c.land (.p 7 b) = c := by simp [Ctx.land, Regs.write]

/-- The scalar registers at reset are zero but the stack pointer s61 (log entry 1). -/
theorem reset_scalar {n : BitVec 7} (hn : n ≠ 61) (hlt : n.toNat < 64) : Regs.reset.scalar n = 0 := by
  have h61 : 61 ≠ n.toNat := fun e => hn (BitVec.eq_of_toNat_eq e.symm)
  simp [Regs.scalar, Regs.reset, vget, hlt, h61]

/-- Every memory is in its canonical form at reset: nothing is written in any. -/
theorem reset_memoriesWf : State.reset.memoriesWf = true := by
  simp [State.memoriesWf, State.reset, Package.reset, Cluster.reset, Ctx.reset, Core.reset, Memory.wf, Memory.wfFrom]

/-- The masks at reset (R107, log entry 1). -/
theorem reset_mask {n : BitVec 7} (hlo : 104 ≤ n.toNat) (hhi : n.toNat ≤ 111) : Regs.reset.scalar n = BitVec.allOnes 64 := by
  have hm : n.toNat - 104 < 8 := by omega
  have hs : ¬n.toNat < 64 := by omega
  simp [Regs.scalar, Regs.reset, vget, hlo, hhi, hm, hs]

end Sys2Proof.Machine
end

section
/-! SUPPORT. The settled statements of the instruction word: fetch, the step, PFX, checks, guards and retirement. -/

open Sys2Proof Sys2Proof.Machine Sys2Proof.Claims

namespace Sys2Proof.Proofs

/-- Settles O6: `State.fetchFaults` is the statement's case distinction, and each part is a lemma on fetch, on the step or on TRAPPC. -/
theorem fetchTraps : Obligations.FetchTraps := by
  unfold Obligations.FetchTraps
  refine ⟨fun s => ⟨?step, ?prefixed, fun a t h hd => ?trappc, fun a hal hin hbad hrep hif hj => ?good⟩, by decide⟩
  case step =>
    intro rest t ht hfault
    rw [step_takesTurn ht]
    exact fetchAndRun_error (fetch_faults (s := s.onTurn rest) hfault)
  case prefixed => exact fun p t hp hpre hfault => execPfx_error hp hpre (fetch_faults hfault)
  case trappc => exact trap_fetchFaults_trappc h hd
  case good => rw [fetch_ok hal hin hbad, wordAt_eq_own hrep hif hj]

/-- Settles O17: time admits the instruction in the same mode and after the same PFX, and of its checks that of privilege fails. -/
theorem privilegeTraps : Obligations.PrivilegeTraps := by
  unfold Obligations.PrivilegeTraps
  intro i f s hf hp hw ha hk u hb hpre
  have ht := timed_atIssue i f s
  have hku : u.core.k = false := ht.k.trans hk
  have hc : i.checks f u = i.privTrap f u := checks_eq_privTrap hb fun p e => hpre p (ht.pre.symm.trans e)
  have htrap : ∀ t, i.privTrap f u = some t → exec i s = .next (u.trap t) := fun t e =>
    exec_checked hf hp hw ha (hc.trans e)
  refine ⟨fun op hi => htrap _ ?privileged, fun n hlo hhi => ⟨fun hi ho => htrap _ ?mfs, fun hi ho => htrap _ ?mts⟩⟩
  case privileged =>
    simp only [List.mem_cons, List.not_mem_nil, or_false, Prod.mk.injEq] at hi
    obtain ⟨rfl, rfl⟩ | ⟨rfl, rfl⟩ | ⟨rfl, rfl⟩ | ⟨rfl, rfl⟩ | ⟨rfl, rfl⟩ | ⟨rfl, rfl⟩ | ⟨rfl, rfl⟩ | ⟨rfl, rfl⟩ := hi
    all_goals exact privTrap_privileged hku rfl rfl
  case mfs =>
    subst hi
    exact privTrap_register hku (by simp [Instr.sysReg, ho]) hlo hhi
  case mts =>
    simp only [List.mem_cons, List.not_mem_nil, or_false] at hi
    obtain rfl | rfl | rfl | rfl := hi
    all_goals exact privTrap_register hku (by simp [Instr.sysReg, ho]) hlo hhi

/-- Settles O18: every instruction with fields is issued, and its guard matters only once its checks have passed. -/
theorem guardedOff : Obligations.GuardedOff := by
  unfold Obligations.GuardedOff
  intro i f s hf hp hw ha
  exact ⟨exec_guarded hf hp hw ha, fun t => exec_checked hf hp hw ha⟩

/-- Settles O19: the instruction is counted, and then time passes. -/
theorem retireFrame : Obligations.RetireFrame := by
  unfold Obligations.RetireFrame
  intro f pc flow s t
  have hctx : t.ctx = _ := retire_ctx f pc flow s
  have hcore : t.core = _ := retire_core f pc flow s
  have hcl : t.cl = _ := retire_cl f pc flow s
  obtain ⟨hregs, hfmode⟩ := retire_settled f pc flow s
  refine ⟨?retired, ?pre, fun hrep => ?pc, hregs, hfmode, ?k, ?trap, ?tiles, ?tx, ?mailbox, ?streams, ?claims, ?cb2, ?mq8, ?handler,
    ?sys, ?gq, ?kq, ?spad, ?bstore, ?bars, ?mutexes, ?events, retire_mem f pc flow s, ?stores⟩
  case pc => rw [hctx, continueAt_of_no_rep hrep]
  case pre | k | handler | gq | kq => rw [hcore]; rfl
  case spad | bstore | bars | mutexes | events | stores => rw [hcl]
  all_goals rw [hctx]

/-- Settles O4: the core's turn fetches the word at the pc, which runs or is refused. -/
theorem stepRunsDecoded : Obligations.StepRunsDecoded := by
  unfold Obligations.StepRunsDecoded
  intro s rest w ht hf
  rw [step_takesTurn ht]
  exact ⟨fun i => fetchAndRun_ok hf, fun op => fetchAndRun_reserved hf⟩

/-- Settles O5: with a PFX latched the step fetches 12 bytes on; a PFX itself is latched. -/
theorem prefixes : Obligations.Prefixes := by
  unfold Obligations.Prefixes
  refine ⟨fun s p w i hp hpre hf hd => ?consumer, fun p s w hp hpre hf => execPfx_ok hp hpre hf⟩
  case consumer => rw [step_consumer hp hpre, fetchAndRun_ok hf hd]

/-- Settles O15: each of the three is ready and raises its trap in the state whose fetches it has ordered. -/
theorem softwareTraps : Obligations.SoftwareTraps := by
  unfold Obligations.SoftwareTraps
  refine fun f s => ⟨fun h => ?sysc, fun h => ?brk, fun h hkeep => ?trap⟩
  case sysc =>
    rw [exec_sysc, execSysc]
    exact issue_trapIn h rfl
  case brk =>
    rw [exec_brk, execBrk]
    exact issue_trapIn h rfl
  case trap =>
    rw [exec_trap, execTrap]
    refine issue_trapIn h (if_neg ?_)
    simp only [Bool.and_eq_true, decide_eq_true_eq]
    rintro ⟨⟨ha, hc⟩, hk⟩
    obtain h | h | h := hkeep
    · exact h ha
    · exact nomatch hc.symm.trans h
    · exact nomatch hk.symm.trans h

/-- Settles O8: the registers at reset. -/
theorem resetRegisters : Obligations.ResetRegisters := by
  unfold Obligations.ResetRegisters
  exact ⟨fun n => reset_scalar, rfl, fun n => reset_mask, rfl, reset_memoriesWf, rfl⟩

/-- Settles O11: reads of zr and p7 are fixed, and writes of them are discarded wherever they land. -/
theorem hardWiredRegisters : Obligations.HardWiredRegisters := by
  unfold Obligations.HardWiredRegisters
  exact fun s lat x b => ⟨rfl, putS_zr lat x s, putSLocked_zr x s, rfl, land_p7 b s.ctx⟩

/-- Settles O1: each word is evaluated. -/
theorem decodeWords : Obligations.DecodeWords := by
  unfold Obligations.DecodeWords
  decide

end Sys2Proof.Proofs
end

section
/-! SUPPORT. The float instructions: which effect each row of the tables has, and what the effects leave where their sources deliver,
their destination accepts and no raised flag is enabled; the trap 0x0E of a scalar one (R68, R91, R93, R114, R115). -/

open Sys2Proof.Claims

namespace Sys2Proof.Machine

/-! ### Scalar results -/

/-- A float scalar result with a raised flag enabled. -/
theorem fpScalar_trap {s : State} {lat : Option Nat} {o : Operand} {r : Nat × Flags} (h : r.2 &&& s.enables ≠ 0) :
    fpScalar lat o r s = .trap (0x0E, r.2.zeroExtend 64) := by
  rw [fpScalar, fpTrap_some h]

/-- Every row of the scalar float instructions issues with the effect of its operation. -/
theorem exec_floatRow {row : (Fields → Instr) × FOp × Option Nat} (hr : row ∈ floatRows) (f : Fields) (s : State) :
    exec (row.1 f) s = issue (row.1 f) f (fop row.2.1 row.2.2 f) s := by
  simp only [floatRows, List.mem_cons, List.not_mem_nil, or_false] at hr
  obtain rfl | rfl | rfl | rfl | rfl | rfl := hr
  · exact exec_fadd f s
  · exact exec_fsub f s
  · exact exec_fmul f s
  · exact exec_ffma f s
  · exact exec_fdiv f s
  · exact exec_fsqrt f s

/-- A ready instruction whose effect is a float scalar result with no raised flag enabled. -/
theorem issue_fpScalar {i : Instr} {f : Fields} {s : State} {eff : State → Eff} {lat : Option Nat} {r : Nat × Flags}
    (h : s.ready i f = true) (he : eff (s.atIssue i f) = fpScalar lat f.opD r (s.atIssue i f))
    (hf : r.2 &&& (s.atIssue i f).enables = 0) :
    issue i f eff s = .next (s.after i f (((s.atIssue i f).setS lat f.opD (BitVec.ofNat 64 r.1)).raiseFlags lat r.2)) :=
  issue_ok h (he.trans (fpScalar_ok hf))

/-- FCMP's predicate and flags with no raised flag enabled. -/
theorem fcmpEffect_ok {f : Fields} {s : State} :
    let F := fmtOfSel f.sel
    let c := s.val f.opD
    let r := fcond (c.extractLsb' 4 4).toNat (F.decode false (s.val f.opA).toNat) (F.decode false (s.val f.opB).toNat)
    r.2 &&& s.enables = 0 → fcmpEffect f s = .ok ((s.setPred 2 c r.1).raiseFlags (some 2) r.2) := by
  intro F c r hf
  unfold fcmpEffect
  dsimp only
  rw [fpTrap_none hf]

/-! ### Vector results -/

/-- Every row of the vector float instructions issues with the effect of its operation. -/
theorem exec_vectorFloatRow {row : (Fields → Instr) × FOp × Option Nat} (hr : row ∈ vectorFloatRows) (f : Fields) (s : State) :
    exec (row.1 f) s = issue (row.1 f) f (vfop row.2.1 row.2.2 f) s := by
  simp only [vectorFloatRows, List.mem_cons, List.not_mem_nil, or_false] at hr
  obtain rfl | rfl | rfl | rfl | rfl | rfl | rfl | rfl | rfl := hr
  · exact exec_vfadd f s
  · exact exec_vfsub f s
  · exact exec_vfmul f s
  · exact exec_vfma f s
  · exact exec_vfdiv f s
  · exact exec_vfsqrt f s
  · exact exec_vfrsq f s
  · exact exec_vfexp2 f s
  · exact exec_vflog2 f s

/-- VFMIN and VFMAX issue with the effect of R115. -/
theorem exec_vfminmaxRow {row : (Fields → Instr) × Bool} (hr : row ∈ [(Instr.vfmin, false), (Instr.vfmax, true)]) (f : Fields)
    (s : State) : exec (row.1 f) s = issue (row.1 f) f (vfminmax row.2 f) s := by
  simp only [List.mem_cons, List.not_mem_nil, or_false] at hr
  obtain rfl | rfl := hr
  · exact exec_vfmin f s
  · exact exec_vfmax f s

section
variable {f : Fields} {u v m t : State} {x y : Vec}

/-- The operations of FOp in the active lanes; FMA reads D, which is then a register. -/
theorem vfop_ok {op : FOp} {lat : Option Nat} :
    let F := fmtOfSel f.sel
    let r := flagLanes F.w (u.act f) fun i => op.result F u.mode u.sat (lane x i F.w) (lane y i F.w) (lane (u.vold f.opD) i F.w)
    u.delivers F.w f.opA v x → v.delivers F.w f.opB m y → (op = .fma → f.opD.stream = none) → r.2 &&& m.enables = 0 →
      m.accepts lat f.opD (laneMask F.w (u.act f)) r.1 t → vfop op lat f u = .ok (t.raiseFlags lat r.2) := by
  intro F r hx hy hd hf ht
  have hout : fpVector u lat f.opD (laneMask F.w (u.act f)) r.1 r.2 m = .ok (t.raiseFlags lat r.2) := fpVector_accepts hf ht
  unfold vfop
  refine (withSources_delivers _ hx hy).trans ?_
  dsimp only
  split
  case isTrue hop => exact (withDest_register (hd hop)).trans hout
  case isFalse => exact hout

/-- The smaller or larger of the active lanes. -/
theorem vfminmax_ok {isMax : Bool} :
    let F := fmtOfSel f.sel
    let r := flagLanes F.w (u.act f) fun i => F.minmax false isMax (lane x i F.w) (lane y i F.w)
    u.delivers F.w f.opA v x → v.delivers F.w f.opB m y → r.2 &&& m.enables = 0 →
      m.accepts (some 2) f.opD (laneMask F.w (u.act f)) r.1 t → vfminmax isMax f u = .ok (t.raiseFlags (some 2) r.2) := by
  intro F r hx hy hf ht
  unfold vfminmax
  exact (withSources_delivers _ hx hy).trans (fpVector_accepts hf ht)

/-- VFCMP's mask bits and flags; the enables are those from before its sources are popped. -/
theorem vfcmpEffect_ok :
    let F := fmtOfSel f.sel
    let c := u.val f.opD
    let r := fun i => fcond (c.extractLsb' 4 4).toNat (F.decode false (lane x i F.w)) (F.decode false (lane y i F.w))
    let fl := (flagLanes F.w (u.act f) fun i => (0, (r i).2)).2
    u.delivers F.w f.opA v x → v.delivers F.w f.opB m y → fl &&& u.enables = 0 →
      vfcmpEffect f u = .ok ((m.setMask 2 c (512 / F.w) (u.act f) fun i => (r i).1).raiseFlags (some 2) fl) := by
  intro F c r fl hx hy hf
  unfold vfcmpEffect
  refine (withSources_delivers _ hx hy).trans ?_
  dsimp only
  rw [fpTrap_none hf]

end

end Sys2Proof.Machine
end

section
/-! SUPPORT. LDG and STG that their station accepts (R99). -/

namespace Sys2Proof.Machine

/-- An accepted LDG that converts nothing, or with no enable set, joins the outstanding accesses. -/
theorem ldgEffect_accepted {f : Fields} {u : State} {r : Reached} :
    let ea := u.val f.opA + (u.globalOffset f.opB).1
    let typed := (u.globalOffset f.opB).2
    let ty := if typed then some (selType f.sel) else none
    let v := atStation u r
    accepted u true 0 (scalarReached .read f ea typed) r → v.isShadow = false →
      (v.enables = 0 ∨ typed = false ∨ r.fmt = 0x1F ∨ r.fmt = selType f.sel) →
      ldgEffect f u = .ok (v.enqueue (access v ea .load r ty 64 (scalarDest f.opD) (v.tableFor r.fmt))) := by
  intro ea typed ty v ha hs hc
  have hty : v.enables = 0 ∨ ty = none ∨ r.fmt = 0x1F ∨ ty = some r.fmt := by
    obtain h | h | h | h := hc
    · exact .inl h
    · exact .inr (.inl (if_neg (ne_true_of_eq_false h)))
    · exact .inr (.inr (.inl h))
    · by_cases ht : typed = true
      · exact .inr (.inr (.inr ((if_pos ht).trans (congrArg some h.symm))))
      · exact .inr (.inl (if_neg ht))
  exact (station_accepted ha).trans (acceptLoad_ok hs hty)

/-- An accepted STG joins the outstanding accesses with its encoded data, no raised flag of which is enabled. -/
theorem stgEffect_accepted {f : Fields} {u : State} {r : Reached} :
    let ea := u.val f.opA + (u.globalOffset f.opB).1
    let typed := (u.globalOffset f.opB).2
    let ty := if typed then some (selType f.sel) else none
    let x := (u.val f.opD).toNat % 2 ^ (if typed then 64 else 8 * selBytes f.sel)
    let v := atStation u r
    let d := storeParts ty r.fmt v.top v.rmode (fun _ => x) r.parts
    accepted u false 1 (scalarReached .write f ea typed) r → d.2 &&& v.enables = 0 →
      stgEffect f u = .ok ((acceptStore ea d.1 v).raiseFlags (some 1) d.2) := by
  intro ea typed ty x v d ha hf
  exact (station_accepted ha).trans (storeLanes_ok hf)

end Sys2Proof.Machine
end

section
/-! SUPPORT. Messages: taking the earliest of a kind from the mailbox, and sending one (R78, R273, R326 to R328). -/

namespace Sys2Proof.Machine

/-- The instructions that take a message issue with the effect of their kind, with or without .T. -/
theorem exec_messageRow {row : (Fields → Instr) × Bool × Bool}
    (hr : row ∈ [(Instr.mbxr, true, false), (Instr.mbxrT, true, true), (Instr.mrecv, false, false), (Instr.mrecvT, false, true)])
    (f : Fields) (s : State) : exec (row.1 f) s = issue (row.1 f) f (takeMessage row.2.1 row.2.2 f) s := by
  simp only [List.mem_cons, List.not_mem_nil, or_false] at hr
  obtain rfl | rfl | rfl | rfl := hr
  · exact exec_mbxr f s
  · exact exec_mbxrT f s
  · exact exec_mrecv f s
  · exact exec_mrecvT f s

section
variable {copy try_ : Bool} {f : Fields} {u t : State} {m : Message}

/-- A message whose format has the context's own TOP, or needs none, moves into D, and what waits for a free entry enters (R326). -/
theorem givesMessage_moves (hm : u.firstMessage copy = some m) (hf : mismatched m.fmt m.top u.top = false)
    (ht : (State.refill 16 { u.endWait with ctx := { u.ctx with mailbox := u.ctx.mailbox.filter (·.slot != m.slot) } }).accepts none
      f.opD (BitVec.allOnes 512) m.data t) : givesMessage copy try_ f u = .ok t := by
  unfold givesMessage
  rw [hm]
  dsimp only
  rw [if_neg (by rw [hf]; exact Bool.false_ne_true)]
  exact setV_accepts ht

/-- A message in a narrow float format with another TOP traps and stays (R78). -/
theorem givesMessage_mismatched (hm : u.firstMessage copy = some m) (hf : mismatched m.fmt m.top u.top = true) :
    givesMessage copy try_ f u = .trapIn u.endWait (0x09, (bit01 m.top <<< 8) ||| m.fmt.zeroExtend 64) := by
  unfold givesMessage
  rw [hm]
  exact if_pos hf

/-- Without a message the .T forms give 0. -/
theorem givesMessage_none (hm : u.firstMessage copy = none) (htry : try_ = true)
    (ht : u.endWait.accepts none f.opD (BitVec.allOnes 512) 0 t) : givesMessage copy try_ f u = .ok t := by
  subst htry
  unfold givesMessage
  rw [hm]
  exact setV_accepts ht

end

/-- MSEND of a message that the checks of R327 pass, to a cluster of the partition, with room in the queue: the image is signed, and
the message is queued with the header that MSEND fills. -/
theorem msendEffect_queues {f : Fields} {u : State} {img : Nat} :
    let a := u.val f.opA
    let m := u.published
    let v := m.endWait.sign (u.val f.opB).toNat 64 img
    u.cl.part.member = true → m.imageAt (u.val f.opB) 64 = .ok img → reservedFmt (BitVec.ofNat 5 (img / 2 ^ 16)) = false →
      (a.extractLsb' 0 12).toNat < m.cl.part.size → m.isShadow = false → m.core.outMsgs.length < 16 →
      msendEffect f u = .ok { v with core := { v.core with
        outMsgs := v.core.outMsgs ++ [(a.extractLsb' 0 12, a.extractLsb' 12 3, messageImage m img)] } } := by
  intro a m v hmember himg hfmt hto hown hroom
  unfold msendEffect partitioned
  rw [if_pos hmember]
  dsimp only
  rw [himg]
  dsimp only
  rw [if_neg (by rw [hfmt]; exact Bool.false_ne_true), if_neg (Nat.not_le.mpr hto), if_neg (by rw [hown]; exact Bool.false_ne_true),
    if_neg (Nat.not_le.mpr hroom)]

end Sys2Proof.Machine
end

section
/-! SUPPORT. The settled statements of the number formats: float arithmetic, conversions, typed accesses and messages. -/

open Sys2Proof Sys2Proof.Machine Sys2Proof.Claims

namespace Sys2Proof.Proofs

/-- Settles O25: each row's effect is its operation's result in a scalar destination, or trap 0x0E. -/
theorem floatResults : Obligations.FloatResults := by
  unfold Obligations.FloatResults
  intro row hrow f s h u r
  rw [exec_floatRow hrow]
  exact ⟨fun hf => issue_fpScalar h rfl hf, fun hf => issue_trap h (fpScalar_trap hf)⟩

/-- Settles O26: the effects that may raise flags are float scalar results or FCMP's; those of R96 complete by themselves. -/
theorem floatConversions : Obligations.FloatConversions := by
  unfold Obligations.FloatConversions
  refine ⟨fun f s => ⟨fun h hf => ?fmin, fun h hf => ?fmax, fun h hf => ?fcvt, fun h hf => ?fcvti, fun h hf => ?icvtf,
    fun h hf => ?fcmp⟩, fun f s => ⟨fun h => ?fclass, fun h => ?fabs, fun h => ?fneg⟩⟩
  case fmin => rw [exec_fmin, execFmin]; exact issue_fpScalar h rfl hf
  case fmax => rw [exec_fmax, execFmax]; exact issue_fpScalar h rfl hf
  case fcvt => rw [exec_fcvt, execFcvt]; exact issue_fpScalar h rfl hf
  case fcvti => rw [exec_fcvti, execFcvti]; exact issue_fpScalar h rfl hf
  case icvtf => rw [exec_icvtf, execIcvtf]; exact issue_fpScalar h rfl hf
  case fcmp => rw [exec_fcmp, execFcmp]; exact issue_ok h (fcmpEffect_ok hf)
  case fclass => rw [exec_fclass, execFclass]; exact issue_ok h rfl
  case fabs => rw [exec_fabs, execFabs]; exact issue_ok h rfl
  case fneg => rw [exec_fneg, execFneg]; exact issue_ok h rfl

/-- Settles O30: the station accepts the access, which then joins the outstanding ones. -/
theorem scalarGlobal : Obligations.ScalarGlobal := by
  unfold Obligations.ScalarGlobal
  refine fun f s r => ⟨fun h ha hs hc => ?ldg, fun h ha hf => ?stg⟩
  case ldg => rw [exec_ldg, execLdg]; exact issue_ok h (ldgEffect_accepted ha hs hc)
  case stg => rw [exec_stg, execStg]; exact issue_ok h (stgEffect_accepted ha hf)

/-- Settles O35: the sources deliver, the active lanes are computed, and the destination accepts them. -/
theorem vectorFloats : Obligations.VectorFloats := by
  unfold Obligations.VectorFloats
  refine ⟨fun row hrow f s v m t x y h hx hy hd hf ht => ?rounded, fun row hrow f s v m t x y h hx hy hf ht => ?minmax,
    fun f s v m x y h hx hy hf => ?vfcmp⟩
  case rounded => rw [exec_vectorFloatRow hrow]; exact issue_ok h (vfop_ok hx hy hd hf ht)
  case minmax => rw [exec_vfminmaxRow hrow]; exact issue_ok h (vfminmax_ok hx hy hf ht)
  case vfcmp => rw [exec_vfcmp, execVfcmp]; exact issue_ok h (vfcmpEffect_ok hx hy hf)

/-- Settles O44: a message is moved, trapped on or missing, in the state in which earlier loads have been performed; MSEND queues. -/
theorem messages : Obligations.Messages := by
  unfold Obligations.Messages
  refine ⟨fun row hrow f s t h => ⟨fun m hm hf ht => ?moves, fun m hm hf => ?mismatched, fun hm htry ht => ?none⟩,
    fun f s img h hmember himg hfmt hto hown hroom => ?send⟩
  case moves => rw [exec_messageRow hrow]; exact issue_ok h (givesMessage_moves hm hf ht)
  case mismatched => rw [exec_messageRow hrow]; exact issue_trapIn h (givesMessage_mismatched hm hf)
  case none => rw [exec_messageRow hrow]; exact issue_ok h (givesMessage_none hm htry ht)
  case send => rw [exec_msend, execMsend]; exact issue_ok h (msendEffect_queues hmember himg hfmt hto hown hroom)

end Sys2Proof.Proofs
end

section
/-! SUPPORT. The scalar integer instructions: which effect each row of Table 5-3 has, and when it completes or traps (R84, R85). -/

open Sys2Proof.Claims

namespace Sys2Proof.Machine

/-- Every row of Table 5-3 issues with the effect of its operation. -/
theorem exec_intRow {row : (Fields → Instr) × AluOp × Option Nat} (hr : row ∈ intRows) (f : Fields) (s : State) :
    exec (row.1 f) s = issue (row.1 f) f (alu row.2.1 row.2.2 f) s := by
  simp only [intRows, List.mem_cons, List.not_mem_nil, or_false] at hr
  obtain rfl | rfl | rfl | rfl | rfl | rfl | rfl | rfl | rfl | rfl | rfl | rfl | rfl | rfl | rfl | rfl | rfl | rfl | rfl | rfl |
    rfl | rfl | rfl | rfl | rfl | rfl := hr
  all_goals rfl

/-- Each instruction that divides is a row of Table 5-3 whose operation divides (R85). -/
theorem divides_row {mk : Fields → Instr} (hm : mk ∈ [Instr.div, Instr.divu, Instr.rem, Instr.remu]) :
    ∃ op lat, (mk, op, lat) ∈ intRows ∧ op.divides = true := by
  simp only [List.mem_cons, List.not_mem_nil, or_false] at hm
  obtain rfl | rfl | rfl | rfl := hm
  · exact ⟨.div, none, by simp [intRows], rfl⟩
  · exact ⟨.divu, none, by simp [intRows], rfl⟩
  · exact ⟨.rem, none, by simp [intRows], rfl⟩
  · exact ⟨.remu, none, by simp [intRows], rfl⟩

section
variable {op : AluOp} {lat : Option Nat} {f : Fields} {u : State}

/-- An integer operation completes but for a zero divisor. -/
theorem alu_ok :
    let w := selWidth f.sel
    let a := (u.val f.opA).toNat % 2 ^ w
    let b := (u.val f.opB).toNat % 2 ^ w
    ¬(op.divides = true ∧ b = 0) →
      alu op lat f u = .ok (u.setS lat f.opD (BitVec.ofNat 64 (op.result u.sat w a b (u.val f.opB).toNat))) := by
  intro w a b h
  exact if_neg (by simpa using h)

/-- A zero divisor raises 0x0D with the dividend (R85). -/
theorem alu_trap (hd : op.divides = true) (hb : (u.val f.opB).toNat % 2 ^ selWidth f.sel = 0) :
    alu op lat f u = .trap (0x0D, BitVec.ofNat 64 ((u.val f.opA).toNat % 2 ^ selWidth f.sel)) :=
  if_pos (by simp [hd, hb])

end

end Sys2Proof.Machine
end

section
/-! SUPPORT. The integer operations and conditions as operations of bit vectors, and their clamped results under S (R84, R89). -/

namespace Sys2Proof.Machine

/-! ### Readings of a pattern -/

/-- A `w`-bit pattern read in two's complement is its bit vector's integer. -/
theorem sx_toNat {w : Nat} (hw : 0 < w) (a : BitVec w) : sx w a.toNat = a.toInt := by
  have hpow : 2 ^ w = 2 * 2 ^ (w - 1) := by rw [← Nat.pow_succ', Nat.succ_eq_add_one, Nat.sub_add_cancel hw]
  have hcond : a.toNat < 2 ^ (w - 1) ↔ 2 * a.toNat < 2 ^ w := by omega
  simp [sx, BitVec.toInt_eq_toNat_cond, hcond]

/-- The low bits of an integer are those of the bit vector that it wraps to. -/
theorem lowBits_ofInt (w : Nat) (x : Int) : lowBits w x = (BitVec.ofInt w x).toNat := by
  rw [BitVec.toNat_ofInt, Nat.cast_pow, Nat.cast_ofNat]
  rfl

/-- A bit vector whose integer is `x` wrapped holds the low bits of `x`. -/
theorem lowBits_of_bmod {w : Nat} {y : BitVec w} {x : Int} (h : y.toInt = x.bmod (2 ^ w)) : lowBits w x = y.toNat := by
  rw [lowBits_ofInt, BitVec.eq_of_toInt_eq ((BitVec.toInt_ofInt x).trans h.symm)]

/-- The low bits of a bit vector's integer are the bit vector. -/
theorem lowBits_toInt {w : Nat} (y : BitVec w) : lowBits w y.toInt = y.toNat := lowBits_of_bmod (BitVec.toInt_bmod_cancel y).symm

/-- The low bits of a natural number. -/
theorem lowBits_natCast (w n : Nat) : lowBits w (n : Int) = n % 2 ^ w := by
  rw [lowBits_ofInt, BitVec.ofInt_natCast, BitVec.toNat_ofNat]

/-- The low bits of a bit vector's number are the bit vector. -/
theorem lowBits_toNat {w : Nat} (y : BitVec w) : lowBits w (y.toNat : Int) = y.toNat := by
  rw [lowBits_natCast, Nat.mod_eq_of_lt y.isLt]

/-- Without S the result is the exact one's low bits (R84). -/
theorem result_unsaturated (op : AluOp) (w a b k : Nat) : op.result false w a b k = lowBits w (op.exact w a b k) := rfl

/-! ### The operations -/

section
variable {w : Nat} {a b : BitVec w} {k : Nat}

theorem result_add (hw : 0 < w) : AluOp.add.result false w a.toNat b.toNat k = (a + b).toNat := by
  rw [result_unsaturated, AluOp.exact, sx_toNat hw, sx_toNat hw]
  exact lowBits_of_bmod (BitVec.toInt_add a b)

theorem result_sub (hw : 0 < w) : AluOp.sub.result false w a.toNat b.toNat k = (a - b).toNat := by
  rw [result_unsaturated, AluOp.exact, sx_toNat hw, sx_toNat hw]
  exact lowBits_of_bmod BitVec.toInt_sub

theorem result_mul (hw : 0 < w) : AluOp.mul.result false w a.toNat b.toNat k = (a * b).toNat := by
  rw [result_unsaturated, AluOp.exact, sx_toNat hw, sx_toNat hw]
  exact lowBits_of_bmod (BitVec.toInt_mul a b)

theorem result_mulh (hw : 0 < w) : AluOp.mulh.result false w a.toNat b.toNat k = lowBits w (a.toInt * b.toInt / 2 ^ w) := by
  rw [result_unsaturated, AluOp.exact, sx_toNat hw, sx_toNat hw]

/-- The high half of an unsigned product fits its width. -/
theorem result_mulhu : AluOp.mulhu.result false w a.toNat b.toNat k = a.toNat * b.toNat / 2 ^ w := by
  have hlt : a.toNat * b.toNat / 2 ^ w < 2 ^ w := Nat.div_lt_of_lt_mul (Nat.mul_lt_mul'' a.isLt b.isLt)
  exact (lowBits_natCast w _).trans (Nat.mod_eq_of_lt hlt)

theorem result_div (hw : 0 < w) : AluOp.div.result false w a.toNat b.toNat k = (a.sdiv b).toNat := by
  rw [result_unsaturated, AluOp.exact, sx_toNat hw, sx_toNat hw]
  exact lowBits_of_bmod (BitVec.toInt_sdiv a b)

theorem result_rem (hw : 0 < w) : AluOp.rem.result false w a.toNat b.toNat k = (a.srem b).toNat := by
  rw [result_unsaturated, AluOp.exact, sx_toNat hw, sx_toNat hw, ← BitVec.toInt_srem]
  exact lowBits_toInt _

theorem result_divu : AluOp.divu.result false w a.toNat b.toNat k = (a / b).toNat := lowBits_toNat (a / b)

theorem result_remu : AluOp.remu.result false w a.toNat b.toNat k = (a % b).toNat := lowBits_toNat (a % b)

theorem result_and : AluOp.and.result false w a.toNat b.toNat k = (a &&& b).toNat := lowBits_toNat (a &&& b)

theorem result_or : AluOp.or.result false w a.toNat b.toNat k = (a ||| b).toNat := lowBits_toNat (a ||| b)

theorem result_xor : AluOp.xor.result false w a.toNat b.toNat k = (a ^^^ b).toNat := lowBits_toNat (a ^^^ b)

theorem result_andn : AluOp.andn.result false w a.toNat b.toNat k = (a &&& ~~~b).toNat := by
  rw [result_unsaturated, AluOp.exact, ← BitVec.toNat_not, ← BitVec.toNat_and]
  exact lowBits_toNat _

/-- A count at or above the width shifts every bit out. -/
theorem result_shl : AluOp.shl.result false w a.toNat b.toNat k = (a <<< k).toNat := by
  rw [result_unsaturated, AluOp.exact, BitVec.toNat_shiftLeft, Nat.shiftLeft_eq]
  split
  case isTrue hk =>
    have hdvd : 2 ^ w ∣ a.toNat * 2 ^ k := Dvd.dvd.mul_left (Nat.pow_dvd_pow 2 hk) _
    rw [Nat.mod_eq_zero_of_dvd hdvd]
    exact lowBits_natCast w 0
  case isFalse => exact lowBits_natCast w _

theorem result_shr : AluOp.shr.result false w a.toNat b.toNat k = (a >>> k).toNat := by
  have hshift : (a >>> k).toNat = a.toNat / 2 ^ k := by rw [BitVec.toNat_ushiftRight, Nat.shiftRight_eq_div_pow]
  rw [result_unsaturated, AluOp.exact, ← hshift]
  split
  case isTrue hk =>
    have hlt : a.toNat < 2 ^ k := a.isLt.trans_le (Nat.pow_le_pow_right Nat.two_pos hk)
    rw [hshift, Nat.div_eq_of_lt hlt]
    exact lowBits_natCast w 0
  case isFalse => exact lowBits_toNat _

/-- An arithmetic shift by the width or more leaves what one by the width less 1 does: the sign. -/
theorem toInt_div_two_pow_min : a.toInt / 2 ^ Nat.min k (w - 1) = a.toInt / 2 ^ k := by
  obtain hk | hk := Nat.le_total k (w - 1)
  · rw [Nat.min_eq_min, Nat.min_eq_left hk]
  · have hpow : (2 : Int) ^ (w - 1) ≤ 2 ^ k := pow_le_pow_right₀ one_le_two hk
    have hlo := a.le_toInt
    have hhi := a.toInt_lt
    have hpos : (0 : Int) < 2 ^ (w - 1) := by positivity
    rw [Nat.min_eq_min, Nat.min_eq_right hk]
    obtain hs | hs := lt_or_ge a.toInt 0
    · rw [Int.ediv_eq_neg_one_of_neg_of_le hs (by omega), Int.ediv_eq_neg_one_of_neg_of_le hs (by omega)]
    · rw [Int.ediv_eq_zero_of_lt hs (by omega), Int.ediv_eq_zero_of_lt hs (by omega)]

theorem result_sar (hw : 0 < w) : AluOp.sar.result false w a.toNat b.toNat k = (a.sshiftRight k).toNat := by
  have hshift : (a.sshiftRight k).toInt = a.toInt / 2 ^ k := by
    rw [BitVec.toInt_sshiftRight, Int.shiftRight_eq_div_pow, Nat.cast_pow, Nat.cast_ofNat]
  rw [result_unsaturated, AluOp.exact, sx_toNat hw, toInt_div_two_pow_min, ← hshift]
  exact lowBits_toInt _

/-- The bits rotated out at the top come in below those shifted up, which leave them room. -/
theorem result_rotl (hw : 0 < w) : AluOp.rotl.result false w a.toNat b.toNat k = (a.rotateLeft k).toNat := by
  have hm : k % w < w := Nat.mod_lt k hw
  have hpow : 2 ^ w = 2 ^ (w - k % w) * 2 ^ (k % w) := by rw [← Nat.pow_add, Nat.sub_add_cancel hm.le]
  have hin : a.toNat / 2 ^ (w - k % w) < 2 ^ (k % w) := Nat.div_lt_of_lt_mul (hpow ▸ a.isLt)
  have hup : a.toNat * 2 ^ (k % w) % 2 ^ w = (a.toNat % 2 ^ (w - k % w)) <<< (k % w) := by
    rw [Nat.shiftLeft_eq, hpow, Nat.mul_mod_mul_right]
  have hor : (a.rotateLeft k).toNat = a.toNat * 2 ^ (k % w) % 2 ^ w + a.toNat / 2 ^ (w - k % w) := by
    rw [BitVec.toNat_rotateLeft, Nat.shiftLeft_eq, Nat.shiftRight_eq_div_pow, hup, Nat.shiftLeft_add_eq_or_of_lt hin]
  have hlt := hor ▸ (a.rotateLeft k).isLt
  rw [hor]
  refine (lowBits_natCast w _).trans ?_
  rw [← Nat.mod_add_mod, Nat.mod_eq_of_lt hlt]

theorem result_neg (hw : 0 < w) : AluOp.neg.result false w a.toNat b.toNat k = (-a).toNat := by
  rw [result_unsaturated, AluOp.exact, sx_toNat hw]
  exact lowBits_of_bmod BitVec.toInt_neg

theorem result_abs (hw : 0 < w) : AluOp.abs.result false w a.toNat b.toNat k = a.abs.toNat := by
  rw [result_unsaturated, AluOp.exact, sx_toNat hw, BitVec.abs_eq]
  cases hs : a.msb
  · have hn : (a.toInt.natAbs : Int) = a.toInt := Int.natAbs_of_nonneg (BitVec.toInt_nonneg_of_msb_false hs)
    rw [hn]
    exact lowBits_toInt a
  · have hn : (a.toInt.natAbs : Int) = -a.toInt := Int.ofNat_natAbs_of_nonpos (BitVec.toInt_neg_of_msb_true hs).le
    rw [hn]
    exact lowBits_of_bmod BitVec.toInt_neg

theorem result_min (hw : 0 < w) : AluOp.min.result false w a.toNat b.toNat k = (if a.slt b then a else b).toNat := by
  rw [result_unsaturated, AluOp.exact, sx_toNat hw, sx_toNat hw]
  split
  case isTrue h => rw [min_eq_left (BitVec.slt_iff_toInt_lt.1 h).le]; exact lowBits_toInt a
  case isFalse h => rw [min_eq_right (not_lt.1 (BitVec.slt_iff_toInt_lt.not.1 h))]; exact lowBits_toInt b

theorem result_max (hw : 0 < w) : AluOp.max.result false w a.toNat b.toNat k = (if a.slt b then b else a).toNat := by
  rw [result_unsaturated, AluOp.exact, sx_toNat hw, sx_toNat hw]
  split
  case isTrue h => rw [max_eq_right (BitVec.slt_iff_toInt_lt.1 h).le]; exact lowBits_toInt b
  case isFalse h => rw [max_eq_left (not_lt.1 (BitVec.slt_iff_toInt_lt.not.1 h))]; exact lowBits_toInt a

theorem result_minu : AluOp.minu.result false w a.toNat b.toNat k = min a.toNat b.toNat :=
  (lowBits_natCast w _).trans (Nat.mod_eq_of_lt ((min_le_left _ _).trans_lt a.isLt))

theorem result_maxu : AluOp.maxu.result false w a.toNat b.toNat k = max a.toNat b.toNat :=
  (lowBits_natCast w _).trans (Nat.mod_eq_of_lt (max_lt a.isLt b.isLt))

end

/-- Bit vectors are equal when their numbers are. -/
theorem beq_toNat {w : Nat} (a b : BitVec w) : (a.toNat == b.toNat) = (a == b) := by
  rw [Bool.eq_iff_iff, beq_iff_eq, beq_iff_eq, BitVec.toNat_inj]

/-! ### Saturation -/

/-- A number in the signed range of the width is read back from its low bits. -/
theorem sx_lowBits {w : Nat} (hw : 0 < w) {x : Int} (hlo : -(2 ^ (w - 1)) ≤ x) (hhi : x ≤ 2 ^ (w - 1) - 1) : sx w (lowBits w x) = x := by
  have hpow : (2 : Nat) ^ w = 2 * 2 ^ (w - 1) := by rw [← Nat.pow_succ', Nat.succ_eq_add_one, Nat.sub_add_cancel hw]
  rw [lowBits_ofInt, sx_toNat hw, BitVec.toInt_ofInt]
  apply Int.bmod_eq_of_le
  all_goals
    rw [hpow]
    push_cast
    omega

/-- Under S the result of an operation that saturates is the exact one clamped (R84). -/
theorem sx_result_saturated {op : AluOp} {w : Nat} (hw : 0 < w) (hs : op.saturates = true) (a b k : Nat) :
    sx w (op.result true w a b k) = satInt w (op.exact w a b k) := by
  have hpos : (0 : Int) < 2 ^ (w - 1) := by positivity
  have hresult : op.result true w a b k = lowBits w (satInt w (op.exact w a b k)) := by
    unfold AluOp.result
    rw [hs]
    rfl
  rw [hresult, sx_lowBits hw]
  all_goals
    unfold satInt clampInt
    omega

end Sys2Proof.Machine
end

section
/-! SUPPORT. Transfers, and repeat bodies (R101 to R103, R322). -/

namespace Sys2Proof.Machine

/-- A target in a register below 0x40_0000 (R101). -/
theorem jumpTo_ok {t : Word} {s : State} (h : t.toNat < 0x400000) : jumpTo t s = .jump s t := if_neg (by omega)

/-- A target in a register at or above 0x40_0000 (R101). -/
theorem jumpTo_trap {t : Word} {s : State} (h : 0x400000 ≤ t.toNat) : jumpTo t s = .trap (0x05, t) := if_pos h

/-- CALL of an immediate target, or of one in a register below 0x40_0000. -/
theorem callEffect_ok {f : Fields} {u : State} (h : (∀ n, f.opA ≠ .reg n) ∨ (u.target f.opA).toNat < 0x400000) :
    callEffect f u = .jump (u.put 1 (.s 62 (u.ctx.pc + 12))) (u.target f.opA) := by
  unfold callEffect
  split
  case h_1 n ha =>
    obtain h | h := h
    · exact absurd ha (h n)
    · exact if_neg (by omega)
  case h_2 => rfl

/-- CALL of a target in a register at or above 0x40_0000. -/
theorem callEffect_trap {f : Fields} {u : State} {n : BitVec 7} (ha : f.opA = .reg n) (h : 0x400000 ≤ (u.val f.opA).toNat) :
    callEffect f u = .trap (0x05, u.val f.opA) := by
  have ht : u.target f.opA = u.val f.opA := by rw [ha]; rfl
  unfold callEffect
  rw [ht, ha]
  rw [ha] at h
  exact if_pos h

/-- LOOP whose decremented count is 0 falls through, and any other transfers (R102). -/
theorem loopEffect_cases (f : Fields) (u : State) :
    let w := selWidth f.sel
    let d := ((u.val f.opD).toNat % 2 ^ w + (2 ^ w - 1)) % 2 ^ w
    let v := u.setS (some 1) f.opD (BitVec.ofNat 64 d)
    (d = 0 → loopEffect f u = .ok v) ∧ (d ≠ 0 → loopEffect f u = .jump v (u.target f.opA)) := by
  intro w d v
  exact ⟨fun h => if_pos h, fun h => if_neg h⟩

/-- REP on a core that follows no other repeats the body that it has fetched (R103). -/
theorem repEffect_own {f : Fields} {u : State} {ws : List IWord} (hf : u.follows = false)
    (hw : u.repWords (u.val f.opB).toNat (u.ctx.pc + 12) = .ok ws) :
    repEffect f u = repeats (u.val f.opB).toNat ((u.val f.opA).extractLsb' 0 32) ws u := by
  unfold repEffect
  dsimp only
  rw [hf, if_neg Bool.false_ne_true, hw]

/-- REP on a follower repeats the words of its own store as often as its leader does (R322, log entry 20). -/
theorem repEffect_follower {f : Fields} {u : State} (hf : u.follows = true) :
    repEffect f u = repeats (u.val f.opB).toNat (Config.forwardedCount u.tick)
      (u.own.bodyWords (u.val f.opB).toNat (u.ctx.pc + 12).toNat) u := if_pos hf

/-- A ready instruction that repeats a body skips it with a count of 0 and else enters it (R103, log entry 26). -/
theorem issue_repeats {i : Instr} {f : Fields} {s : State} {eff : State → Eff} {n : Nat} {count : BitVec 32} {ws : List IWord}
    (h : s.ready i f = true) (he : eff (s.atIssue i f) = repeats n count ws (s.atIssue i f)) :
    let u := s.atIssue i f
    let body := u.ctx.pc + 12
    (count = 0 → issue i f eff s = .next (s.afterJump i f (body + 12 * BitVec.ofNat 64 ws.length) u)) ∧
    (count ≠ 0 → issue i f eff s = .next
      ((State.refetch i { u with ctx := { u.ctx with rep := some ⟨body.extractLsb' 0 22, 0, count, n, ws⟩ } }).retire f
        (u.ctx.pc + u.len) .enter)) := by
  intro u body
  exact ⟨fun hc => issue_jump h (he.trans (if_pos (by simp [hc]))), fun hc => issue_enter h (he.trans (if_neg (by simpa using hc)))⟩

/-- A station that keeps no entry changes nothing. -/
theorem keep_nil (s : State) : s.keep [] = s := rfl

/-- PREF changes nothing but what its station keeps (R100). -/
theorem prefEffect_keeps (f : Fields) (u : State) : ∃ ks, prefEffect f u = .ok (u.keep ks) := by
  unfold prefEffect
  split
  · exact ⟨_, rfl⟩
  · exact ⟨[], by rw [keep_nil]⟩

end Sys2Proof.Machine
end

section
/-! SUPPORT. Register files: reading an entry after writing one. -/

namespace Sys2Proof.Machine

/-- A register file read where it was written. -/
theorem vget_vset_same {α : Type} {n i : Nat} (h : i < n) (v : Vector α n) (x d : α) : vget (vset v i x) i d = x := by
  simp [vget, vset, h]

/-- A register file read elsewhere. -/
theorem vget_vset_ne {α : Type} {n i j : Nat} (h : i ≠ j) (v : Vector α n) (x d : α) : vget (vset v i x) j d = vget v j d := by
  unfold vset
  split
  · unfold vget
    split
    · rw [Vector.getElem_set_ne _ _ h]
    · rfl
  · rfl

end Sys2Proof.Machine
end

section
/-! SUPPORT. Local loads and stores of other places than the event unit: what a load reads, the places that a store may write, and what
it leaves (R37, R98, R133, R312, R313). -/

namespace Sys2Proof.Machine

/-! ### Loads -/

/-- A local load of any place but the event unit, once what reads before it has been performed; a shadow's own load of scratchpad is
its primary's (R312). -/
theorem ldlEffect_ok {f : Fields} {u : State} {pl : LPlace} (hw : u.waitServed = false)
    (ha : u.localAccess (u.val f.opA + u.val f.opB) (selBytes f.sel) false = .ok pl) (he : pl ≠ .event)
    (hs : pl ≠ .spad ∨ u.caughtUp.isShadow = false) :
    ldlEffect f u = .ok (u.caughtUp.setS (loadLatency pl) f.opD
      (BitVec.ofNat 64 (u.caughtUp.lread pl (u.val f.opA + u.val f.opB).toNat (selBytes f.sel)))) := by
  unfold ldlEffect
  dsimp only
  rw [onServed_ask _ _ hw, ha]
  dsimp only
  rw [if_neg he]
  unfold ldlPlace
  dsimp only
  split
  case isTrue hp => exact reading_own (hs.resolve_left (not_not_intro (eq_of_beq hp)))
  case isFalse => rfl

/-! ### Stores -/

/-- Signing an access changes the signature of the member and nothing else (R313). -/
theorem sign_leaves (a n data : Nat) (s : State) : ∃ red, s.sign a n data = { s with core := { s.core with red } } := by
  unfold State.sign
  split
  · exact ⟨s.core.red, rfl⟩
  · exact ⟨_, rfl⟩

/-- Signing an access leaves a copy what it is (R312, R313). -/
theorem sign_isShadow (a n data : Nat) (s : State) : (s.sign a n data).isShadow = s.isShadow := by
  unfold State.sign
  split
  case h_1 => rfl
  case h_2 r hr => simp only [State.isShadow, hr]

/-- The mailbox window and the readiness map take no store (R37, R196). -/
theorem lmemCheck_write_place {u : State} {ea : Word} {n : Nat} {pl : LPlace} (h : u.lmemCheck ea n true = .ok pl)
    (he : pl ≠ .event) : pl = .store ∨ pl = .spad := by
  unfold State.lmemCheck at h
  split at h
  · cases h
  split at h
  · cases h
  split at h
  · cases h
  split at h
  · cases h
  next hready =>
    split at h
    · cases h
    next hmail =>
      rw [if_neg (by simp)] at h
      cases h
      cases pl with
      | store => exact .inl rfl
      | spad => exact .inr rfl
      | event => exact absurd rfl he
      | mail => exact absurd rfl hmail
      | ready => exact absurd (by simp) hready

/-- A store that passes its checks is one to local store, to scratchpad or to the event unit (R37, R98). -/
theorem localAccess_write_place {u : State} {ea : Word} {n : Nat} {pl : LPlace} (h : u.localAccess ea n true = .ok pl)
    (he : pl ≠ .event) : pl = .store ∨ pl = .spad := by
  unfold State.localAccess at h
  split at h
  · cases h
  split at h
  · cases h
  next hcheck =>
    split at h
    · cases h
    · cases h
      exact lmemCheck_write_place hcheck he

/-- A store into the core's own local store, which what copy jobs hold of its bytes follows (R17, R191). -/
theorem dataWrite_store (a n x : Nat) (s : State) :
    ∃ jobs, s.dataWrite .store a n x = State.storeWrite s.core.idx a n x { s with cl := { s.cl with jobs } } :=
  ⟨(s.patchJobs a n x).cl.jobs, congrArg (State.storeWrite s.core.idx a n x) (patchJobs_eq a n x s)⟩

/-- A store into scratchpad of a context that is no shadow, which its signature follows (R313). -/
theorem dataWrite_spad {s : State} (h : s.isShadow = false) (a n x : Nat) :
    ∃ red, s.dataWrite .spad a n x = State.spadWrite a n x { s with core := { s.core with red } } := by
  obtain ⟨red, hr⟩ := sign_leaves a n x s
  have hs : (s.sign a n x).isShadow = false := (sign_isShadow a n x s).trans h
  refine ⟨red, ?_⟩
  rw [← hr]
  exact if_neg (ne_true_of_eq_false hs)

/-- A shadow's store into scratchpad is not performed (R312). -/
theorem dataWrite_spad_shadow {s : State} (h : s.isShadow = true) (a n x : Nat) :
    ∃ red, s.dataWrite .spad a n x = { s with core := { s.core with red } } := by
  obtain ⟨red, hr⟩ := sign_leaves a n x s
  have hs : (s.sign a n x).isShadow = true := (sign_isShadow a n x s).trans h
  exact ⟨red, hr ▸ if_pos hs⟩

/-- What a store of the core leaves: every byte outside it, global memory, the registers and the event unit. -/
theorem dataWrite_leaves {pl : LPlace} (hp : pl = .store ∨ pl = .spad) (a n x : Nat) (s : State) :
    let w := s.dataWrite pl a n x
    (s.memoriesWf = true → ∀ c y, (pl ≠ .store ∨ c ≠ s.core.idx ∨ y < a ∨ a + n ≤ y) →
      (vget w.cl.stores c []).read y = (vget s.cl.stores c []).read y) ∧
    (s.memoriesWf = true → ∀ y, (pl ≠ .spad ∨ y < a ∨ a + n ≤ y) → w.cl.spad.read y = s.cl.spad.read y) ∧
    w.pkg = s.pkg ∧ w.ctx.regs = s.ctx.regs ∧ w.ctx.fmode = s.ctx.fmode ∧ w.cl.bars = s.cl.bars ∧ w.cl.mutexes = s.cl.mutexes ∧
    w.cl.events = s.cl.events ∧ w.cl.bstore = s.cl.bstore := by
  intro w
  obtain rfl | rfl := hp
  · obtain ⟨jobs, hw⟩ : ∃ jobs, w = _ := dataWrite_store a n x s
    rw [hw]
    refine ⟨fun hm c y hout => ?_, fun _ y _ => rfl, rfl, rfl, rfl, rfl, rfl, rfl, rfl⟩
    show (vget (vset s.cl.stores s.core.idx (s.own.store a n x)) c []).read y = _
    by_cases hc : s.core.idx = c
    · subst hc
      have hy : y < a ∨ a + n ≤ y := (hout.resolve_left (not_not_intro rfl)).resolve_left (not_not_intro rfl)
      by_cases hi : s.core.idx < 8
      · rw [vget_vset_same hi]
        exact Memory.store_read (own_wf hm) a n x y hy
      · simp [vget, hi]
    · rw [vget_vset_ne hc]
  · cases hs : s.isShadow
    · obtain ⟨red, hw⟩ : ∃ red, w = _ := dataWrite_spad hs a n x
      rw [hw]
      refine ⟨fun _ c y _ => rfl, fun hm y hout => ?_, rfl, rfl, rfl, rfl, rfl, rfl, rfl⟩
      obtain ⟨-, -, -, -, -, -, hspad, -⟩ := memoriesWf_iff.1 hm
      exact Memory.store_read hspad a n x y (hout.resolve_left (not_not_intro rfl))
    · obtain ⟨red, hw⟩ : ∃ red, w = _ := dataWrite_spad_shadow hs a n x
      rw [hw]
      exact ⟨fun _ c y _ => rfl, fun _ y _ => rfl, rfl, rfl, rfl, rfl, rfl, rfl, rfl⟩

/-- What a store of the core writes reads back. -/
theorem dataWrite_readsBack {pl : LPlace} (hp : pl = .store ∨ pl = .spad) {s : State} (hs : s.isShadow = false) (hm : s.memoriesWf = true)
    (hi : s.core.idx < 8) (a n x : Nat) :
    let w := s.dataWrite pl a n x
    (if pl = .store then w.own else w.cl.spad).load a n = x % 256 ^ n := by
  intro w
  obtain rfl | rfl := hp
  · obtain ⟨jobs, hw⟩ : ∃ jobs, w = _ := dataWrite_store a n x s
    rw [if_pos rfl, hw]
    show (vget (vset s.cl.stores s.core.idx (s.own.store a n x)) s.core.idx []).load a n = _
    rw [vget_vset_same hi]
    exact Memory.load_store (own_wf hm) a n x
  · obtain ⟨red, hw⟩ : ∃ red, w = _ := dataWrite_spad hs a n x
    obtain ⟨-, -, -, -, -, -, hspad, -⟩ := memoriesWf_iff.1 hm
    rw [if_neg (by decide), hw]
    exact Memory.load_store hspad a n x

/-- STL of any place but the event unit writes once what stands before it is performed, where no command has still to read (R149). -/
theorem stlEffect_ok {f : Fields} {u : State} {pl : LPlace}
    (ha : u.localAccess (u.val f.opA + u.val f.opB) (selBytes f.sel) true = .ok pl) (he : pl ≠ .event)
    (hh : u.caughtUp.storeHeld pl (u.val f.opA + u.val f.opB).toNat (selBytes f.sel) = false) :
    stlEffect f u = .ok (u.caughtUp.dataWrite pl (u.val f.opA + u.val f.opB).toNat (selBytes f.sel)
      ((u.val f.opD).toNat % 2 ^ (8 * selBytes f.sel))) := by
  unfold stlEffect
  dsimp only
  rw [ha]
  dsimp only
  rw [if_neg he]
  exact if_neg (ne_true_of_eq_false hh)

end Sys2Proof.Machine
end

section
/-! SUPPORT. System registers: MFS and MTS with their traps, what a write reads back, and what it leaves (R106, R409, R410). -/

namespace Sys2Proof.Machine

/-- MFS of a register that need not wait for flags (R82, R216). -/
theorem mfsEffect_ok {f : Fields} {u₀ : State} :
    let n := (u₀.val f.opA).toNat
    let u := if n = 0x13 then u₀.caughtUp else u₀
    (n ≠ 3 ∨ u.flagsDue = false) → mfsEffect f u₀ = .ok (u.setS (some 1) f.opD (u.sysRead n)) := by
  intro n u h
  refine if_neg ?_
  simp only [Bool.and_eq_true, decide_eq_true_eq]
  rintro ⟨hn, hd⟩
  obtain h | h := h
  · exact h hn
  · exact Bool.noConfusion (hd.symm.trans h)

/-- The four rows of MTS issue with one effect. -/
theorem exec_mtsRow {mk : Fields → Instr} (hm : mk ∈ [Instr.mts, Instr.mtsRetired, Instr.mtsCycle, Instr.sensinjWrite]) (f : Fields)
    (s : State) : exec (mk f) s = issue (mk f) f (mtsEffect f) s := by
  simp only [List.mem_cons, List.not_mem_nil, or_false] at hm
  obtain rfl | rfl | rfl | rfl := hm
  · exact exec_mts f s
  · exact exec_mtsRetired f s
  · exact exec_mtsCycle f s
  · exact exec_sensinjWrite f s

/-- A system register that step 3 of R106 denies to MTS: one that identifies the core, or in user mode one that user code may not
write. -/
def State.deniesMts (u : State) (n : Nat) : Prop := (6 ≤ n ∧ n ≤ 9) ∨ (userReadOnly n = true ∧ u.core.k = false)

/-- The four outcomes of MTS in the order of its checks (R106). -/
theorem mtsEffect_cases (f : Fields) (u : State) :
    let n := (u.val f.opD).toNat
    let x := u.val f.opA
    (u.deniesMts n → mtsEffect f u = .trap (0x04, (BitVec.ofNat 64 n <<< 20) ||| 0x331)) ∧
    (¬u.deniesMts n → kernelReadOnly n u.core.control = true → mtsEffect f u = .trap (0x02, encodingVal 3 0x331)) ∧
    (¬u.deniesMts n → kernelReadOnly n u.core.control = false → sysValueOk n x = false →
      mtsEffect f u = .trap (0x02, encodingVal 4 0x331)) ∧
    (¬u.deniesMts n → kernelReadOnly n u.core.control = false → sysValueOk n x = true → mtsEffect f u = .ok (u.sysWrite n x)) := by
  intro n x
  have hiff : ((decide (6 ≤ n) && decide (n ≤ 9)) || (userReadOnly n && !u.core.k)) = true ↔ u.deniesMts n := by
    simp [State.deniesMts]
  unfold mtsEffect
  dsimp only
  refine ⟨fun h => if_pos (hiff.2 h), fun h hk => ?_, fun h hk hv => ?_, fun h hk hv => ?_⟩
  all_goals rw [if_neg (hiff.not.2 h)]
  · exact if_pos hk
  · rw [if_neg (ne_true_of_eq_false hk)]; exact if_pos (by rw [hv]; rfl)
  · rw [if_neg (ne_true_of_eq_false hk)]; exact if_neg (by rw [hv]; exact Bool.false_ne_true)

/-- DBGCTL changes requests of the core, and none of its context's registers (R388). -/
theorem haltRequest_ctx (on : Bool) (s : State) : (s.haltRequest on).ctx = s.ctx := by
  unfold State.haltRequest
  dsimp only
  split <;> rfl

/-- A write of a system register leaves the others that kernel privilege writes whole, and the watchdog (R106). -/
theorem sysWrite_leaves {n : Nat} (hn : n ≠ 0x10C) (x : Word) (s : State) :
    let y := s.ctx.sys
    let y' := (s.sysWrite n x).ctx.sys
    let t := s.ctx.trap
    let t' := (s.sysWrite n x).ctx.trap
    (0x00D ≠ n → y'.kseed0 = y.kseed0) ∧ (0x00E ≠ n → y'.ktc = y.ktc) ∧ (0x00F ≠ n → y'.kvlim = y.kvlim) ∧
      (0x010 ≠ n → y'.kvfloor = y.kvfloor) ∧ (0x011 ≠ n → y'.kzth = y.kzth) ∧ (0x018 ≠ n → y'.kwgt = y.kwgt) ∧
      (0x103 ≠ n → t'.c = t.c) ∧ (0x105 ≠ n → t'.val = t.val) ∧ (0x107 ≠ n → y'.xlroot = y.xlroot) ∧
      (0x10B ≠ n → y'.wdog = y.wdog) := by
  dsimp only
  unfold State.sysWrite
  split
  case h_22 => simp only [haltRequest_ctx, implies_true, and_self]
  case h_25 => exact absurd rfl hn
  all_goals simp [State.setSys, State.setTrap, State.setCycle]

/-- A register that kernel privilege writes whole, or the watchdog, reads as before once another has been written (R106). -/
theorem sysRead_sysWrite_ne {n m : Nat} (hm : m ∈ [0x00D, 0x00E, 0x00F, 0x010, 0x011, 0x018, 0x103, 0x105, 0x107, 0x10B]) (hne : m ≠ n)
    (hn : n ≠ 0x10C) (x : Word) (s : State) : (s.sysWrite n x).sysRead m = s.sysRead m := by
  obtain ⟨hseed, htc, hvlim, hfloor, hzth, hwgt, hc, hval, hroot, hwdog⟩ := sysWrite_leaves hn x s
  simp only [List.mem_cons, List.not_mem_nil, or_false] at hm
  obtain rfl | rfl | rfl | rfl | rfl | rfl | rfl | rfl | rfl | rfl := hm
  · exact hseed hne
  · exact htc hne
  · exact hvlim hne
  · exact hfloor hne
  · exact hzth hne
  · exact hwgt hne
  · exact hc hne
  · exact hval hne
  · exact hroot hne
  · exact congrArg Wdog.word (hwdog hne)

/-- A register that holds every bit written reads back what was written (R106). -/
theorem sysRead_sysWrite_same {n : Nat} (hn : n ∈ [0x003, 0x00D, 0x00E, 0x00F, 0x010, 0x011, 0x018, 0x103, 0x105, 0x107]) (x : Word)
    (s : State) : (s.sysWrite n x).sysRead n = x := by
  simp only [List.mem_cons, List.not_mem_nil, or_false] at hn
  obtain rfl | rfl | rfl | rfl | rfl | rfl | rfl | rfl | rfl | rfl := hn
  all_goals rfl

/-- A word below 2^k is its `k` low bits, zero-extended. -/
theorem zeroExtend_extractLsb' {k : Nat} {x : Word} (h : x.toNat < 2 ^ k) : (x.extractLsb' 0 k).zeroExtend 64 = x := by
  apply BitVec.eq_of_toNat_eq
  simp [Nat.mod_eq_of_lt h, Nat.mod_eq_of_lt x.isLt]

/-- A register of fewer than 64 bits reads back a value that its description permits (R106). -/
theorem sysRead_sysWrite_checked {n : Nat} (hn : n ∈ [0x101, 0x104, 0x106]) {x : Word} (hx : sysValueOk n x = true) (s : State) :
    (s.sysWrite n x).sysRead n = x := by
  simp only [List.mem_cons, List.not_mem_nil, or_false] at hn
  obtain rfl | rfl | rfl := hn
  · exact zeroExtend_extractLsb' (of_decide_eq_true hx)
  · simp only [sysValueOk, Bool.and_eq_true, decide_eq_true_eq] at hx
    exact zeroExtend_extractLsb' hx.1
  · simp only [sysValueOk, Bool.and_eq_true, decide_eq_true_eq] at hx
    exact zeroExtend_extractLsb' hx.1.1

/-- A write of RETIRED counts the MTS itself (R410). -/
theorem sysWrite_retired_retire (x : Word) (s : State) (f : Fields) (pc : Word) (flow : Flow) :
    ((s.sysWrite 2 x).retire f pc flow).ctx.retired = x := by
  rw [retire_ctx]
  exact BitVec.sub_add_cancel x 1

end Sys2Proof.Machine
end

section
/-! SUPPORT. Tasks: the record of a POST, and the ends of a member (R104, R304 to R306, R310, R313). -/
namespace Sys2Proof.Machine

/-- What POST sends of a record and counts does not depend on its wait and its signature. -/
theorem sendRecord_signed {s : State} {a n data : Nat} (id : Word) (core : Nat) (w : BitVec 256) :
    let p := s.cl.part
    let target := if recHere w then p.pidx.toNat else p.target (recData w)
    let l := (s.launchHere.map (·.number)).getD 0
    let n' := ((s.cl.tasks.find? (·.id == id)).map (·.posts)).getD 0
    let r : Record := ⟨w, id.extractLsb' 0 32, n', l, some (s.core.cyc, core)⟩
    let counted := fun (v : State) => (v.mapTask id fun t => { t with posts := t.posts + 1 }).mapLaunch l fun x => { x with
      outstanding := x.outstanding + 1 }
    let v := s.endWait.sign a n data
    (∀ t, target = p.pidx.toNat → v.enqueueRecord r = some t → v.sendRecord id core w = some (counted t)) ∧
      (target ≠ p.pidx.toNat → s.cl.outRecs.length < 256 →
        v.sendRecord id core w = some (counted { v with cl := { v.cl with outRecs := v.cl.outRecs ++ [(target, r)] } })) := by
  intro p target l n' r counted v
  obtain ⟨red, hv⟩ := sign_leaves a n data s.endWait
  have hv : v = { s.endWait with core := { s.endWait.core with red } } := hv
  clear_value v
  subst hv
  refine ⟨fun t ht he => ?_, fun ht hroom => ?_⟩
  · refine (if_pos ht).trans ?_
    exact congrArg (Option.map counted) he
  · refine (if_neg ht).trans (if_neg ?_)
    exact Nat.not_le.mpr hroom

/-- POST of a valid image by a member that is no shadow is what sending its record is (R304 to R306). -/
theorem postEffect_sends {f : Fields} {s₁ u t : State} {a : Word} {img : Nat} (hu : s₁.published = u) (ha : s₁.val f.opA = a)
    (hmember : s₁.cl.part.member = true) (himg : u.imageAt a 32 = .ok img) (hok : recordOk (BitVec.ofNat 256 img) = true)
    (hown : u.isShadow = false)
    (hsend : (u.endWait.sign a.toNat 32 img).sendRecord u.taskKey u.core.idx (BitVec.ofNat 256 img) = some t) :
    postEffect f s₁ = .ok t := by
  unfold postEffect partitioned
  rw [if_pos hmember, hu, ha]
  dsimp only
  rw [himg]
  dsimp only
  rw [if_neg (by rw [hok]; exact Bool.false_ne_true), if_neg (by rw [hown]; exact Bool.false_ne_true), hsend]

/-- TEXIT with everything drained retires in `m`, and ends a member without a twin; one with a twin is compared (R310, R313). -/
theorem texitEffect_ends {f : Fields} {u e : State} {m : State × Option Word} (hm : u.landAll.drainStreams.drain = m)
    (he : m.1.retire f u.ctx.pc .seq = e) (hbad : m.2 = none) (hkq : m.1.core.kq = []) (hclaims : m.1.claimsOpen = false) :
    (e.core.red = none → texitEffect f u = .stay (e.memberEnds (u.val f.opA).toNat)) ∧
      (∀ x, e.core.red = some x →
        let sig := crcBytes (crcBytes x.sig 8 e.taskKey.toNat) 8 (u.val f.opA).toNat ^^^ BitVec.allOnes 64
        texitEffect f u = .stay (State.compareTwin e.taskKey e.ctx.address (u.val f.opA).toNat sig
          { e with core := { e.core with run := .ended (u.val f.opA).toNat, red := some { x with sig } } })) := by
  have hdrained : (!m.1.core.kq.isEmpty || m.1.claimsOpen) = false := by rw [hkq, hclaims]; rfl
  unfold texitEffect
  dsimp only
  rw [hm, hbad]
  dsimp only
  rw [hdrained, if_neg Bool.false_ne_true, he]
  refine ⟨fun hr => ?_, fun x hr => ?_⟩
  all_goals rw [hr]

/-- STOP with nothing uncorrectable outstanding retires in `e`, and leaves the context stopped with its code (R104). -/
theorem stopEffect_stops {f : Fields} {u e : State} (he : (u.settle.1.retire f u.ctx.pc .seq).endTx = e) (hbad : u.settle.2 = none) :
    stopEffect f u = .stay (State.taskStopped 4
      { e with
        core := { e.core with run := .stopped (match f.opA with | .imm v => v.toNat | _ => 0) }
        pkg := { e.pkg with reports := e.ctx.pc :: e.pkg.reports } }) := by
  unfold stopEffect
  dsimp only
  rw [hbad, he] <;> rfl

end Sys2Proof.Machine
end

section
/-! SUPPORT. Registers but one: what landing a result leaves of the registers that it does not name, in whatever order results land
(R20, R80, R82). -/

namespace Sys2Proof.Machine

/-! ### One result -/

/-- A scalar register after a result depends on that register before alone. -/
theorem scalar_write_congr {r r' : Regs} {n : BitVec 7} (h : r.scalar n = r'.scalar n) (w : RegWrite) :
    (r.write w).scalar n = (r'.write w).scalar n := by
  cases w with
  | s k x =>
    unfold Regs.scalar at h ⊢
    dsimp only [Regs.write]
    split
    case isTrue hn =>
      rw [if_pos hn, if_pos hn] at h
      by_cases hk : k = n.toNat
      · subst hk
        rw [vget_vset_same hn, vget_vset_same hn]
      · rw [vget_vset_ne hk, vget_vset_ne hk, h]
    case isFalse hn => rwa [if_neg hn, if_neg hn] at h
  | m k mask x =>
    unfold Regs.scalar at h ⊢
    dsimp only [Regs.write]
    split
    case isTrue hn => rwa [if_pos hn, if_pos hn] at h
    case isFalse hn =>
      rw [if_neg hn, if_neg hn] at h
      split
      case isTrue hm =>
        rw [if_pos hm, if_pos hm] at h
        by_cases hk : k = n.toNat - 104
        · subst hk
          have hlt : n.toNat - 104 < 8 := by simp at hm; omega
          rw [vget_vset_same hlt, vget_vset_same hlt, h]
        · rw [vget_vset_ne hk, vget_vset_ne hk, h]
      case isFalse => rfl
  | p k b =>
    dsimp only [Regs.write]
    split <;> exact h
  | v | flags => exact h

/-- A predicate after a result depends on that predicate before alone. -/
theorem pred_write_congr {r r' : Regs} {n : Nat} (h : r.pred n = r'.pred n) (w : RegWrite) :
    (r.write w).pred n = (r'.write w).pred n := by
  cases w with
  | p k b =>
    dsimp only [Regs.write]
    split
    case isTrue => exact h
    case isFalse hk7 =>
      unfold Regs.pred at h ⊢
      split
      case isTrue => rfl
      case isFalse hn =>
        rw [if_neg hn, if_neg hn] at h
        by_cases hk : k = n
        · subst hk
          by_cases hlt : k < 8
          · rw [vget_vset_same hlt, vget_vset_same hlt]
          · simp [vget, hlt]
        · rw [vget_vset_ne hk, vget_vset_ne hk, h]
  | s | v | m | flags => exact h

/-- The vector registers after a result depend on those before alone. -/
theorem v_write_congr {r r' : Regs} (h : r.v = r'.v) (w : RegWrite) : (r.write w).v = (r'.write w).v := by
  cases w with
  | v k mask x =>
    dsimp only [Regs.write]
    rw [h]
  | p k b =>
    dsimp only [Regs.write]
    split <;> exact h
  | s | m | flags => exact h

/-- Flags reach bits 12:8 of FMODE alone (R66). -/
theorem orFlags_outside (m : Word) (fl : BitVec 5) {i : Nat} (hi : i < 8 ∨ 12 < i) : (orFlags m fl).getLsbD i = m.getLsbD i := by
  have hz : (fl.zeroExtend 64 <<< 8).getLsbD i = false := by
    rw [BitVec.getLsbD_shiftLeft]
    obtain h | h := hi
    · simp [h]
    · simp [show 5 ≤ i - 8 by omega]
  rw [orFlags, BitVec.getLsbD_or, hz, Bool.or_false]

/-! ### Agreement -/

/-- The registers of `c'` are those of `c` but for the scalar register `d` and the flags of FMODE. -/
structure AgreeBut (d : BitVec 7) (c c' : Ctx) : Prop where
  scalar : ∀ n, d ≠ n → c'.regs.scalar n = c.regs.scalar n
  v : c'.regs.v = c.regs.v
  pred : ∀ n, c'.regs.pred n = c.regs.pred n
  fmode : ∀ i : Nat, i < 8 ∨ 12 < i → c'.fmode.getLsbD i = c.fmode.getLsbD i

theorem AgreeBut.refl (d : BitVec 7) (c : Ctx) : AgreeBut d c c := ⟨fun _ _ => rfl, rfl, fun _ => rfl, fun _ _ => rfl⟩

theorem AgreeBut.symm {d : BitVec 7} {c c' : Ctx} (h : AgreeBut d c c') : AgreeBut d c' c :=
  ⟨fun n hn => (h.scalar n hn).symm, h.v.symm, fun n => (h.pred n).symm, fun i hi => (h.fmode i hi).symm⟩

theorem AgreeBut.trans {d : BitVec 7} {c c' c'' : Ctx} (h : AgreeBut d c c') (g : AgreeBut d c' c'') : AgreeBut d c c'' :=
  ⟨fun n hn => (g.scalar n hn).trans (h.scalar n hn), g.v.trans h.v, fun n => (g.pred n).trans (h.pred n),
    fun i hi => (g.fmode i hi).trans (h.fmode i hi)⟩

/-- Contexts with the same registers and FMODE agree. -/
theorem AgreeBut.of_eq {d : BitVec 7} {c c' : Ctx} (hr : c'.regs = c.regs) (hf : c'.fmode = c.fmode) : AgreeBut d c c' :=
  ⟨fun _ _ => by rw [hr], by rw [hr], fun _ => by rw [hr], fun _ _ => by rw [hf]⟩

/-- Contexts that agree still do once one result has landed in both. -/
theorem AgreeBut.land {d : BitVec 7} {c c' : Ctx} (h : AgreeBut d c c') (w : RegWrite) : AgreeBut d (c.land w) (c'.land w) := by
  cases w with
  | flags fl =>
    exact ⟨h.scalar, h.v, h.pred, fun i hi => ((orFlags_outside _ fl hi).trans (h.fmode i hi)).trans (orFlags_outside _ fl hi).symm⟩
  | s | v | m | p =>
    exact ⟨fun n hn => scalar_write_congr (h.scalar n hn) _, v_write_congr h.v _, fun n => pred_write_congr (h.pred n) _, h.fmode⟩

/-- The result writes no register but `d`, and of FMODE no bit but the flags. -/
def RegWrite.Within (d : BitVec 7) (w : RegWrite) : Prop := ∀ c : Ctx, AgreeBut d c (c.land w)

theorem within_flags (d : BitVec 7) (fl : BitVec 5) : (RegWrite.flags fl).Within d := fun c =>
  ⟨fun _ _ => rfl, rfl, fun _ => rfl, fun _ hi => orFlags_outside c.fmode fl hi⟩

/-- A result for one of the registers that a scalar write finds. -/
theorem within_s {d : BitVec 7} {k : Nat} (hd : d.toNat = k) (x : Word) : (RegWrite.s k x).Within d := by
  intro c
  refine ⟨fun n hn => ?_, rfl, fun _ => rfl, fun _ _ => rfl⟩
  have hk : k ≠ n.toNat := fun e => hn (BitVec.eq_of_toNat_eq (hd.trans e))
  simp only [Ctx.land, Regs.write, Regs.scalar, vget_vset_ne hk]

theorem within_m {d : BitVec 7} {k : Nat} (hd : d.toNat = 104 + k) (mask x : Word) : (RegWrite.m k mask x).Within d := by
  intro c
  refine ⟨fun n hn => ?_, rfl, fun _ => rfl, fun _ _ => rfl⟩
  simp only [Ctx.land, Regs.write, Regs.scalar]
  split
  · rfl
  · split
    case isTrue hm =>
      have hk : k ≠ n.toNat - 104 := fun e => hn (BitVec.eq_of_toNat_eq (by simp at hm; omega))
      rw [vget_vset_ne hk]
    case isFalse => rfl

/-- The destinations of scalar writes: s0 to s63, and m0 to m7 (Table 2-5, R79). -/
theorem scalarWrite_some {d : BitVec 7} {x : Word} {w : RegWrite} (h : scalarWrite d x = some w) :
    (d.toNat < 64 ∧ w = .s d.toNat x) ∨ (104 ≤ d.toNat ∧ d.toNat ≤ 111 ∧ w = .m (d.toNat - 104) (BitVec.allOnes 64) x) := by
  unfold scalarWrite at h
  split at h
  case isTrue hs => exact .inl ⟨hs, (Option.some.inj h).symm⟩
  case isFalse =>
    split at h
    case isTrue hm =>
      simp only [Bool.and_eq_true, decide_eq_true_eq] at hm
      exact .inr ⟨hm.1, hm.2, (Option.some.inj h).symm⟩
    case isFalse => cases h

/-- A scalar write writes its destination alone. -/
theorem scalarWrite_within {d : BitVec 7} {x : Word} {w : RegWrite} (h : scalarWrite d x = some w) : w.Within d := by
  obtain ⟨-, rfl⟩ | ⟨hlo, -, rfl⟩ := scalarWrite_some h
  · exact within_s rfl x
  · exact within_m (by omega) _ x

/-- A pending result that hits a scalar destination writes it alone. -/
theorem hits_within {d : BitVec 7} {x : Word} {w w' : RegWrite} (hd : scalarWrite d x = some w) (hh : w'.hits d = true) :
    w'.Within d := by
  have hrange : d.toNat < 64 ∨ (104 ≤ d.toNat ∧ d.toNat ≤ 111) := by
    obtain ⟨hs, -⟩ | ⟨hlo, hhi, -⟩ := scalarWrite_some hd
    · exact .inl hs
    · exact .inr ⟨hlo, hhi⟩
  cases w' with
  | s k y => exact within_s (eq_of_beq hh) y
  | m k mask y => exact within_m (eq_of_beq hh) mask y
  | v k mask y =>
    have hk : d.toNat = 64 + k := eq_of_beq hh
    have hout : ¬k < 32 := by omega
    intro c
    have hv : ∀ z, vset c.regs.v k z = c.regs.v := fun z => dif_neg hout
    exact .of_eq (by simp only [Ctx.land, Regs.write, hv]) rfl
  | p k b =>
    simp only [RegWrite.hits, Bool.and_eq_true, beq_iff_eq] at hh
    omega
  | flags fl => exact within_flags d fl

/-! ### Results in their order -/

/-- The results of a list land one after the other. -/
theorem AgreeBut.foldl {d : BitVec 7} (l : List Pending) {c c' : Ctx} (h : AgreeBut d c c') :
    AgreeBut d (l.foldl (fun x p => x.land p.w) c) (l.foldl (fun x p => x.land p.w) c') := by
  induction l generalizing c c' with
  | nil => exact h
  | cons p l ih => exact ih (h.land p.w)

/-- A result of one register lands somewhere among the others (log entry 61). -/
theorem agree_insertPend {d : BitVec 7} {p : Pending} (hp : p.w.Within d) (l : List Pending) (c : Ctx) :
    AgreeBut d (l.foldl (fun x p => x.land p.w) c) ((insertPend p l).foldl (fun x p => x.land p.w) c) := by
  induction l generalizing c with
  | nil => exact hp c
  | cons q l ih =>
    unfold insertPend
    split
    · exact AgreeBut.foldl (q :: l) (hp c)
    · exact ih (c.land q.w)

/-- Results of one register may land or not. -/
theorem agree_filter {d : BitVec 7} (keep : Pending → Bool) (l : List Pending) (h : ∀ p ∈ l, keep p = false → p.w.Within d) {c c' : Ctx}
    (hc : AgreeBut d c c') :
    AgreeBut d (l.foldl (fun x p => x.land p.w) c) ((l.filter keep).foldl (fun x p => x.land p.w) c') := by
  induction l generalizing c c' with
  | nil => exact hc
  | cons p l ih =>
    have hl : ∀ q ∈ l, keep q = false → q.w.Within d := fun q hq => h q (List.mem_cons_of_mem p hq)
    cases hk : keep p with
    | true =>
      rw [List.filter_cons_of_pos hk]
      exact ih hl (hc.land p.w)
    | false =>
      rw [List.filter_cons_of_neg (ne_true_of_eq_false hk)]
      exact ih hl ((h p List.mem_cons_self hk c).symm.trans hc)

/-- Results of one register land alone, and change no other. -/
theorem agree_foldl_within {d : BitVec 7} (l : List Pending) (h : ∀ p ∈ l, p.w.Within d) (c : Ctx) :
    AgreeBut d c (l.foldl (fun x p => x.land p.w) c) := by
  induction l generalizing c with
  | nil => exact .refl d c
  | cons p l ih => exact (h p List.mem_cons_self c).trans (ih (fun q hq => h q (List.mem_cons_of_mem p hq)) _)

/-! ### Operations -/

/-- Time changes no register as it will stand once all that issued has completed. -/
theorem Timed.agree {s t : State} (h : Timed s t) (d : BitVec 7) : AgreeBut d s.settled t.settled := .of_eq h.regs h.fmode

end Sys2Proof.Machine
end

section
/-! SUPPORT. The frame of a scalar result: what its write, its completion and its retirement leave (R20, R82, R207, R390, R391). -/

namespace Sys2Proof.Machine

/-- Only the scalar register `d`, the flags of FMODE and time differ, and errors of registers may have ended: every other field is as
it was, and so are the other registers once every issued instruction has completed. -/
structure LeavesBut (d : BitVec 7) (s t : State) : Prop where
  ctx : t.ctx = { s.ctx with
    regs := t.ctx.regs, fmode := t.ctx.fmode, sys := { s.ctx.sys with wdog := t.ctx.sys.wdog, stalls := t.ctx.sys.stalls } }
  core : t.core = { s.core with
    cyc := t.core.cyc, frac := t.core.frac, pend := t.core.pend, locked := t.core.locked, badRegs := t.core.badRegs
    badCtx := t.core.badCtx }
  cl : t.cl = { s.cl with
    phase := t.cl.phase, pointers := t.cl.pointers, bankBusy := t.cl.bankBusy, gear := { s.cl.gear with sagLeft := t.cl.gear.sagLeft } }
  pkg : t.pkg = { s.pkg with cycle := t.pkg.cycle }
  agree : AgreeBut d s.settled t.settled

namespace LeavesBut

theorem refl (d : BitVec 7) (s : State) : LeavesBut d s s := ⟨rfl, rfl, rfl, rfl, .refl _ _⟩

theorem trans {d : BitVec 7} {s t u : State} (h : LeavesBut d s t) (g : LeavesBut d t u) : LeavesBut d s u where
  ctx := by rw [g.ctx, h.ctx]
  core := by rw [g.core, h.core]
  cl := by rw [g.cl, h.cl]
  pkg := by rw [g.pkg, h.pkg]
  agree := h.agree.trans g.agree

/-- The passing of time. -/
theorem of_timed {s t : State} (h : Timed s t) (d : BitVec 7) : LeavesBut d s t where
  ctx := h.ctx
  core := by rw [h.core]
  cl := h.cl
  pkg := h.pkg
  agree := h.agree d

/-- A result that lands at once. -/
theorem land {d : BitVec 7} {w : RegWrite} (hw : w.Within d) (s : State) : LeavesBut d s { s with ctx := s.ctx.land w } where
  ctx := by
    dsimp only
    rw [land_ctx]
  core := rfl
  cl := rfl
  pkg := rfl
  agree := AgreeBut.foldl s.core.pend (hw s.ctx)

/-- A result that is issued. -/
theorem put {d : BitVec 7} {w : RegWrite} (hw : w.Within d) (lat : Nat) (s : State) : LeavesBut d s (s.put lat w) := by
  unfold State.put
  split
  · exact (of_timed (timed_landBy _ s) d).trans (land hw _)
  · exact ⟨rfl, rfl, rfl, rfl, agree_insertPend (p := ⟨_, w, _⟩) hw s.core.pend s.ctx⟩

/-- An interlocked result, before which older results for its register land. -/
theorem putLocked {d : BitVec 7} {x : Word} {w : RegWrite} (hd : scalarWrite d x = some w) (s : State) :
    LeavesBut d s (s.putLocked d w) where
  ctx := by
    simp only [State.putLocked, State.landReg]
    rw [land_ctx, foldl_land]
  core := rfl
  cl := rfl
  pkg := rfl
  agree := by
    have hhit : ∀ p ∈ s.core.pend.filter (·.w.hits d), p.w.Within d := fun p hp => hits_within hd (List.mem_filter.1 hp).2
    have hearly : AgreeBut d s.ctx ((s.landReg d).ctx.land w) := (agree_foldl_within _ hhit s.ctx).trans (scalarWrite_within hd _)
    exact agree_filter (fun p => !p.w.hits d) s.core.pend (fun p _ hk => hits_within hd (by simpa using hk)) hearly

/-- A scalar result. -/
theorem setS (lat : Option Nat) (o : Operand) (x : Word) (s : State) : LeavesBut o.num s (s.setS lat o x) := by
  cases lat with
  | some l =>
    unfold State.setS State.putS
    dsimp only
    cases hd : scalarWrite o.num x with
    | none => exact refl _ s
    | some w => exact put (scalarWrite_within hd) l s
  | none =>
    unfold State.setS State.putSLocked
    dsimp only
    cases hd : scalarWrite o.num x with
    | none => exact refl _ s
    | some w => exact putLocked hd s

/-- Flags that are raised. -/
theorem raiseFlags (d : BitVec 7) (lat : Option Nat) (fl : Flags) (s : State) : LeavesBut d s (s.raiseFlags lat fl) := by
  cases lat with
  | some l =>
    unfold State.raiseFlags
    dsimp only
    split
    · exact put (within_flags d fl) l s
    · exact (put (within_flags d fl) l s).trans (of_timed (timed_advance ..) d)
  | none =>
    unfold State.raiseFlags
    dsimp only
    split
    · exact land (within_flags d fl) s
    · exact (land (within_flags d fl) s).trans (of_timed (timed_linger ..) d)

/-- The end of an instruction that is no control transfer. -/
theorem completed {d : BitVec 7} {i : Instr} (hi : i.spec.ct = false) (f : Fields) (s t : State) :
    LeavesBut d t (s.completed i f t) := by
  have hheal : LeavesBut d t (s.heal i f t) := by
    unfold State.heal
    split
    · exact refl d t
    · exact ⟨rfl, rfl, rfl, rfl, .refl _ _⟩
  have hfetch : s.completed i f t = (s.heal i f t).grantBanks (readsColumn i f) (spadLines i f s) := if_neg (ne_true_of_eq_false hi)
  rw [hfetch]
  exact hheal.trans (of_timed (timed_grantBanks ..) d)

end LeavesBut

/-! ### What a B mark writes -/

/-- What the counter and the trace record of a B mark depend on is the same (R390, R391). -/
structure SameMark (s t : State) : Prop where
  pre : t.core.pre = s.core.pre
  idx : t.core.idx = s.core.idx
  trctl : t.core.trctl = s.core.trctl
  trn : t.core.trn = s.core.trn
  pc : t.ctx.pc = s.ctx.pc
  retired : t.ctx.retired = s.ctx.retired
  bbctab : t.ctx.sys.bbctab = s.ctx.sys.bbctab
  stores : t.cl.stores = s.cl.stores
  pkg : t.pkg = s.pkg

/-- What stands in memory after a store at its home depends on the package alone. -/
theorem homeStore_mem_congr {s t : State} (hm : t.pkg.mem = s.pkg.mem) (hp : t.pkg.poison = s.pkg.poison) (pa n x : Nat) :
    (t.homeStore pa n x).pkg.mem = (s.homeStore pa n x).pkg.mem ∧ (t.homeStore pa n x).pkg.poison = (s.homeStore pa n x).pkg.poison := by
  unfold State.homeStore
  dsimp only
  rw [hm, hp]
  split
  · exact ⟨rfl, rfl⟩
  · split <;> exact ⟨rfl, rfl⟩

/-- What a trace record writes. -/
theorem trace_mem_congr {s t : State} (h : SameMark s t) (k : Nat) (v : Word) : (t.trace k v).pkg.mem = (s.trace k v).pkg.mem := by
  have hm : t.pkg.mem = s.pkg.mem := by rw [h.pkg]
  have hp : t.pkg.poison = s.pkg.poison := by rw [h.pkg]
  have hc : t.pkg.cycle = s.pkg.cycle := by rw [h.pkg]
  unfold State.trace
  dsimp only
  rw [h.trctl, h.trn, h.pc, hc]
  split
  · obtain ⟨hm', hp'⟩ := homeStore_mem_congr hm hp _ 8 _
    exact (homeStore_mem_congr hm' hp' _ 8 _).1
  · exact hm

/-- The counter of basic blocks. -/
theorem countBlock_congr {s t : State} (h : SameMark s t) : SameMark s.countBlock t.countBlock := by
  have hown : t.own = s.own := by unfold State.own; rw [h.stores, h.idx]
  unfold State.countBlock
  dsimp only
  rw [h.bbctab]
  split
  · refine ⟨h.pre, h.idx, h.trctl, h.trn, h.pc, h.retired, h.bbctab, ?_, h.pkg⟩
    simp only [State.storeWrite, h.stores, h.idx, h.pc, hown]
  · exact h

/-- A B mark writes the same memory. -/
theorem blockEntry_congr {s t : State} (h : SameMark s t) :
    t.blockEntry.pkg.mem = s.blockEntry.pkg.mem ∧ t.blockEntry.cl.stores = s.blockEntry.cl.stores := by
  have hb := countBlock_congr h
  unfold State.blockEntry
  rw [h.retired, (trace_leaves ..).2.1, (trace_leaves ..).2.1]
  exact ⟨trace_mem_congr hb .., hb.stores⟩

/-- Counting an instruction writes the same memory. -/
theorem countRetired_congr {s t : State} (h : SameMark s t) (f : Fields) :
    (t.countRetired f).pkg.mem = (s.countRetired f).pkg.mem ∧ (t.countRetired f).cl.stores = (s.countRetired f).cl.stores := by
  have hmark : t.marksBlock f = s.marksBlock f := by unfold State.marksBlock; rw [h.pre]
  have hcount : SameMark { s with ctx := { s.ctx with retired := s.ctx.retired + 1 } }
      { t with ctx := { t.ctx with retired := t.ctx.retired + 1 } } :=
    { h with retired := congrArg (· + 1) h.retired }
  unfold State.countRetired
  dsimp only
  rw [hmark]
  split
  · exact blockEntry_congr hcount
  · exact ⟨by rw [h.pkg], h.stores⟩

/-- An instruction without a B mark counts, and writes no memory. -/
theorem countRetired_unmarked {s : State} {f : Fields} (h : s.marksBlock f = false) :
    (s.countRetired f).pkg.mem = s.pkg.mem ∧ (s.countRetired f).cl.stores = s.cl.stores := by
  have he : s.countRetired f = { s with ctx := { s.ctx with retired := s.ctx.retired + 1 } } := if_neg (ne_true_of_eq_false h)
  rw [he]
  exact ⟨rfl, rfl⟩

namespace LeavesBut

variable {d : BitVec 7} {s t : State}

/-- Of what a B mark writes, a scalar result changes the cycle alone. -/
theorem sameMark (h : LeavesBut d s t) : SameMark { s with pkg := { s.pkg with cycle := t.pkg.cycle } } t where
  pre := by rw [h.core]
  idx := by rw [h.core]
  trctl := by rw [h.core]
  trn := by rw [h.core]
  pc := by rw [h.ctx]
  retired := by rw [h.ctx]
  bbctab := by rw [h.ctx]
  stores := by rw [h.cl]
  pkg := h.pkg

/-- The instruction that wrote the result retires: RETIRED and its marks come on top (R19, R21). -/
theorem retire (h : LeavesBut d s t) (f : Fields) (pc : Word) (flow : Flow) :
    let r := t.retire f pc flow
    AgreeBut d s.settled r.settled ∧ r.ctx.trap = s.ctx.trap ∧ r.core.k = s.core.k ∧ r.core.handler = s.core.handler ∧
      r.ctx.streams = s.ctx.streams ∧ r.ctx.tiles = s.ctx.tiles ∧ r.ctx.tx = s.ctx.tx ∧ r.ctx.mailbox = s.ctx.mailbox ∧
      r.ctx.sys.pid = s.ctx.sys.pid ∧ r.ctx.sys.ctxbuf = s.ctx.sys.ctxbuf ∧ r.cl.spad = s.cl.spad ∧ r.cl.bstore = s.cl.bstore ∧
      (s.marksBlock f = false → r.pkg.mem = s.pkg.mem ∧ r.cl.stores = s.cl.stores) := by
  intro r
  have hctx : r.ctx = _ := retire_ctx f pc flow t
  have hcore : r.core = _ := retire_core f pc flow t
  have hcl : r.cl = _ := retire_cl f pc flow t
  obtain ⟨hregs, hfmode⟩ := retire_settled f pc flow t
  refine ⟨h.agree.trans (.of_eq hregs hfmode), ?trap, ?k, ?handler, ?streams, ?tiles, ?tx, ?mailbox, ?pid, ?ctxbuf, ?spad, ?bstore,
    fun hmark => ?memory⟩
  case k | handler => rw [hcore, h.core]; rfl
  case spad | bstore => rw [hcl, h.cl]
  case memory =>
    have hmark' : t.marksBlock f = false := by
      unfold State.marksBlock at hmark ⊢
      rwa [h.sameMark.pre]
    obtain ⟨hm, hs⟩ := countRetired_unmarked hmark'
    have hstores : r.cl.stores = (t.countRetired f).cl.stores := by rw [hcl]
    exact ⟨(retire_mem f pc flow t).trans (hm.trans (by rw [h.pkg])), hstores.trans (hs.trans h.sameMark.stores)⟩
  all_goals rw [hctx, h.ctx]

/-- What the retirement writes is the counter and the record of its B mark, at its cycle. -/
theorem retire_memory (h : LeavesBut d s t) (f : Fields) (pc : Word) (flow : Flow) :
    let r := ({ s with pkg := { s.pkg with cycle := t.pkg.cycle } } : State).countRetired f
    (t.retire f pc flow).pkg.mem = r.pkg.mem ∧ (t.retire f pc flow).cl.stores = r.cl.stores := by
  intro r
  obtain ⟨hm, hs⟩ := countRetired_congr h.sameMark f
  refine ⟨(retire_mem f pc flow t).trans hm, ?_⟩
  rw [retire_cl]
  exact hs

end LeavesBut

end Sys2Proof.Machine
end

section
/-! SUPPORT. What traps and waits leave of RETIRED: it stays, but for the crash of a control core (R372, R375, R400). -/

namespace Sys2Proof.Machine

/-- The halt tree freezes no control core (R387). -/
theorem haltFreeze_control {s : State} (h : s.core.control = true) : s.haltFreeze = s := if_neg (by simp [h])

/-- A kernel crash resets a control core (R400). -/
theorem crash_retired {s : State} (h : s.core.control = true) (reason : Nat) : (s.crash reason).ctx.retired = 0 := by
  unfold State.crash
  dsimp only
  rw [haltFreeze_control, if_pos]
  · rfl
  · exact h
  · exact h

/-- A double trap on a control core is a kernel crash (R375, R400). -/
theorem enterTrap_crash {s : State} {c val pc : Word} (hk : s.core.k = true) (hs : s.core.saved = false)
    (hc : s.core.control = true) : ∃ w, Settles s w ∧ s.enterTrap c val pc = (w.sherd 2 pc).crash 1 := by
  have h := settles_entry s
  refine ⟨_, h, ?_⟩
  rw [State.enterTrap]
  refine (if_pos ?_).trans ?_
  · rw [h.k, h.saved, hk, hs]; rfl
  · rw [State.doubleTrap, if_pos (h.control.trans hc)]

/-- Trap entry leaves RETIRED, but for a control core that crashes (R372, R375, R400). -/
theorem enterTrap_retired (s : State) (c val pc : Word) :
    (s.enterTrap c val pc).ctx.retired = s.ctx.retired ∨ (s.core.control = true ∧ (s.enterTrap c val pc).ctx.retired = 0) := by
  cases hd : s.core.k && !s.core.saved with
  | false =>
    obtain ⟨w, hw, he⟩ := enterTrap_takes (c := c) (val := val) (pc := pc) hd
    left
    rw [he, State.toHandler]
    dsimp only
    rw [(trace_leaves ..).1]
    dsimp only [State.saveTrap]
    rw [(behind_recordTrap ..).ctx]
    exact hw.retired
  | true =>
    obtain ⟨hk, hs⟩ := Bool.and_eq_true_iff.1 hd
    have hs : s.core.saved = false := by simpa using hs
    cases hc : s.core.control with
    | true =>
      obtain ⟨w, hw, he⟩ := enterTrap_crash (c := c) (val := val) (pc := pc) hk hs hc
      have hcon : (w.sherd 2 pc).core.control = true := hw.control.trans hc
      right
      rw [he]
      exact ⟨rfl, crash_retired hcon 1⟩
    | false =>
      obtain ⟨w, hw, he⟩ := enterTrap_double (c := c) (val := val) (pc := pc) hk hs hc
      left
      rw [he]
      exact hw.retired

/-- The traps of arithmetic (0x0D, 0x0E) leave RETIRED, but for a control core that crashes. -/
theorem trap_retired {c : Nat} (hc : c = 0x0D ∨ c = 0x0E) (v : Word) (s : State) :
    (s.trap (c, v)).ctx.retired = s.ctx.retired ∨ (s.core.control = true ∧ (s.trap (c, v)).ctx.retired = 0) := by
  have hb := behind_recordError (c, v) s
  have htrap : s.trap (c, v) = (s.recordError (c, v)).enterTrap (BitVec.ofNat 64 (c % 0x1000)) v (s.recordError (c, v)).ctx.pc := by
    have hheld : c ≠ heldCause := by unfold heldCause; omega
    have hstore : inKernelStore (c, v) = false := by simp [inKernelStore, show c ≠ 0x11 by omega]
    have hdecl : c ≠ 0x0A := by omega
    unfold State.trap
    rw [if_neg hheld, hstore, if_neg Bool.false_ne_true]
    dsimp only
    rw [if_neg hdecl]
  have hret : (s.recordError (c, v)).ctx.retired = s.ctx.retired := by rw [hb.ctx]
  have hcon : (s.recordError (c, v)).core.control = s.core.control := by rw [hb.core]
  rw [htrap, ← hret, ← hcon]
  exact enterTrap_retired ..

/-- A cycle without an issue leaves RETIRED. -/
theorem idle_retired (s : State) : s.idle.ctx.retired = s.ctx.retired := by rw [(timed_idle s).ctx]

end Sys2Proof.Machine
end

section
/-! SUPPORT. The scalar instructions that write one register: which they are, and what their effects can be. -/

open Sys2Proof.Claims

namespace Sys2Proof.Machine

/-- What the effect of a scalar instruction with destination `o` can be in `b`: its result, with flags or without, a trap of
arithmetic, or a wait. -/
inductive ScalarOutcome (o : Operand) (b : State) : Eff → Prop
  | result (lat : Option Nat) (x : Word) : ScalarOutcome o b (.ok (b.setS lat o x))
  | flagged (lat : Option Nat) (x : Word) (fl : Flags) : ScalarOutcome o b (.ok ((b.setS lat o x).raiseFlags lat fl))
  | trap {c : Nat} (hc : c = 0x0D ∨ c = 0x0E) (v : Word) : ScalarOutcome o b (.trap (c, v))
  | hold : ScalarOutcome o b (.hold b)

/-- An integer operation. -/
theorem outcome_alu (op : AluOp) (lat : Option Nat) (f : Fields) (u : State) : ScalarOutcome f.opD u (alu op lat f u) := by
  unfold alu
  dsimp only
  split
  · exact .trap (.inl rfl) _
  · exact .result lat _

/-- A float result. -/
theorem outcome_fpScalar (lat : Option Nat) (o : Operand) (r : Nat × Flags) (u : State) : ScalarOutcome o u (fpScalar lat o r u) := by
  by_cases hf : r.2 &&& u.enables = 0
  · rw [fpScalar_ok hf]; exact .flagged lat _ _
  · rw [fpScalar_trap hf]; exact .trap (.inr rfl) _

/-- MFS, in the state in which it reads its register. -/
theorem outcome_mfs (f : Fields) (u : State) :
    ScalarOutcome f.opD (if (u.val f.opA).toNat = 0x13 then u.caughtUp else u) (mfsEffect f u) := by
  unfold mfsEffect
  dsimp only
  generalize (if (u.val f.opA).toNat = 0x13 then u.caughtUp else u) = b
  split
  · exact .hold
  · exact .result (some 1) _

/-- An instruction that is not MFS and orders no fetch, and that issues with the effect of a scalar instruction. -/
def ScalarRow (mk : Fields → Instr) : Prop :=
  ∀ f, (∀ g, mk f ≠ .mfs g) ∧ (mk f).spec.ct = false ∧
    ∃ eff, (∀ s, exec (mk f) s = issue (mk f) f eff s) ∧ ∀ u, ScalarOutcome f.opD u (eff u)

/-- The rows of Table 5-3. -/
theorem scalarRow_int {row : (Fields → Instr) × AluOp × Option Nat} (hr : row ∈ intRows) : ScalarRow row.1 := by
  intro f
  have hkind : (∀ g, row.1 f ≠ .mfs g) ∧ (row.1 f).spec.ct = false := by
    simp only [intRows, List.mem_cons, List.not_mem_nil, or_false] at hr
    obtain rfl | rfl | rfl | rfl | rfl | rfl | rfl | rfl | rfl | rfl | rfl | rfl | rfl | rfl | rfl | rfl | rfl | rfl | rfl | rfl |
      rfl | rfl | rfl | rfl | rfl | rfl := hr
    all_goals exact ⟨by simp, rfl⟩
  exact ⟨hkind.1, hkind.2, alu row.2.1 row.2.2 f, exec_intRow hr f, outcome_alu _ _ f⟩

/-- The float rows that round once. -/
theorem scalarRow_float {row : (Fields → Instr) × FOp × Option Nat} (hr : row ∈ floatRows) : ScalarRow row.1 := by
  intro f
  have hkind : (∀ g, row.1 f ≠ .mfs g) ∧ (row.1 f).spec.ct = false := by
    simp only [floatRows, List.mem_cons, List.not_mem_nil, or_false] at hr
    obtain rfl | rfl | rfl | rfl | rfl | rfl := hr
    all_goals exact ⟨by simp, rfl⟩
  exact ⟨hkind.1, hkind.2, fop row.2.1 row.2.2 f, exec_floatRow hr f, fun u => outcome_fpScalar _ _ _ u⟩

/-- The instructions of R86 to R88, and the float ones of R92 and R94 to R96. -/
theorem scalarRow_rest {mk : Fields → Instr}
    (hm : mk ∈ [Instr.sext, Instr.zext, Instr.bfx, Instr.bfi, Instr.lea, Instr.mov, Instr.sel, Instr.fmin, Instr.fmax, Instr.fcvt,
      Instr.fcvti, Instr.icvtf, Instr.fclass, Instr.fabs, Instr.fneg]) : ScalarRow mk := by
  intro f
  simp only [List.mem_cons, List.not_mem_nil, or_false] at hm
  obtain rfl | rfl | rfl | rfl | rfl | rfl | rfl | rfl | rfl | rfl | rfl | rfl | rfl | rfl | rfl := hm
  · exact ⟨by simp, rfl, _, exec_sext f, fun u => .result (some 1) _⟩
  · exact ⟨by simp, rfl, _, exec_zext f, fun u => .result (some 1) _⟩
  · exact ⟨by simp, rfl, _, exec_bfx f, fun u => .result (some 1) _⟩
  · exact ⟨by simp, rfl, _, exec_bfi f, fun u => .result (some 1) _⟩
  · exact ⟨by simp, rfl, _, exec_lea f, fun u => .result (some 1) _⟩
  · exact ⟨by simp, rfl, _, exec_mov f, fun u => .result (some 1) _⟩
  · exact ⟨by simp, rfl, _, exec_sel f, fun u => .result (some 1) _⟩
  · exact ⟨by simp, rfl, _, exec_fmin f, fun u => outcome_fpScalar _ _ _ u⟩
  · exact ⟨by simp, rfl, _, exec_fmax f, fun u => outcome_fpScalar _ _ _ u⟩
  · exact ⟨by simp, rfl, _, exec_fcvt f, fun u => outcome_fpScalar _ _ _ u⟩
  · exact ⟨by simp, rfl, _, exec_fcvti f, fun u => outcome_fpScalar _ _ _ u⟩
  · exact ⟨by simp, rfl, _, exec_icvtf f, fun u => outcome_fpScalar _ _ _ u⟩
  · exact ⟨by simp, rfl, _, exec_fclass f, fun u => .result (some 1) _⟩
  · exact ⟨by simp, rfl, _, exec_fabs f, fun u => .result (some 1) _⟩
  · exact ⟨by simp, rfl, _, exec_fneg f, fun u => .result (some 1) _⟩

/-- Every instruction of the frame's list is a scalar row or MFS. -/
theorem scalar_rows {mk : Fields → Instr}
    (hm : mk ∈ intRows.map (·.1) ++ floatRows.map (·.1) ++ [Instr.sext, Instr.zext, Instr.bfx, Instr.bfi, Instr.lea, Instr.mov,
      Instr.sel, Instr.fmin, Instr.fmax, Instr.fcvt, Instr.fcvti, Instr.icvtf, Instr.fclass, Instr.fabs, Instr.fneg, Instr.mfs]) :
    ScalarRow mk ∨ mk = Instr.mfs := by
  rw [List.mem_append, List.mem_append] at hm
  obtain (hint | hfloat) | hrest := hm
  · obtain ⟨row, hr, rfl⟩ := List.mem_map.1 hint
    exact .inl (scalarRow_int hr)
  · obtain ⟨row, hr, rfl⟩ := List.mem_map.1 hfloat
    exact .inl (scalarRow_float hr)
  · obtain hrest | hmfs := List.mem_append.1 (show mk ∈ [Instr.sext, Instr.zext, Instr.bfx, Instr.bfi, Instr.lea, Instr.mov,
      Instr.sel, Instr.fmin, Instr.fmax, Instr.fcvt, Instr.fcvti, Instr.icvtf, Instr.fclass, Instr.fabs, Instr.fneg] ++ [Instr.mfs]
      from hrest)
    · exact .inl (scalarRow_rest hrest)
    · exact .inr (List.mem_singleton.1 hmfs)

/-- The effect of an instruction of the frame's list, in the state in which MFS of MBXS reads its register, and else in that in which
it issues (R106, R216). -/
theorem scalar_effect {mk : Fields → Instr} (hm : ScalarRow mk ∨ mk = Instr.mfs) (f : Fields) :
    (mk f).spec.ct = false ∧ ∃ eff, (∀ s, exec (mk f) s = issue (mk f) f eff s) ∧ ∀ u,
      (mk f = .mfs f ∧ (u.val f.opA).toNat = 0x13 → ScalarOutcome f.opD u.caughtUp (eff u)) ∧
      (¬(mk f = .mfs f ∧ (u.val f.opA).toNat = 0x13) → ScalarOutcome f.opD u (eff u)) := by
  obtain hrow | rfl := hm
  · obtain ⟨hne, hct, eff, hexec, hout⟩ := hrow f
    exact ⟨hct, eff, hexec, fun u => ⟨fun hx => absurd hx.1 (hne f), fun _ => hout u⟩⟩
  · refine ⟨rfl, mfsEffect f, exec_mfs f, fun u => ⟨fun hx => ?_, fun hx => ?_⟩⟩
    · have ho := outcome_mfs f u
      rwa [if_pos hx.2] at ho
    · have ho := outcome_mfs f u
      rwa [if_neg fun hn => hx ⟨rfl, hn⟩] at ho

/-- An instruction whose effect is a scalar one in `b`, and that has counted in RETIRED, has completed: it left `b` but for its
register, and retired. -/
theorem scalar_completes {i : Instr} {f : Fields} {s b t : State} {eff : State → Eff} (hct : i.spec.ct = false)
    (h : s.ready i f = true) (ho : ScalarOutcome f.opD b (eff (s.atIssue i f))) (hb : Behind (s.atIssue i f) b)
    (he : issue i f eff s = .next t) (hret : t.ctx.retired = s.ctx.retired + 1)
    (hcrash : s.core.control = true → s.ctx.retired + 1 ≠ 0) :
    ∃ v pc, LeavesBut f.opD.num b v ∧ t = v.retire f pc .seq := by
  have hu := timed_atIssue i f s
  have hur : (s.atIssue i f).ctx.retired = s.ctx.retired := by rw [hu.ctx]
  have hne : s.ctx.retired ≠ s.ctx.retired + 1 := by bv_omega
  generalize hres : eff (s.atIssue i f) = e at ho
  cases ho with
  | result lat x =>
    rw [issue_ok h hres] at he
    cases he
    exact ⟨_, _, (LeavesBut.setS lat f.opD x b).trans (.completed hct f _ _), rfl⟩
  | flagged lat x fl =>
    rw [issue_ok h hres] at he
    cases he
    exact ⟨_, _, ((LeavesBut.setS lat f.opD x b).trans (.raiseFlags _ lat fl _)).trans (.completed hct f _ _), rfl⟩
  | trap hc v =>
    rw [issue_trap h hres] at he
    cases he
    obtain hsame | ⟨hcon, hzero⟩ := trap_retired hc v (s.atIssue i f)
    · exact absurd (hur.symm.trans (hsame.symm.trans hret)) hne
    · exact absurd (hret.symm.trans hzero) (hcrash (hu.control.symm.trans hcon))
  | hold =>
    rw [issue_hold h hres] at he
    cases he
    have hsame : b.idle.ctx.retired = s.ctx.retired := (idle_retired b).trans (by rw [hb.ctx]; exact hur)
    exact absurd (hsame.symm.trans hret) hne

end Sys2Proof.Machine
end

section
/-! SUPPORT. The settled statements of the scalar instructions and of control. -/

open Sys2Proof Sys2Proof.Machine Sys2Proof.Claims

namespace Sys2Proof.Proofs

/-- Settles O10: a step leaves the same core, in a legal mode. -/
theorem stepKeepsMode : Obligations.StepKeepsMode := by
  unfold Obligations.StepKeepsMode
  intro s t hm h
  have hk := keeps_step h
  exact ⟨hk.mode hm, hk.control, hk.idx, hk.die, hk.pcore⟩

/-- Settles O20: each row's effect is its operation, which completes. -/
theorem integerResults : Obligations.IntegerResults := by
  unfold Obligations.IntegerResults
  intro row hrow f s h u w a b hb
  rw [exec_intRow hrow]
  exact issue_ok h (alu_ok hb)

/-- Settles O22: one lemma for each operation, and the conditions compare the readings of their patterns. -/
theorem integerOperations : Obligations.IntegerOperations := by
  unfold Obligations.IntegerOperations
  refine ⟨fun w a b k hw => ⟨result_add hw, result_sub hw, result_mul hw, result_mulhu, result_mulh hw, result_and, result_or, result_xor,
    result_andn, result_shl, result_shr, result_sar hw, result_rotl hw, result_neg hw, result_abs hw, result_min hw, result_max hw,
    result_minu, result_maxu, fun _ => ⟨result_div hw, result_rem hw, result_divu, result_remu⟩⟩, fun w a b hw => ?conditions⟩
  case conditions =>
    have hs : ∀ x : BitVec w, sx w x.toNat = x.toInt := sx_toNat hw
    simp only [icond, hs]
    refine ⟨beq_toNat a b, ?_, BitVec.slt_eq_decide.symm, ?_, BitVec.sle_eq_decide.symm, ?_, BitVec.ult_eq_decide.symm, ?_,
      BitVec.ule_eq_decide.symm, ?_⟩
    · rw [bne, bne, beq_toNat]
    · rw [BitVec.slt_eq_decide, ← decide_not]; simp only [not_lt]
    · rw [BitVec.sle_eq_decide, ← decide_not]; simp only [not_le]
    · rw [BitVec.ult_eq_decide, ← decide_not]; simp only [not_lt]
    · rw [BitVec.ule_eq_decide, ← decide_not]; simp only [not_le]

/-- Settles O23: the result reads back as the exact one clamped. -/
theorem saturatedResults : Obligations.SaturatedResults := by
  unfold Obligations.SaturatedResults
  intro op w a b k hw hs x y
  have hy : y = satInt w x := sx_result_saturated hw hs a b k
  have hpos : (0 : Int) < 2 ^ (w - 1) := by positivity
  rw [hy]
  unfold satInt clampInt
  omega

/-- Settles O24: each effect completes as it is written. -/
theorem scalarMoves : Obligations.ScalarMoves := by
  unfold Obligations.ScalarMoves
  refine ⟨fun f s => ⟨fun h => ?sext, fun h => ?zext, fun h => ?bfx, fun h => ?bfi, fun h => ?lea, fun h => ?mov, fun h => ?sel⟩,
    fun f s => ⟨fun h => ?cmp, fun h => ?plog⟩⟩
  case sext => rw [exec_sext, execSext]; exact issue_ok h rfl
  case zext => rw [exec_zext, execZext]; exact issue_ok h rfl
  case bfx => rw [exec_bfx, execBfx]; exact issue_ok h rfl
  case bfi => rw [exec_bfi, execBfi]; exact issue_ok h rfl
  case lea => rw [exec_lea, execLea]; exact issue_ok h rfl
  case mov => rw [exec_mov, execMov]; exact issue_ok h rfl
  case sel => rw [exec_sel, execSel]; exact issue_ok h rfl
  case cmp => rw [exec_cmp, execCmp]; exact issue_ok h rfl
  case plog => rw [exec_plog, execPlog]; exact issue_ok h rfl

/-- Settles O27: the instruction has completed, since a trap or a wait leaves RETIRED; its effect left all but its register, and
retirement adds the mark. -/
theorem scalarFrame : Obligations.ScalarFrame := by
  unfold Obligations.ScalarFrame
  intro f s t mk hm h he hret hcrash u mbxs a
  have hu : Timed s u := timed_atIssue (mk f) f s
  obtain ⟨hct, eff, hexec, hout⟩ := scalar_effect (scalar_rows hm) f
  rw [hexec] at he
  obtain ⟨b, hab, hb, v, pc, hv, rfl⟩ : ∃ b, LeavesBut f.opD.num a b ∧ (if mbxs then a else u) = b ∧
      ∃ v pc, LeavesBut f.opD.num b v ∧ t = v.retire f pc .seq := by
    by_cases hx : mbxs
    · have ha : a = u.caughtUp := if_pos hx
      have hdone := scalar_completes hct h ((hout u).1 hx) (behind_caughtUp u) he hret hcrash
      exact ⟨u.caughtUp, ha ▸ .refl _ _, (if_pos hx).trans ha, hdone⟩
    · have ha : a = s := if_neg hx
      have hdone := scalar_completes hct h ((hout u).2 hx) (.refl u) he hret hcrash
      exact ⟨u, ha ▸ .of_timed hu _, if_neg hx, hdone⟩
  obtain ⟨hagree, htrap, hk, hhandler, hstreams, htiles, htx, hmailbox, hpid, hctxbuf, hspad, hbstore, hmem⟩ :=
    (hab.trans hv).retire f pc .seq
  refine ⟨hagree.scalar, hagree.v, hagree.pred, hagree.fmode, htrap, hk, hhandler, hstreams, htiles, htx, hmailbox, hpid, hctxbuf, hspad,
    hbstore, hmem, v.pkg.cycle, ?_⟩
  dsimp only
  rw [hb]
  exact hv.retire_memory f pc .seq

/-- Settles O28: the load reads once what stands before it is performed. -/
theorem localLoads : Obligations.LocalLoads := by
  unfold Obligations.LocalLoads
  intro f s pl h u ea m ha he hs
  rw [exec_ldl, execLdl]
  exact issue_ok h (ldlEffect_ok (ready_waitServed h) ha he hs)

/-- Settles O29: the place is local store or scratchpad, and a store there changes the bytes that it names and no others. -/
theorem localStores : Obligations.LocalStores := by
  unfold Obligations.LocalStores
  intro f s pl h u ea n m w ha he hh
  have hp := localAccess_write_place ha he
  refine ⟨?_, fun hs hm hi => ?_, dataWrite_leaves hp ..⟩
  · rw [exec_stl, execStl]
    exact issue_ok h (stlEffect_ok ha he hh)
  · refine (dataWrite_readsBack hp hs hm hi _ _ _).trans ?_
    rw [Nat.pow_mul, Nat.mod_mod]

/-- Settles O31: the effect of each transfer jumps, traps or falls through. -/
theorem transfers : Obligations.Transfers := by
  unfold Obligations.Transfers
  refine fun f s => ⟨fun h => ?br, fun h => ?call, fun h => ?ret, fun h => ?jmp, fun h => ?loop⟩
  case br => rw [exec_br, execBr]; exact issue_jump h rfl
  case call =>
    rw [exec_call, execCall]
    exact ⟨fun ht => issue_jump h (callEffect_ok ht), fun n ha ht => issue_trap h (callEffect_trap ha ht)⟩
  case ret =>
    rw [exec_ret, execRet]
    exact ⟨fun ht => issue_jump h (jumpTo_ok ht), fun ht => issue_trap h (jumpTo_trap ht)⟩
  case jmp =>
    rw [exec_jmp, execJmp]
    exact ⟨fun ht => issue_jump h (jumpTo_ok ht), fun ht => issue_trap h (jumpTo_trap ht)⟩
  case loop =>
    rw [exec_loop, execLoop]
    obtain ⟨hz, hn⟩ := loopEffect_cases f (s.atIssue (.loop f) f)
    exact ⟨fun hd => issue_ok h (hz hd), fun hd => issue_jump h (hn hd)⟩

/-- Settles O32: REP repeats its body, and NOP and PREF only go on. -/
theorem repeatAndIdle : Obligations.RepeatAndIdle := by
  unfold Obligations.RepeatAndIdle
  refine fun f s => ⟨fun h ws => ?rep, fun h => ?nop, fun h => ?pref⟩
  case rep =>
    rw [exec_rep, execRep]
    exact ⟨fun hf hw => issue_repeats h (repEffect_own hf hw), fun hf => issue_repeats h (repEffect_follower hf)⟩
  case nop => rw [exec_nop, execNop]; exact issue_ok h rfl
  case pref =>
    rw [exec_pref, execPref]
    obtain ⟨ks, he⟩ := prefEffect_keeps f (s.atIssue (.pref f) f)
    exact ⟨ks, issue_ok h he⟩

/-- Settles O49: POST sends its record, and TEXIT and STOP end the step in the state that they leave. -/
theorem taskInstructions : Obligations.TaskInstructions := by
  unfold Obligations.TaskInstructions
  refine fun f s => ⟨fun img t h => ?post, fun h => ?taskq, fun h => ?texit, fun h => ?stop⟩
  case post =>
    intro s₁ a u w p target l n r counted v hmember himg hok hown
    rw [exec_post, execPost]
    have hsent : ∀ t, v.sendRecord u.taskKey u.core.idx w = some t → issue (.post f) f (postEffect f) s = .next (s.after (.post f) f t) :=
      fun t ht => issue_ok h (postEffect_sends (u := u) (a := a) rfl rfl hmember himg hok hown ht)
    clear_value u
    obtain ⟨hhere, hthere⟩ := sendRecord_signed (s := u) (a := a.toNat) (n := 32) (data := img) u.taskKey u.core.idx w
    exact ⟨fun ht he => hsent _ (hhere t ht he), fun ht hroom => hsent _ (hthere ht hroom)⟩
  case taskq => rw [exec_taskq, execTaskq]; exact issue_ok h rfl
  case texit =>
    intro u m e code hbad hkq hclaims
    rw [exec_texit, execTexit]
    obtain ⟨hsingle, htwin⟩ := texitEffect_ends (u := u) (e := e) (m := m) rfl rfl hbad hkq hclaims
    exact ⟨fun hr => issue_stay h (hsingle hr), fun x hr => issue_stay h (htwin x hr)⟩
  case stop =>
    intro u code e hbad
    rw [exec_stop, execStop]
    exact issue_stay h (stopEffect_stops (e := e) rfl hbad)

/-- Settles O51: MFS completes, and MTS has the outcome that its checks give. -/
theorem systemRegisters : Obligations.SystemRegisters := by
  unfold Obligations.SystemRegisters
  refine ⟨fun f s h => ?mfs, fun mk hmk f s h => ?mts⟩
  case mfs => rw [exec_mfs, execMfs]; exact fun hn => issue_ok h (mfsEffect_ok hn)
  case mts =>
    rw [exec_mtsRow hmk]
    obtain ⟨hden, hro, hval, hok⟩ := mtsEffect_cases f (s.atIssue (mk f) f)
    exact ⟨fun hd => issue_trap h (hden hd), fun hd hk => issue_trap h (hro hd hk), fun hd hk hv => issue_trap h (hval hd hk hv),
      fun hd hk hv => issue_ok h (hok hd hk hv)⟩

/-- Settles O52: a write sets the register that it names, and of the others those that it names. -/
theorem systemReadsBack : Obligations.SystemReadsBack := by
  unfold Obligations.SystemReadsBack
  exact fun n x s => ⟨fun hn => sysRead_sysWrite_same hn x s, fun hn hx => sysRead_sysWrite_checked hn hx s,
    sysWrite_retired_retire x s, fun m hm hne hn => sysRead_sysWrite_ne hm hne hn x s⟩

/-- Settles O7: each register of the reset state is evaluated. -/
theorem resetValues : Obligations.ResetValues := by
  unfold Obligations.ResetValues
  decide

/-- Settles O21: each of the four is a row whose operation divides. -/
theorem divisionByZero : Obligations.DivisionByZero := by
  unfold Obligations.DivisionByZero
  intro mk hmk f s h u hb
  obtain ⟨op, lat, hrow, hd⟩ := divides_row hmk
  exact (exec_intRow hrow f s).trans (issue_trap h (alu_trap hd hb))

end Sys2Proof.Proofs
end

section
/-! SUPPORT. Lanes: the bits of a lane, what a vector made of lanes holds, and a merge under a mask of lanes (R109, Table 2-9). -/

namespace Sys2Proof.Machine

section
variable {w i j : Nat}

/-- The bits of lane `i`, which stand at `w * i` in its vector. -/
theorem testBit_lane (x : Vec) : (lane x i w).testBit j = (decide (j < w) && x.getLsbD (w * i + j)) := by
  rw [lane, Nat.testBit_mod_two_pow, Nat.testBit_div_two_pow, Nat.add_comm j]
  rfl

/-- Digits stay below the place of the next one. -/
theorem digits_lt (g : Nat → Nat) (k : Nat) : digits w g k < 2 ^ (w * k) := by
  induction k with
  | zero => simp [digits]
  | succ k ih =>
    have hpow : 2 ^ (w * (k + 1)) = 2 ^ (w * k) * 2 ^ w := by rw [Nat.mul_add_one, Nat.pow_add]
    have hdigit : g k % 2 ^ w < 2 ^ w := Nat.mod_lt _ (Nat.two_pow_pos w)
    calc digits w g k + g k % 2 ^ w * 2 ^ (w * k)
      _ < 2 ^ (w * k) + g k % 2 ^ w * 2 ^ (w * k) := Nat.add_lt_add_right ih _
      _ = 2 ^ (w * k) * (g k % 2 ^ w + 1) := by ring
      _ ≤ 2 ^ (w * (k + 1)) := hpow ▸ Nat.mul_le_mul_left _ hdigit

/-- The bits of one of the digits of which a number is made. -/
theorem testBit_digits (g : Nat → Nat) {k : Nat} (hi : i < k) (hj : j < w) : (digits w g k).testBit (w * i + j) = (g i).testBit j := by
  induction k with
  | zero => omega
  | succ k ih =>
    rw [digits, Nat.add_comm, Nat.mul_comm, Nat.testBit_two_pow_mul_add _ (digits_lt g k)]
    obtain hlow | rfl := Nat.lt_succ_iff_lt_or_eq.1 hi
    · have hbit : w * i + j < w * k := (Nat.add_lt_add_left hj _).trans_le (Nat.mul_le_mul_left w hlow)
      rw [if_pos hbit, ih hlow]
    · rw [if_neg (by omega), Nat.add_sub_cancel_left, Nat.testBit_mod_two_pow, decide_eq_true hj, Bool.true_and]

/-- The lanes of a vector lie in its 512 bits. -/
theorem lane_bit_lt (hi : i < 512 / w) (hj : j < w) : w * i + j < 512 :=
  calc w * i + j
    _ < w * (i + 1) := Nat.add_lt_add_left hj _
    _ ≤ w * (512 / w) := Nat.mul_le_mul_left w hi
    _ ≤ 512 := Nat.mul_div_le 512 w

/-- The bits of a lane that was put into a vector. -/
theorem getLsbD_ofLanes (g : Nat → Nat) (hi : i < 512 / w) (hj : j < w) : (ofLanes w g).getLsbD (w * i + j) = (g i).testBit j := by
  rw [ofLanes, BitVec.getLsbD_ofNat, decide_eq_true (lane_bit_lt hi hj), Bool.true_and, testBit_digits g hi hj]

/-- The bits of a mask of lanes. -/
theorem getLsbD_laneMask (act : Nat → Bool) (hi : i < 512 / w) (hj : j < w) : (laneMask w act).getLsbD (w * i + j) = act i := by
  rw [laneMask, getLsbD_ofLanes _ hi hj]
  cases act i
  · simp
  · simp [Nat.testBit_two_pow_sub_one, hj]

/-- A lane reads as it was put into its vector. -/
theorem lane_ofLanes (g : Nat → Nat) (hi : i < 512 / w) : lane (ofLanes w g) i w = g i % 2 ^ w := by
  refine Nat.eq_of_testBit_eq fun j => ?_
  rw [testBit_lane, Nat.testBit_mod_two_pow]
  by_cases hj : j < w
  · rw [getLsbD_ofLanes g hi hj]
  · simp [hj]

/-- Where lanes are written under a mask, one in the mask reads as the new vector's, and one outside it as the old vector's. -/
theorem lane_merge (act : Nat → Bool) (old new : Vec) (hi : i < 512 / w) :
    lane ((old &&& ~~~(laneMask w act)) ||| (new &&& laneMask w act)) i w = if act i then lane new i w else lane old i w := by
  refine Nat.eq_of_testBit_eq fun j => ?_
  rw [apply_ite (Nat.testBit · j), testBit_lane, testBit_lane, testBit_lane]
  by_cases hj : j < w
  · have hbit := lane_bit_lt hi hj
    rw [BitVec.getLsbD_or, BitVec.getLsbD_and, BitVec.getLsbD_and, BitVec.getLsbD_not, getLsbD_laneMask act hi hj]
    cases act i <;> simp [hbit]
  · simp [hj]

end

end Sys2Proof.Machine
end

section
/-! SUPPORT. Vector instructions on registers: which effect each row of Table 6-2 has, and the effects that read one vector (R111, R113,
R118). -/

open Sys2Proof.Claims

namespace Sys2Proof.Machine

/-- Every row of the vector integer instructions issues with the effect of its operation. -/
theorem exec_vectorRow {row : (Fields → Instr) × AluOp × Nat} (hr : row ∈ vectorRows) (f : Fields) (s : State) :
    exec (row.1 f) s = issue (row.1 f) f (vint row.2.1 row.2.2 f) s := by
  simp only [vectorRows, List.mem_cons, List.not_mem_nil, or_false] at hr
  obtain rfl | rfl | rfl | rfl | rfl | rfl | rfl | rfl | rfl | rfl | rfl | rfl | rfl | rfl := hr
  all_goals rfl

section
variable {w : Nat} {o : Operand} {u m : State} {x : Vec}

/-- A vector source in A alone. -/
theorem withSources_first (k : State → Vec → Vec → Eff) (h : u.delivers w o m x) :
    withSources w o .lit u k = k m x (m.vsrc w .lit) := withSources_delivers k h (delivers_lit w m)

/-- A vector source in B alone. -/
theorem withSources_second (k : State → Vec → Vec → Eff) (h : u.delivers w o m x) :
    withSources w .lit o u k = k m (u.vsrc w .lit) x := withSources_delivers k (delivers_lit w u) h

end

section
variable {f : Fields} {u m t : State} {x : Vec}

/-- VSEL into a register: the lanes that are active and selected take B. -/
theorem vselEffect_ok (hx : u.delivers (selWidth f.sel) f.opB m x) (hd : f.opD.stream = none)
    (ht : m.accepts (some 1) f.opD (laneMask (selWidth f.sel) fun i => u.act f i && (u.val f.opA).getLsbD i) x t) :
    vselEffect f u = .ok t := by
  unfold vselEffect
  exact (withSources_second _ hx).trans ((withDest_register hd).trans (setV_accepts ht))

/-- VBCAST: every active lane takes the one that B names. -/
theorem vbcastEffect_ok (hx : u.delivers (selWidth f.sel) f.opA m x)
    (ht : m.accepts (some 1) f.opD (laneMask (selWidth f.sel) (u.act f))
      (ofLanes (selWidth f.sel) fun _ => lane x (u.index f) (selWidth f.sel)) t) : vbcastEffect f u = .ok t := by
  unfold vbcastEffect
  exact (withSources_first _ hx).trans (setV_accepts ht)

/-- VEXTR: the lane that B names, as a scalar. -/
theorem vextrEffect_ok (hx : u.delivers (selWidth f.sel) f.opA m x) :
    vextrEffect f u = .ok (m.setS (some 1) f.opD (BitVec.ofNat 64 (lane x (u.index f) (selWidth f.sel)))) := by
  unfold vextrEffect
  exact withSources_first _ hx

end

end Sys2Proof.Machine
end

section
/-! SUPPORT. Reductions, scans, and the instructions on code tables (R119 to R121). -/

namespace Sys2Proof.Machine

section
variable {f : Fields} {u m t : State} {x : Vec}

/-- VRED with no raised flag enabled: only the float operators raise flags. -/
theorem vredEffect_ok :
    let op := (redOpWidth f u).1
    let r := redTree (redCombine op f u.mode) 6 (redLanes f u x) 0
    let v := m.setS none f.opD (BitVec.ofNat 64 r.1)
    u.delivers (redOpWidth f u).2 f.opA m x → r.2 &&& u.enables = 0 →
      vredEffect f u = .ok (if 8 ≤ op then v.raiseFlags none r.2 else v) := by
  intro op r v hx hf
  unfold vredEffect
  refine (withSources_first _ hx).trans ?_
  dsimp only
  split
  case h_1 trap htrap => cases htrap.symm.trans (fpTrap_none hf)
  case h_2 => rfl

/-- VSCAN's result is a float vector or, with the integer operators, a plain one. -/
theorem vscanEffect_ok :
    let op := (redOpWidth f u).1
    let w := (redOpWidth f u).2
    let xs := redLanes f u x
    let r := scanFrom (redCombine op f u.mode) (xs.headD 0) xs.tail
    u.delivers w f.opA m x → r.2 &&& m.enables = 0 →
      m.accepts none f.opD (laneMask w (u.act f)) (ofLanes w fun i => ((xs.headD 0 :: r.1)[i]?).getD 0) t →
      vscanEffect f u = .ok (if 8 ≤ op then t.raiseFlags none r.2 else t) := by
  intro op w xs r hx hf ht
  unfold vscanEffect
  refine (withSources_first _ hx).trans ?_
  dsimp only
  split
  case isTrue hop => exact (fpVector_accepts hf ht).trans (congrArg Eff.ok (if_pos hop).symm)
  case isFalse hop => exact (setV_accepts ht).trans (congrArg Eff.ok (if_neg hop).symm)

/-- VQNT into a register: a block of 16 bytes of it. -/
theorem vqntEffect_ok :
    let q := f.sel.toNat
    let act := fun i => u.act f i && 16 * q ≤ i && i < 16 * q + 16
    let r := flagLanes 8 act fun i => quantise u.ctx.mq8 (lane x (i - 16 * q) 32) ((u.val f.opB).toNat % 2 ^ 32)
    u.delivers 32 f.opA m x → f.opD.stream = none → r.2 &&& m.enables = 0 → m.accepts none f.opD (laneMask 8 act) r.1 t →
      vqntEffect f u = .ok (t.raiseFlags none r.2) := by
  intro q act r hx hd hf ht
  unfold vqntEffect
  exact (withSources_first _ hx).trans ((withDest_register hd).trans (fpVector_accepts hf ht))

/-- VDQNT: the products of table entries and B. -/
theorem vdqntEffect_ok :
    let r := flagLanes 32 (u.act f) fun i => fp32.deliver false .rne false
      (exMul (codeEntry u.ctx.mq8 (lane x (16 * f.sel.toNat + i) 8)) (d32 ((u.val f.opB).toNat % 2 ^ 32)))
    u.delivers 8 f.opA m x → r.2 &&& m.enables = 0 → m.accepts (some 4) f.opD (laneMask 32 (u.act f)) r.1 t →
      vdqntEffect f u = .ok (t.raiseFlags (some 4) r.2) := by
  intro r hx hf ht
  unfold vdqntEffect
  exact (withSources_first _ hx).trans (fpVector_accepts hf ht)

/-- VCBD: the decoded elements of part p of a block. -/
theorem vcbdEffect_ok :
    let b := u.val f.opB
    let r := flagLanes 16 (u.act f) fun j =>
      let i := lane x (4 * (b.extractLsb' 16 3).toNat + j / 8) 16
      bf16.deliver false u.mode u.sat
        (cb2Ex (u.ctx.cb2.load (4 * (i / 256)) 4) i (j % 8) (bf16.decode false (b.toNat % 65536)))
    u.delivers 16 f.opA m x → r.2 &&& m.enables = 0 → m.accepts (some 3) f.opD (laneMask 16 (u.act f)) r.1 t →
      vcbdEffect f u = .ok (t.raiseFlags (some 3) r.2) := by
  intro b r hx hf ht
  unfold vcbdEffect
  exact (withSources_first _ hx).trans (fpVector_accepts hf ht)

/-- VCBD.LT of an aligned table that lies in local store or the scratchpad and passes its checks. -/
theorem vcbdLtEffect_ok :
    let n := (u.val f.opA).toNat
    let inStore := n + 1024 ≤ (if u.core.k then 0x20000 else 0x1E000)
    let pl := if inStore then LPlace.store else .spad
    let v := u.caughtUp
    let tab := (if inStore then v.own else v.cl.spad).slice n (n + 1024)
    n % 64 = 0 → inStore ∨ (0x100000 ≤ n ∧ n + 1024 ≤ 0x300000) → u.footprint pl n 1024 false = none →
      u.localBad pl n 1024 = false →
      vcbdLtEffect f u =
        .ok (if v.val f.opB = 0 then { v with ctx := { v.ctx with cb2 := tab } } else { v with ctx := { v.ctx with mq8 := tab } }) := by
  intro n inStore pl v tab ha hr hc hb
  have hrange : ¬((!decide inStore && !(decide (0x100000 ≤ n) && decide (n + 1024 ≤ 0x300000))) = true) := by
    simpa [Classical.or_iff_not_imp_left] using hr
  unfold vcbdLtEffect
  extract_lets
  rw [if_neg (by simpa using ha), if_neg hrange, hc]
  refine (if_neg (ne_true_of_eq_false hb)).trans (congrArg Eff.ok ?_)
  by_cases h : v.val f.opB = 0
  · exact (if_pos (beq_iff_eq.2 h)).trans (if_pos h).symm
  · exact (if_neg (by simpa using h)).trans (if_neg h).symm

end

end Sys2Proof.Machine
end

section
/-! SUPPORT. VLDL and VSTL: their active lanes, and what a store of lanes leaves (R124, R125, R203). -/

namespace Sys2Proof.Machine

/-- The active lanes of a VLDL or VSTL, with their addresses (R124). -/
def State.localLanes (u : State) (f : Fields) : List (Nat × Word) :=
  u.activeLanes f (selWidth f.sel) fun i => (u.localForm f).1 + BitVec.ofNat 64 i * (u.localForm f).2.1

/-! ### Loads -/

section
variable {f : Fields} {u : State}

/-- An address at or above 0x40_0000 is out of VLDL's range. -/
theorem vldlEffect_range (hr : 0x400000 ≤ (u.localForm f).1.toNat) : vldlEffect f u = .trap (0x05, (u.localForm f).1) := if_pos hr

/-- VLDL in range loads its active lanes, in one of two forms. -/
theorem vldlEffect_load (hr : (u.localForm f).1.toNat < 0x400000) :
    vldlEffect f u = localLoad f (if (u.localForm f).2.2 then .transposed else .plain) (u.localLanes f) u :=
  if_neg (Nat.not_le.2 hr)

/-- VLDL whose lanes pass their checks, in the form that B names; a shadow's own scratchpad read is its primary's (R312). -/
theorem vldlEffect_ok {form : LocalForm} (hform : (if (u.localForm f).2.2 then LocalForm.transposed else .plain) = form)
    (hr : (u.localForm f).1.toNat < 0x400000) (hc : u.laneChecks (selWidth f.sel / 8) false (u.localLanes f) = none)
    (hs : anySpad (selWidth f.sel / 8) (u.localLanes f) = false ∨
      (u.caughtUp.readLanes (selWidth f.sel / 8) (u.localLanes f)).1.isShadow = false) :
    let r := u.caughtUp.readLanes (selWidth f.sel / 8) (u.localLanes f)
    let x := packLanes (selWidth f.sel) r.2
    vldlEffect f u = .ok (lanesTo f form (u.localLanes f) x.2 x.1 r.1) := by
  rw [vldlEffect_load hr, hform]
  exact localLoad_own hc hs

/-- With no other agent near, a load of lanes reads what stands there, and leaves it. -/
theorem readLanes_stands {s : State} (w : Nat) (lanes : List (Nat × Word)) (ha : s.alone = true) :
    let r := s.readLanes (w / 8) lanes
    r.1 = s ∧ packLanes w r.2 = packLanes w (lanes.map fun l => (l.1, r.1.laneRead (w / 8) l.2)) := by
  rw [readLanes_alone (w / 8) lanes ha]
  exact ⟨rfl, rfl⟩

end

/-! ### Stores -/

/-- A source that is no stream delivers what it names. -/
theorem delivers_of_register {w : Nat} {o : Operand} {u : State} (h : o.stream = none) : u.delivers w o u (u.vsrc w o) := by
  unfold State.delivers
  rw [h]
  exact ⟨rfl, rfl⟩

/-- VSTL in range stores its active lanes of what D delivers. -/
theorem vstlEffect_store {f : Fields} {u m : State} {x : Vec} (hx : u.delivers (selWidth f.sel) f.opD m x)
    (hr : (u.localForm f).1.toNat < 0x400000) : vstlEffect f u = localStore u f x (u.localLanes f) m := by
  unfold vstlEffect
  exact (withSource_delivers _ hx).trans (if_neg (Nat.not_le.2 hr))

/-- A local store with a lane that fails its checks traps. -/
theorem localStore_trap {s₀ s : State} {f : Fields} {x : Vec} {lanes : List (Nat × Word)} {t : Trap}
    (hc : s.laneChecks (selWidth f.sel / 8) true lanes = some t) : localStore s₀ f x lanes s = .trap t := by
  unfold localStore
  dsimp only
  rw [hc]

/-- A store of the core leaves every byte of its local store and of scratchpad outside it, and global memory. -/
theorem dataWrite_leaves_outside {s : State} {pl : LPlace} {a n x y : Nat} (hp : pl = .store ∨ pl = .spad) (hm : s.memoriesWf = true)
    (hy : y < a ∨ a + n ≤ y) :
    let t := s.dataWrite pl a n x
    t.own.read y = s.own.read y ∧ t.cl.spad.read y = s.cl.spad.read y ∧ t.pkg.mem = s.pkg.mem := by
  intro t
  have hidx : t.core.idx = s.core.idx := (keeps_dataWrite pl a n x (.refl s)).idx
  obtain ⟨hstores, hspad, hpkg, -⟩ := dataWrite_leaves hp a n x s
  rw [State.own, hidx]
  exact ⟨hstores hm _ y (.inr (.inr hy)), hspad hm y (.inr hy), congrArg Package.mem hpkg⟩

/-- The write of a lane leaves every byte outside it, and global memory. -/
theorem laneWrite_leaves {s : State} {n x y : Nat} {a : Word} (hm : s.memoriesWf = true) (hy : y < a.toNat ∨ a.toNat + n ≤ y) :
    let t := s.laneWrite n a x
    t.own.read y = s.own.read y ∧ t.cl.spad.read y = s.cl.spad.read y ∧ t.pkg.mem = s.pkg.mem := by
  unfold State.laneWrite
  split
  case h_1 pl _ =>
    cases pl with
    | store => exact dataWrite_leaves_outside (.inl rfl) hm hy
    | spad => exact dataWrite_leaves_outside (.inr rfl) hm hy
    | event | mail | ready => exact ⟨rfl, rfl, rfl⟩
  case h_2 => exact ⟨rfl, rfl, rfl⟩

/-- Lanes written with no other agent near leave every byte outside them, and global memory. -/
theorem writeLanes_leaves {s : State} {w y : Nat} (x : Vec) {lanes : List (Nat × Word)} (hm : s.memoriesWf = true)
    (ha : s.alone = true) (hy : ∀ l ∈ lanes, y < l.2.toNat ∨ l.2.toNat + w / 8 ≤ y) :
    let t := s.writeLanes w x lanes
    t.own.read y = s.own.read y ∧ t.cl.spad.read y = s.cl.spad.read y ∧ t.pkg.mem = s.pkg.mem := by
  rw [writeLanes_alone w x lanes ha]
  clear ha
  induction lanes generalizing s with
  | nil => exact ⟨rfl, rfl, rfl⟩
  | cons l rest ih =>
    rw [List.forall_mem_cons] at hy
    obtain ⟨hown, hspad, hmem⟩ := laneWrite_leaves (x := lane x l.1 w) hm hy.1
    obtain ⟨hown', hspad', hmem'⟩ := ih ((keeps_laneWrite (w / 8) l.2 (lane x l.1 w) (.refl s)).wf hm) hy.2
    exact ⟨hown'.trans hown, hspad'.trans hspad, hmem'.trans hmem⟩

end Sys2Proof.Machine
end

section
/-! SUPPORT. Vector accesses to global memory, gathers and scatters (R126, R127), and the configuration of a stream (R129). -/

namespace Sys2Proof.Machine

/-- An access whose popped source is given back where it has to wait. -/
def Eff.heldAt (s : State) : Eff → Eff
  | .hold _ => .hold s
  | e => e

/-- An access that is not typed converts nothing, and neither does one of raw data or of the page's own type. -/
theorem converts_nothing {e fmt t : BitVec 5} {typed : Bool} (h : e = 0 ∨ typed = false ∨ fmt = 0x1F ∨ fmt = t) :
    e = 0 ∨ (if typed then some t else none) = none ∨ fmt = 0x1F ∨ (if typed then some t else none) = some fmt := by
  obtain h | rfl | h | rfl := h
  · exact .inl h
  · exact .inr (.inl rfl)
  · exact .inr (.inr (.inl h))
  · cases typed with
    | false => exact .inr (.inl rfl)
    | true => exact .inr (.inr (.inr rfl))

/-! ### VLDG and VSTG -/

/-- VLDG without an active lane does nothing (R109, log entry 23). -/
theorem vldgEffect_noLane {f : Fields} {u : State} (hn : u.noLane f (globalWidth f (u.globalOffset f.opB).2) = true) :
    vldgEffect f u = .ok u := if_pos hn

/-- An accepted VLDG that converts nothing, or with no enable set, joins the outstanding accesses. -/
theorem vldgEffect_accepted {f : Fields} {u : State} {r : Reached} :
    let ea := u.val f.opA + (u.globalOffset f.opB).1
    let typed := (u.globalOffset f.opB).2
    let ty := if typed then some (selType f.sel) else none
    let w := globalWidth f typed
    let v := atStation u r
    u.noLane f w = false → accepted u true 0 (vectorReached .read f ea typed) r → v.isShadow = false →
      (v.enables = 0 ∨ typed = false ∨ r.fmt = 0x1F ∨ r.fmt = selType f.sel) →
      vldgEffect f u = .ok (v.enqueue (access v ea .load r ty w (.v f.opD.num) (v.tableFor r.fmt))) := by
  intro ea typed ty w v hn ha hs hc
  exact (if_neg (ne_true_of_eq_false hn)).trans ((station_accepted ha).trans (acceptLoad_ok hs (converts_nothing hc)))

/-- VSTG without an active lane leaves its source popped (R109, log entry 23). -/
theorem vstgEffect_noLane {f : Fields} {u m : State} {x : Vec} (hx : u.delivers (globalWidth f (u.globalOffset f.opB).2) f.opD m x)
    (hn : u.noLane f (globalWidth f (u.globalOffset f.opB).2) = true) : vstgEffect f u = .ok m := by
  unfold vstgEffect
  exact (withSource_delivers _ hx).trans (if_pos hn)

/-- An accepted VSTG joins the outstanding accesses with its encoded data, no raised flag of which is enabled. -/
theorem vstgEffect_accepted {f : Fields} {u m : State} {x : Vec} {r : Reached} :
    let ea := u.val f.opA + (u.globalOffset f.opB).1
    let typed := (u.globalOffset f.opB).2
    let ty := if typed then some (selType f.sel) else none
    let w := globalWidth f typed
    let v := atStation m r
    let d := storeParts ty r.fmt v.top v.rmode (fun i => lane x i w) r.parts
    u.delivers w f.opD m x → u.noLane f w = false → accepted m false 1 (vectorReached .write f ea typed) r → d.2 &&& v.enables = 0 →
      vstgEffect f u = .ok ((acceptStore ea d.1 v).raiseFlags (some 1) d.2) := by
  intro ea typed ty w v d hx hn ha hf
  unfold vstgEffect
  refine (withSource_delivers _ hx).trans ((if_neg (ne_true_of_eq_false hn)).trans ?_)
  exact congrArg (Eff.heldAt u) ((station_accepted ha).trans (storeLanes_ok hf))

/-! ### VGATH and VSCAT -/

section
variable {f : Fields} {u m m' : State} {x idx : Vec} {r : Reached}
  (hx : u.delivers (selWidth f.sel) f.opB m idx) (ha : (u.val f.opA).toNat % (selWidth f.sel / 8) = 0)
include hx ha

/-- VGATH of an aligned base: a local load, nothing without an active lane, or an access of its station. -/
theorem vgathEffect_aligned :
    let w := selWidth f.sel
    let base := u.val f.opA
    let lanes := u.gatherLanes f idx
    vgathEffect f u = if isLocalKind f.opA then (localLoad f .gather lanes m).heldAt u
      else if lanes.isEmpty then .ok m
      else (station true 0 (fun s => s.rawParts .read (w / 8) lanes) m fun s r =>
        acceptLoad base none w (.v f.opD.num) s r).heldAt u := by
  intro w base lanes
  unfold vgathEffect
  exact (withSource_delivers _ hx).trans (if_neg (by simpa using ha))

/-- VSCAT of an aligned base: a local store, nothing without an active lane, or an access of its station. -/
theorem vscatEffect_aligned (hd : m.delivers (selWidth f.sel) f.opD m' x) :
    let w := selWidth f.sel
    let base := u.val f.opA
    let lanes := u.gatherLanes f idx
    vscatEffect f u = if isLocalKind f.opA then localStore u f x lanes m'
      else if lanes.isEmpty then .ok m'
      else (station false 1 (fun s => s.rawParts .write (w / 8) lanes) m' (storeLanes base none fun i => lane x i w)).heldAt u := by
  intro w base lanes
  unfold vscatEffect
  exact (withSource_delivers _ hx).trans ((withSource_delivers _ hd).trans (if_neg (by simpa using ha)))

/-- VGATH in the local window whose lanes pass their checks; a shadow's own scratchpad read is its primary's (R312). -/
theorem vgathEffect_local :
    let w := selWidth f.sel
    let lanes := u.gatherLanes f idx
    let q := m.caughtUp.readLanes (w / 8) lanes
    let y := packLanes w q.2
    isLocalKind f.opA = true → m.laneChecks (w / 8) false lanes = none → anySpad (w / 8) lanes = false ∨ q.1.isShadow = false →
      vgathEffect f u = .ok (q.1.putLocked f.opD.num (.v (f.opD.num.toNat - 64) y.2 y.1)) := by
  intro w lanes q y hl hc hs
  exact (vgathEffect_aligned hx ha).trans ((if_pos hl).trans (congrArg (Eff.heldAt u) (localLoad_own hc hs)))

/-- A global VGATH without an active lane leaves its index popped (R109, log entry 23). -/
theorem vgathEffect_noLane (hl : isLocalKind f.opA = false) (hn : u.gatherLanes f idx = []) : vgathEffect f u = .ok m :=
  (vgathEffect_aligned hx ha).trans ((if_neg (ne_true_of_eq_false hl)).trans (if_pos (List.isEmpty_iff.2 hn)))

/-- An accepted VGATH joins the outstanding accesses. -/
theorem vgathEffect_accepted :
    let w := selWidth f.sel
    let lanes := u.gatherLanes f idx
    let v := atStation m r
    isLocalKind f.opA = false → lanes ≠ [] → accepted m true 0 (fun s => s.rawParts .read (w / 8) lanes) r → v.isShadow = false →
      vgathEffect f u = .ok (v.enqueue (access v (u.val f.opA) .load r none w (.v f.opD.num) (v.tableFor r.fmt))) := by
  intro w lanes v hl hn hacc hs
  refine (vgathEffect_aligned hx ha).trans ((if_neg (ne_true_of_eq_false hl)).trans ((if_neg (mt List.isEmpty_iff.1 hn)).trans ?_))
  exact congrArg (Eff.heldAt u) ((station_accepted hacc).trans (acceptLoad_ok hs (.inr (.inl rfl))))

section
variable (hd : m.delivers (selWidth f.sel) f.opD m' x)
include hd

/-- VSCAT in the local window whose lanes pass their checks and meet no Kiln command's source. -/
theorem vscatEffect_local :
    let w := selWidth f.sel
    let lanes := u.gatherLanes f idx
    isLocalKind f.opA = true → m'.laneChecks (w / 8) true lanes = none →
      (lanes.any fun l => (lplace l.2.toNat (w / 8)).any fun pl => m'.storeHeld pl l.2.toNat (w / 8)) = false →
      vscatEffect f u = .ok (m'.caughtUp.writeLanes w x lanes) := by
  intro w lanes hl hc hh
  exact (vscatEffect_aligned hx ha hd).trans ((if_pos hl).trans (localStore_ok hc hh))

/-- A global VSCAT without an active lane leaves its sources popped (R109, log entry 23). -/
theorem vscatEffect_noLane (hl : isLocalKind f.opA = false) (hn : u.gatherLanes f idx = []) : vscatEffect f u = .ok m' :=
  (vscatEffect_aligned hx ha hd).trans ((if_neg (ne_true_of_eq_false hl)).trans (if_pos (List.isEmpty_iff.2 hn)))

/-- An accepted VSCAT joins the outstanding accesses; data that are not typed raise no flag. -/
theorem vscatEffect_accepted :
    let w := selWidth f.sel
    let lanes := u.gatherLanes f idx
    let v := atStation m' r
    let d := storeParts none r.fmt v.top v.rmode (fun i => lane x i w) r.parts
    isLocalKind f.opA = false → lanes ≠ [] → accepted m' false 1 (fun s => s.rawParts .write (w / 8) lanes) r →
      vscatEffect f u = .ok ((acceptStore (u.val f.opA) d.1 v).raiseFlags (some 1) d.2) := by
  intro w lanes v d hl hn hacc
  have hf : d.2 &&& v.enables = 0 := by rw [storeParts_none]; exact BitVec.zero_and
  refine (vscatEffect_aligned hx ha hd).trans ((if_neg (ne_true_of_eq_false hl)).trans ((if_neg (mt List.isEmpty_iff.1 hn)).trans ?_))
  exact congrArg (Eff.heldAt u) ((station_accepted hacc).trans (storeLanes_ok hf))

end

end

/-! ### Streams -/

/-- SCFG binds its stream, or leaves it off with a COUNT of 0 (R129). -/
theorem scfgEffect_ok (f : Fields) (u : State) :
    let q := f.opD.num.toNat - 96
    let a := u.val f.opA
    let d := u.val f.opB
    let count : Word := (d.extractLsb' 0 32).zeroExtend 64
    scfgEffect f u = .ok ((u.drainPushes q).setStream q (if count = 0 then Stream.off else ⟨true, d, a, a, count, [], []⟩)) := by
  simp only [scfgEffect, beq_iff_eq]

end Sys2Proof.Machine
end

section
/-! SUPPORT. The settled statements of the vector instructions. -/

open Sys2Proof Sys2Proof.Machine Sys2Proof.Claims

namespace Sys2Proof.Proofs

/-- Settles O33: the sources deliver, and the destination accepts the lanes made of them. -/
theorem vectorIntegers : Obligations.VectorIntegers := by
  unfold Obligations.VectorIntegers
  refine ⟨fun row hrow f s v m t x y h hx hy ht => ?rows, fun f s v m t x y => ⟨fun h hx hy => ?vcmp, fun h hy hd ht => ?vsel,
    fun h hx hy hd ht => ?vclamp⟩⟩
  case rows => rw [exec_vectorRow hrow]; exact issue_ok h ((withSources_delivers _ hx hy).trans (setV_accepts ht))
  case vcmp => rw [exec_vcmp, execVcmp]; exact issue_ok h (withSources_delivers _ hx hy)
  case vsel => rw [exec_vsel, execVsel]; exact issue_ok h (vselEffect_ok hy hd ht)
  case vclamp =>
    rw [exec_vclamp, execVclamp]
    exact issue_ok h ((withSources_delivers _ hx hy).trans ((withDest_register hd).trans (setV_accepts ht)))

/-- Settles O34: a lane of the merge is the new vector's or the old one's, and the new one's is what was put there. -/
theorem laneResults : Obligations.LaneResults := by
  unfold Obligations.LaneResults
  intro w _ g act old i hi
  exact ⟨lane_ofLanes g hi, by rw [lane_merge act old _ hi, lane_ofLanes g hi]⟩

/-- Settles O36: the sources deliver, and the destination accepts the lanes that are moved or converted. -/
theorem vectorMoves : Obligations.VectorMoves := by
  unfold Obligations.VectorMoves
  refine fun f s v m t x y => ⟨fun h hx hy hd hf ht => ?vcvt, fun h hx hy ht => ?vpack, fun h hx hy ht => ?vunpk,
    fun h hx hy ht => ?vshuf, fun h hx ht => ?vbcast, fun h hx => ?vextr, fun h ht => ?vins⟩
  case vcvt =>
    rw [exec_vcvt, execVcvt]
    exact issue_ok h ((withSources_delivers _ hx hy).trans ((withDest_register hd).trans (fpVector_accepts hf ht)))
  case vpack => rw [exec_vpack, execVpack]; exact issue_ok h ((withSources_delivers _ hx hy).trans (setV_accepts ht))
  case vunpk => rw [exec_vunpk, execVunpk]; exact issue_ok h ((withSources_delivers _ hx hy).trans (setV_accepts ht))
  case vshuf => rw [exec_vshuf, execVshuf]; exact issue_ok h ((withSources_delivers _ hx hy).trans (setV_accepts ht))
  case vbcast => rw [exec_vbcast, execVbcast]; exact issue_ok h (vbcastEffect_ok hx ht)
  case vextr => rw [exec_vextr, execVextr]; exact issue_ok h (vextrEffect_ok hx)
  case vins => rw [exec_vins, execVins]; exact issue_ok h (setV_accepts ht)

/-- Settles O37: each source delivers, and no raised flag is enabled; the table load and LSUPD have no vector operand. -/
theorem reductionsAndTables : Obligations.ReductionsAndTables := by
  unfold Obligations.ReductionsAndTables
  refine fun f s m t x => ⟨fun h hx hf => ?vred, fun h hx hf ht => ?vscan, fun h hx hd hf ht => ?vqnt, fun h hx hf ht => ?vdqnt,
    fun h hx hf ht => ?vcbd, fun h ha hr hc hb => ?vcbdLt, fun h => ?lsupd⟩
  case vred => rw [exec_vred, execVred]; exact issue_ok h (vredEffect_ok hx hf)
  case vscan => rw [exec_vscan, execVscan]; exact issue_ok h (vscanEffect_ok hx hf ht)
  case vqnt => rw [exec_vqnt, execVqnt]; exact issue_ok h (vqntEffect_ok hx hd hf ht)
  case vdqnt => rw [exec_vdqnt, execVdqnt]; exact issue_ok h (vdqntEffect_ok hx hf ht)
  case vcbd => rw [exec_vcbd, execVcbd]; exact issue_ok h (vcbdEffect_ok hx hf ht)
  case vcbdLt => rw [exec_vcbdLt, execVcbdLt]; exact issue_ok h (vcbdLtEffect_ok ha hr hc hb)
  case lsupd => rw [exec_lsupd, execLsupd]; exact issue_ok h rfl

/-- Settles O38: the lanes pass their checks and are read or written in order, or the first that fails traps. -/
theorem vectorLocal : Obligations.VectorLocal := by
  unfold Obligations.VectorLocal
  refine fun f s => ⟨fun h => ⟨fun hr => ?range, fun t hr hc => ?loadTrap, fun hr hc hs => ⟨fun ha => ?read, fun hp => ?plain,
      fun ht => ?transposed⟩⟩,
    fun h => ⟨fun ho hr hc hh => ?register, fun m x hx hr hc hh => ?store, fun m x t hx hr hc => ?storeTrap, fun m x ha => ?written,
      fun m x a hm ha hout => ?left⟩⟩
  case range => rw [exec_vldl, execVldl]; exact issue_trap h (vldlEffect_range hr)
  case loadTrap => rw [exec_vldl, execVldl]; exact issue_trap h ((vldlEffect_load hr).trans (localLoad_trap hc))
  case read => exact readLanes_stands _ _ ha
  case plain => rw [exec_vldl, execVldl]; exact issue_ok h (vldlEffect_ok (if_neg (ne_true_of_eq_false hp)) hr hc hs)
  case transposed => rw [exec_vldl, execVldl]; exact issue_ok h (vldlEffect_ok (if_pos ht) hr hc hs)
  case register =>
    rw [exec_vstl, execVstl]
    exact issue_ok h ((vstlEffect_store (delivers_of_register ho) hr).trans (localStore_ok hc hh))
  case store => rw [exec_vstl, execVstl]; exact issue_ok h ((vstlEffect_store hx hr).trans (localStore_ok hc hh))
  case storeTrap => rw [exec_vstl, execVstl]; exact issue_trap h ((vstlEffect_store hx hr).trans (localStore_trap hc))
  case written => exact writeLanes_alone _ x _ ha
  case left => exact writeLanes_leaves x hm ha hout

/-- Settles O39: the station accepts what was translated, the local window is read or written, or there is no active lane. -/
theorem vectorGlobal : Obligations.VectorGlobal := by
  unfold Obligations.VectorGlobal
  refine fun f s m x idx m' r => ⟨fun h => ⟨fun hn => ?vldgNone, fun hn ha hs hc => ?vldg⟩,
    fun h hx => ⟨fun hn => ?vstgNone, fun hn ha hf => ?vstg⟩,
    fun h hx ha => ⟨fun hl hc hs => ?vgathLocal, fun hl hn => ?vgathNone, fun hl hn hacc hs => ?vgath⟩,
    fun h hx hd ha => ⟨fun hl hc hh => ?vscatLocal, fun hl hn => ?vscatNone, fun hl hn hacc => ?vscat⟩⟩
  case vldgNone => rw [exec_vldg, execVldg]; exact issue_ok h (vldgEffect_noLane hn)
  case vldg => rw [exec_vldg, execVldg]; exact issue_ok h (vldgEffect_accepted hn ha hs hc)
  case vstgNone => rw [exec_vstg, execVstg]; exact issue_ok h (vstgEffect_noLane hx hn)
  case vstg => rw [exec_vstg, execVstg]; exact issue_ok h (vstgEffect_accepted hx hn ha hf)
  case vgathLocal => rw [exec_vgath, execVgath]; exact issue_ok h (vgathEffect_local hx ha hl hc hs)
  case vgathNone => rw [exec_vgath, execVgath]; exact issue_ok h (vgathEffect_noLane hx ha hl hn)
  case vgath => rw [exec_vgath, execVgath]; exact issue_ok h (vgathEffect_accepted hx ha hl hn hacc hs)
  case vscatLocal => rw [exec_vscat, execVscat]; exact issue_ok h (vscatEffect_local hx ha hd hl hc hh)
  case vscatNone => rw [exec_vscat, execVscat]; exact issue_ok h (vscatEffect_noLane hx ha hd hl hn)
  case vscat => rw [exec_vscat, execVscat]; exact issue_ok h (vscatEffect_accepted hx ha hd hl hn hacc)

/-- Settles O40: each effect completes as it is written, and the streams' steps are events. -/
theorem streams : Obligations.Streams := by
  unfold Obligations.Streams
  refine fun f s => ⟨fun h => ?scfg, fun h => ?sstat, fun h => ?drain, fun hp q => ⟨happens_event hp rfl, happens_event hp rfl⟩⟩
  case scfg => rw [exec_scfg, execScfg]; exact issue_ok h (scfgEffect_ok f _)
  case sstat => rw [exec_sstat, execSstat]; exact issue_ok h rfl
  case drain => rw [exec_sstatDrain, execSstatDrain]; exact issue_ok h rfl

end Sys2Proof.Proofs
end

section
/-! SUPPORT. The Kiln at issue: a command enters the queue that has room for it, and a join goes on once the queue is empty (R138, R147,
R158, R184, R207). -/

namespace Sys2Proof.Machine

/-! ### Queued commands -/

/-- What a command captures at issue is not in the entries of the translations that a station keeps (R156, R178). -/
@[simp] theorem command_keep (ks : List Kept) (s : State) (op : KilnOp) (x b : Word) (d : Nat) (cb : Bool) (ps : List (Nat × Nat)) :
    (s.keep ks).command op x b d cb ps = s.command op x b d cb ps := rfl

/-- A command with an operand enters the queue with what it captures, when there is room, the operand passes its data traps and every
home is ready (R138, R147). -/
theorem kilnIssue_enters {h : TileHeader} {spans : List (Nat × Nat)} {op : KilnOp} {x b : Word} {d : Nat} {cb : Bool} {s : State}
    {ps : List (Nat × Nat)} {ks : List Kept} (room : s.core.kq.length < 16) (sound : s.operandPages h spans = .ok (ps, ks))
    (ready : s.homes (ps.map fun p => (BitVec.ofNat 64 (max (4096 * p.1) h.addr.toNat), p.2)) = none) :
    kilnIssue h spans (fun s ps => s.command op x b d cb ps) s =
      .ok ((s.keep ks).enterQueue ((s.keep ks).command op x b d cb ps)) := by
  unfold kilnIssue
  rw [if_neg (Nat.not_le.2 room)]
  simp only [sound, ready, command_keep]

/-- KEST without a norm slot, or with one that registered its region, is issued as a command with an operand (R184). -/
theorem kestEffect_registered {f : Fields} {s : State} :
    let x := s.val f.opA
    let b := s.val f.opB
    let h := tileHeader x
    (h.slot = 0 ∨ (s.registration h.slot.toNat).any (sameRegion h (bSpec b).n) = true) →
      kestEffect f s = kilnIssue h (rowSpans h 16 (bSpec b).n)
        (fun s ps => s.command .est x b (accNum f.opD) (f.sel == 1) ps) s := by
  intro x b h registered
  exact if_neg (by simpa [or_iff_not_imp_left] using registered)

/-- KZERO enters the queue that has room (R159). -/
theorem kzeroEffect_enters {f : Fields} {s : State} (room : s.core.kq.length < 16) :
    kzeroEffect f s = .ok (s.enterQueue (s.command .zero 0 0 (s.val f.opA).toNat false [])) := if_neg (Nat.not_le.2 room)

/-- KNORM.REL enters the queue that has room (R183). -/
theorem knormRelEffect_enters {f : Fields} {s : State} (room : s.core.kq.length < 16) :
    knormRelEffect f s = .ok (s.enterQueue (s.command .normRel 0 0 (s.val f.opA).toNat false [])) := if_neg (Nat.not_le.2 room)

/-! ### Joins -/

/-- A join goes on once its core's queue is empty (R158). -/
theorem joined_of_empty {s : State} {k : Eff} (h : s.core.kq = []) : joined s k = k := if_pos (List.isEmpty_iff.2 h)

/-- A chunk that holds no uncorrectable error is read (R207). -/
theorem chunkSound_of_sound {a : Nat} {s : State} {k : Eff} (h : s.core.badAcc.contains (a / 64) = false) : chunkSound a s k = k :=
  if_neg (ne_true_of_eq_false h)

section
variable {f : Fields} {s t : State} (empty : s.core.kq = [])
  (sound : s.core.badAcc.contains (chunkAt (accNum f.opA) (s.val f.opB) / 64) = false)
include empty sound

/-- KMOV.R of a sound chunk, whose destination accepts it (R158). -/
theorem kmovREffect_accepted
    (ht : s.accepts none f.opD (BitVec.allOnes 512) (s.ctx.tiles.acc.vec (chunkAt (accNum f.opA) (s.val f.opB))) t) :
    kmovREffect f s = .ok t :=
  (joined_of_empty empty).trans ((chunkSound_of_sound sound).trans (setV_accepts ht))

/-- KMOV.RZ of a sound chunk, whose destination accepts it once the chunk is zeroed (R158). -/
theorem kmovRzEffect_accepted :
    let a := chunkAt (accNum f.opA) (s.val f.opB)
    (s.setAcc (s.ctx.tiles.acc.store a 64 0)).accepts none f.opD (BitVec.allOnes 512) (s.ctx.tiles.acc.vec a) t →
      kmovRzEffect f s = .ok t := by
  intro a ht
  exact (joined_of_empty empty).trans ((chunkSound_of_sound sound).trans (setV_accepts ht))

end

end Sys2Proof.Machine
end

section
/-! SUPPORT. The steps of the Kiln: when each changes nothing, and what the completion of a command and a budget window leave (R136,
R148, R151 to R153, R171, R350, R351). -/

namespace Sys2Proof.Machine

/-- No command has the property: there is no first one that has it. -/
theorem findIdx?_of_any_false {α : Type} {p : α → Bool} {l : List α} (h : l.any p = false) : l.findIdx? p = none := by
  rw [← Option.not_isSome_iff_eq_none, List.findIdx?_isSome, h]
  exact Bool.false_ne_true

/-- A command that may not start and has not started is left (R148). -/
theorem startCmd_idle {s : State} {k : Nat} (waits : s.startable k = false) (fresh : (s.core.kq[k]?.any (·.started)) = false) :
    s.startCmd k = s := by
  unfold State.startCmd
  rw [if_neg (ne_true_of_eq_false waits), if_neg (ne_true_of_eq_false fresh)]

/-- While no KEST chooses, nothing is selected (R171). -/
theorem selectEst_idle {s : State} (h : s.core.kq.any (·.chooses) = false) : s.selectEst = s := by
  unfold State.selectEst
  rw [findIdx?_of_any_false h]

/-- While the next pass may not start, none is granted (R151). -/
theorem grantPass_idle {s : State} (h : ∀ x, s.nextPass = some x → s.passMayStart s.core.idx x.2.2 x.2.1.isF64 = false) :
    s.grantPass = s := by
  unfold State.grantPass
  split
  · rfl
  · next k c m hx => exact if_neg (ne_true_of_eq_false (h _ hx))

/-- A pass that may start has its place free, budget, and the turn of its queue (R136, R151, R350). -/
theorem passMayStart_conditions {s : State} {i m : Nat} {f64 : Bool} (h : s.passMayStart i m f64 = true) :
    s.macroFree m f64 = true ∧ s.overBudget = false ∧ s.nextQueue = some i := by
  simp only [State.passMayStart, Bool.and_eq_true, beq_iff_eq, Bool.not_eq_true'] at h
  obtain ⟨⟨⟨turn, free⟩, budget⟩, -⟩ := h
  exact ⟨free, budget, turn⟩

/-- While no pass is over, none finishes (R136). -/
theorem finishPass_idle {s : State} (h : (s.core.kq.any fun c => c.passOver s.core.cyc) = false) : s.finishPass = s := by
  unfold State.finishPass
  rw [findIdx?_of_any_false h]

/-- A command that may not complete does not (R152). -/
theorem finishCmd_idle {s : State} {k : Nat} (h : s.completable k = false) : s.finishCmd k = s :=
  if_pos (by rw [h, Bool.not_false])

/-- Only a command of the queue completes. -/
theorem completable_command {s : State} {k : Nat} (h : s.completable k = true) : ∃ c, s.core.kq[k]? = some c := by
  unfold State.completable at h
  split at h
  · exact absurd h Bool.false_ne_true
  · next c hc => exact ⟨c, hc⟩

/-- Reports of uncorrectable granules leave the core (R406). -/
theorem uncorrectables_core (gs : List Nat) (s : State) : (gs.foldl (fun s a => s.uncorrectable a) s).core = s.core := by
  induction gs generalizing s with
  | nil => rfl
  | cons g gs ih => exact (ih _).trans (uncorrectable_leaves g s).1

/-- A command that completes leaves the queue (R152). -/
theorem finishCmd_kq {s : State} {k : Nat} (h : s.completable k = true) : (s.finishCmd k).core.kq = s.core.kq.eraseIdx k := by
  obtain ⟨c, hc⟩ := completable_command h
  have reported : (if c.ecode = 3 then c.badGranules.foldl (fun s a => s.uncorrectable a) s else s).core = s.core := by
    split
    · exact uncorrectables_core _ s
    · rfl
  unfold State.finishCmd
  rw [if_neg (by simp [h])]
  simp only [hc, reported]

/-! ### Budget windows -/

/-- Within its window the arbiter is as it stands (R350). -/
theorem budgetWindow_within {s : State} (h : s.core.cyc < s.cl.arb.start + 64) : s.budgetWindow = s := by
  have same : s.arbiter = s.cl.arb := if_pos (Nat.div_eq_of_lt (by omega))
  unfold State.budgetWindow
  rw [same]

/-- A window that begins has counted no start (R350). -/
theorem budgetWindow_count {s : State} (h : s.cl.arb.start + 64 ≤ s.core.cyc) : s.budgetWindow.cl.arb.count = 0 := by
  have passed : (s.core.cyc - s.cl.arb.start) / 64 ≠ 0 := by omega
  unfold State.budgetWindow State.arbiter
  rw [if_neg passed]

end Sys2Proof.Machine
end

section
/-! SUPPORT. The steps of the copy engine: claims of full and of other queues, and when a packet or a job is left as it is (R251, R252,
R260 to R266). -/

namespace Sys2Proof.Machine

/-! ### Queues -/

/-- A claim of a full queue changes nothing and answers all ones (R251). -/
theorem claimAt_full {s : State} {pa : Nat} (h : s.slots pa ≤ s.claimed pa) : s.claimAt pa = (s, BitVec.allOnes 64) :=
  if_neg (Nat.not_lt.2 h)

/-- A claim of a queue with room answers W and advances it (R251). -/
theorem claimAt_room {s : State} {pa : Nat} (h : s.claimed pa < s.slots pa) :
    s.claimAt pa = (s.homeStore pa 8 (low56 (s.desc pa 0 + 1)), BitVec.ofNat 64 (low56 (s.desc pa 0))) := if_pos h

/-- A queue whose turn it is not is not read (R266). -/
theorem readPacket_idle {s : State} {q : Nat} (h : s.slotTurn q = false) : s.readPacket q = s := if_pos (by rw [h, Bool.not_false])

/-! ### Jobs -/

section
variable {s : State} {j : Nat} {x : Job} (hx : s.job j = some x)
include hx

/-- A job that may start does, and keeps what its destination held (R265). -/
theorem startJob_of_job :
    s.startJob j = if s.jobStartable j then s.setJob j { x with started := true, old := s.oldBytes x } else s := by
  unfold State.startJob
  rw [hx]

/-- A job that may not move bytes does not (R266). -/
theorem burstJob_idle (h : s.jobMoving j = false) : s.burstJob j = s := by
  unfold State.burstJob
  rw [hx]
  exact if_neg (ne_true_of_eq_false h)

/-- A job that owes no clip message delivers none (R260). -/
theorem clipMsg_idle (h : x.owesMessage = false) : s.clipMsg j = s := by
  unfold State.clipMsg
  rw [hx]
  exact if_neg (ne_true_of_eq_false h)

/-- A job whose stamp may not be written writes none (R261, R263). -/
theorem stampJob_idle (h : s.stampable j = false) : s.stampJob j = s := by
  unfold State.stampJob
  rw [hx]
  exact if_neg (ne_true_of_eq_false h)

/-- A job that does not go on, or has yet to write its stamp, reads no linked packet (R263). -/
theorem linkJob_idle (h : (x.stampDone && x.goesOn) = false) : s.linkJob j = s := by
  unfold State.linkJob
  rw [hx]
  exact if_neg (ne_true_of_eq_false h)

end

end Sys2Proof.Machine
end

section
/-! SUPPORT. The settled statements of the Kiln and of the engines. -/

open Sys2Proof Sys2Proof.Machine Sys2Proof.Claims

namespace Sys2Proof.Proofs

/-- Settles O41: each effect is the issue of its command, which enters the queue. -/
theorem kilnCommands : Obligations.KilnCommands := by
  unfold Obligations.KilnCommands
  refine fun f s ps ks => ⟨fun h room sound ready => ?kldb, fun h room sound ready => ?kmul, fun h room sound ready => ?kmulb,
    fun h room sound ready => ?knorm, fun registered h room sound ready => ?kest, fun h room => ?kzero, fun h room => ?knormRel⟩
  case kldb => rw [exec_kldb, execKldb]; exact issue_ok h (kilnIssue_enters room sound ready)
  case kmul => rw [exec_kmul, execKmul]; exact issue_ok h (kilnIssue_enters room sound ready)
  case kmulb => rw [exec_kmulb, execKmulb]; exact issue_ok h (kilnIssue_enters room sound ready)
  case knorm => rw [exec_knorm, execKnorm]; exact issue_ok h (kilnIssue_enters room sound ready)
  case kest =>
    rw [exec_kest, execKest]
    exact issue_ok h ((kestEffect_registered registered).trans (kilnIssue_enters room sound ready))
  case kzero => rw [exec_kzero, execKzero]; exact issue_ok h (kzeroEffect_enters room)
  case knormRel => rw [exec_knormRel, execKnormRel]; exact issue_ok h (knormRelEffect_enters room)

/-- Settles O42: a join's queue is empty, and the other effects complete as they are written. -/
theorem kilnRegisters : Obligations.KilnRegisters := by
  unfold Obligations.KilnRegisters
  refine fun f s t => ⟨fun h empty sound ht => ?kmovR, fun h empty sound ht => ?kmovRz, fun h join => ?kmovW, fun h _ => ?kcfg,
    fun h _ => ?kstat, fun h join => ?kstatJ, fun h join => ?kstatJc, fun h join => ?ksync, fun h join => ?kevar, fun h _ => ?kseed,
    fun h _ => ?kseedTc, fun h _ => ?klim⟩
  case kmovR => rw [exec_kmovR, execKmovR]; exact issue_ok h (kmovREffect_accepted empty sound ht)
  case kmovRz => rw [exec_kmovRz, execKmovRz]; exact issue_ok h (kmovRzEffect_accepted empty sound ht)
  case kmovW => rw [exec_kmovW, execKmovW]; exact issue_ok h (joined_of_empty (join rfl))
  case kcfg => rw [exec_kcfg, execKcfg]; exact issue_ok h rfl
  case kstat => rw [exec_kstat, execKstat]; exact issue_ok h rfl
  case kstatJ => rw [exec_kstatJ, execKstatJ]; exact issue_ok h (joined_of_empty (join rfl))
  case kstatJc => rw [exec_kstatJc, execKstatJc]; exact issue_ok h (joined_of_empty (join rfl))
  case ksync => rw [exec_ksync, execKsync]; exact issue_ok h (joined_of_empty (join rfl))
  case kevar => rw [exec_kevar, execKevar]; exact issue_ok h (joined_of_empty (join rfl))
  case kseed => rw [exec_kseed, execKseed]; exact issue_ok h rfl
  case kseedTc => rw [exec_kseedTc, execKseedTc]; exact issue_ok h rfl
  case klim => rw [exec_klim, execKlim]; exact issue_ok h rfl

/-- Settles O56: each step is an event, and changes nothing where its condition fails. -/
theorem engineEvents : Obligations.EngineEvents := by
  unfold Obligations.EngineEvents
  refine fun s hp => ⟨fun k => ⟨happens_event hp rfl, startCmd_idle⟩, happens_event hp rfl, selectEst_idle, happens_event hp rfl,
    grantPass_idle, fun m f64 => passMayStart_conditions, happens_event hp rfl, finishPass_idle,
    fun k => ⟨happens_event hp rfl, finishCmd_idle, finishCmd_kq⟩, happens_event hp rfl, budgetWindow_within, budgetWindow_count,
    fun pa => ⟨(happens_event hp (exec_queueClaim pa s) :), claimAt_full, claimAt_room⟩,
    fun pa v => (happens_event hp (exec_queueStatWrite pa v s) :), fun q => ⟨happens_event hp rfl, readPacket_idle⟩,
    fun j x hx => ⟨happens_of_eq hp rfl (startJob_of_job hx), happens_event hp rfl, burstJob_idle hx, happens_event hp rfl,
      clipMsg_idle hx, happens_event hp rfl, stampJob_idle hx, happens_event hp rfl, linkJob_idle hx⟩⟩

end Sys2Proof.Proofs
end

section
/-! SUPPORT. The gears, the sags and the refreshes: when a step changes nothing, and what a handover and a refresh leave (R206, R208,
R342, R344, R354). -/

namespace Sys2Proof.Machine

/-! ### Time -/

/-- A store at a home takes no fabric time. -/
@[simp] theorem homeStore_cycle (pa n x : Nat) (s : State) : (s.homeStore pa n x).pkg.cycle = s.pkg.cycle := by
  unfold State.homeStore
  split
  · rfl
  · extract_lets whole lost mem pkg t
    split <;> rfl

/-- A trace record takes no fabric time. -/
@[simp] theorem trace_cycle (k : Nat) (v : Word) (s : State) : (s.trace k v).pkg.cycle = s.pkg.cycle := by
  unfold State.trace
  extract_lets t cap pa w1 u
  split
  · exact (homeStore_cycle ..).trans (homeStore_cycle ..)
  · rfl

/-! ### Gears -/

/-- A lift that may neither begin nor end, or that a pass or a burst holds up, changes nothing (R342, R344). -/
theorem liftGear_idle {on : Bool} {s : State} (h : s.liftable on = false ∨ s.passing = true) : s.liftGear on = s :=
  if_pos (by simpa using h)

/-- The gear in which a handover ends (R342, R354). -/
theorem newGear_gear (n : Bool) (s : State) :
    (s.newGear n).cl.gear = { s.cl.gear with n, handover := none, sag := false, sagLeft := 0 } :=
  congrArg Cluster.gear (trace_leaves 5 _ _).2.1

/-- The change of the gear takes no fabric time. -/
@[simp] theorem newGear_cycle (n : Bool) (s : State) : (s.newGear n).pkg.cycle = s.pkg.cycle := trace_cycle ..

/-- Without a handover none ends. -/
theorem endHandover_idle {s : State} (h : s.cl.gear.handover = none) : s.endHandover = s := by
  unfold State.endHandover
  rw [h]

/-- A handover ends once its time has passed (R342). -/
theorem endHandover_of_handover {n : Bool} {due : Nat} {s : State} (h : s.cl.gear.handover = some (n, due)) :
    s.endHandover = (s.fabric (due - s.pkg.cycle)).newGear n := by
  unfold State.endHandover
  rw [h]

/-- What the end of a handover leaves: its gear, no handover, and a cycle that is not before its time (R342). -/
theorem endHandover_leaves {n : Bool} {due : Nat} {s : State} (h : s.cl.gear.handover = some (n, due)) :
    s.endHandover.cl.gear.n = n ∧ s.endHandover.cl.gear.handover = none ∧ s.endHandover.pkg.cycle = max s.pkg.cycle due := by
  have passed : (s.fabric (due - s.pkg.cycle)).pkg.cycle = max s.pkg.cycle due := by
    show s.pkg.cycle + (due - s.pkg.cycle) = max s.pkg.cycle due
    omega
  rw [endHandover_of_handover h, newGear_gear, newGear_cycle]
  exact ⟨rfl, rfl, passed⟩

/-! ### Sags -/

/-- A sag begins unless one is in progress or the clock stands (R354). -/
theorem stretch_eq (s : State) : s.stretch =
    if s.cl.gear.sag = true ∨ s.cl.gear.handover ≠ none then s else s.setGear { s.cl.gear with sag := true, sagLeft := 16 } := by
  simp only [State.stretch, Bool.or_eq_true, Option.isSome_iff_ne_none]

/-- A sag ends after its last cycle (R354). -/
theorem endSag_eq (s : State) : s.endSag =
    if s.cl.gear.sag = true ∧ s.cl.gear.sagLeft = 0 then s.setGear { s.cl.gear with sag := false } else s := by
  simp only [State.endSag, State.sagOver, Bool.and_eq_true, beq_iff_eq]

/-! ### Refreshes -/

section
variable {c l : Nat} {s : State}

/-- A refresh does not begin before its time (R206). -/
theorem refresh_early (h : s.pkg.cycle < s.nextRefresh c l) : s.refresh c l = s := if_pos (by simp [h])

/-- A refresh that has come due begins at its time, and blocks its half-channel for 240 fabric cycles (R206). -/
theorem refresh_due (due : s.nextRefresh c l ≤ s.pkg.cycle) (hc : c < 4096) (hl : l ≤ 1) :
    s.refresh c l = { s with pkg := { s.pkg with
      refreshes := (c, l, s.nextRefresh c l) :: s.pkg.refreshes.filter fun x => !(x.1 == c && x.2.1 == l)
      blocked := (c, l, s.nextRefresh c l + 240) :: s.pkg.blocked.filter fun b => !(b.1 == c && b.2.1 == l) } } :=
  if_neg (by simp [due, hc, hl])

/-- The refresh after one whose start is the first entry of its half-channel begins a period later (R206). -/
theorem nextRefresh_of_head {start : Nat} {rest : List (Nat × Nat × Nat)} (h : s.pkg.refreshes = (c, l, start) :: rest) :
    s.nextRefresh c l = start + s.refreshPeriod c l := by
  have found : (s.pkg.refreshes.find? fun x => x.1 == c && x.2.1 == l) = some (c, l, start) := by
    rw [h]
    exact List.find?_cons_of_pos (by simp)
  unfold State.nextRefresh
  rw [found]

/-- A refresh blocks its half-channel, and the next is a period of the layer's multiplier away (R206). -/
theorem refresh_leaves (due : s.nextRefresh c l ≤ s.pkg.cycle) (hc : c < 4096) (hl : l ≤ 1) :
    (c, l, s.nextRefresh c l + 240) ∈ (s.refresh c l).pkg.blocked ∧
      (s.refresh c l).nextRefresh c l = s.nextRefresh c l + s.refreshPeriod c l := by
  rw [refresh_due due hc hl]
  exact ⟨List.mem_cons_self .., nextRefresh_of_head rfl⟩

/-- What still blocks a half-channel after REFRESH_END ends later (R206). -/
theorem endRefresh_blocked {b : Nat × Nat × Nat} (hb : b ∈ (s.endRefresh c l).pkg.blocked) (hc : b.1 = c) (hl : b.2.1 = l) :
    s.pkg.cycle < b.2.2 := by
  have kept := (List.mem_filter.1 hb).2
  simpa [hc, hl] using kept

end

/-- A scrub that finds its granule sound changes nothing (R208). -/
theorem scrubAt_sound {pa : Nat} {s : State} : s.scrubAt pa false = s := rfl

end Sys2Proof.Machine
end

section
/-! SUPPORT. Waits (R195, R235, R241, R245 to R247): an instruction whose place has served it completes with the value, and one that
need not wait completes at once; and fences (R218). -/

namespace Sys2Proof.Machine

/-- An instruction whose wait has been served and whose effect completes falls through (R247). -/
theorem issue_ended {i : Instr} {f : Fields} {s t : State} {v : Word} {eff : State → Eff} (h : s.servedWith v) (he : eff s = .ok t) :
    issue i f eff s = .next (ended i f s t) := by
  rw [issue_served eff h, he]; rfl

/-- A core without a wait asks, whatever it would do once served. -/
theorem onServed_of_none {s : State} (done : Word → State → Eff) (ask : Eff) (h : s.core.wait = none) : onServed s done ask = ask :=
  onServed_ask done ask (by simp [State.waitServed, h])

/-- What is performed before an instruction publishes begins no wait (R221). -/
theorem published_wait {s : State} (h : s.core.wait = none) : s.published.core.wait = none := (behind_published s).wait h

/-! ### TAKE -/

/-- TAKE and TAKE.K issue with the effect of their kind. -/
theorem exec_takeRow {row : (Fields → Instr) × Bool} (hr : row ∈ [(Instr.take, false), (Instr.takeK, true)]) (f : Fields) (s : State) :
    exec (row.1 f) s = issue (row.1 f) f (takeEffect row.2 f) s := by
  simp only [List.mem_cons, List.not_mem_nil, or_false] at hr
  obtain rfl | rfl := hr
  · exact exec_take f s
  · exact exec_takeK f s

/-- TAKE and TAKE.K of a word that is full and sound at its slice (R235). -/
theorem takeAtHome_value {keep : Bool} {f : Fields} {ea v : Word} {s w : State} {r : Reached} {p : Part} {ps : List Part}
    (hparts : r.parts = p :: ps) (hown : s.isShadow = false) (sound : s.performAll.poisoned p.pa 8 = false)
    (hv : s.performAll.takeAt s.performAll.cl.index p.pa keep none = .value w v) :
    takeAtHome keep f ea s r = .ok (w.setS (some 1) f.opD v) := by
  unfold takeAtHome
  rw [hparts]
  dsimp only
  rw [if_neg (ne_true_of_eq_false hown), if_neg (ne_true_of_eq_false sound), hv]

/-- TAKE and TAKE.K that their station accepts are performed at the slice (R235). -/
theorem takeEffect_accepted {keep : Bool} {f : Fields} {u : State} {r : Reached} (hw : u.core.wait = none)
    (ha : accepted u true 0 (sliceReached 8 (u.val f.opA)) r) :
    takeEffect keep f u = takeAtHome keep f (u.val f.opA) (atStation u r) r := by
  unfold takeEffect
  dsimp only
  rw [onServed_of_none _ _ hw, if_neg (by rw [hw]; exact Bool.false_ne_true), station_accepted ha]

/-- TAKE and TAKE.K that their slice has served complete with the value (R235). -/
theorem takeEffect_served {keep : Bool} {f : Fields} {s : State} {v : Word} (h : s.servedWith v) :
    takeEffect keep f s = .ok (s.endWait.setS (some 1) f.opD v) := by
  unfold takeEffect
  exact onServed_done _ _ h

/-! ### MWAIT -/

/-- MWAIT of a word that satisfies it, and that is no stamp of the other TOP, completes (R78, R241). -/
theorem mwaitRead_satisfied {f : Fields} {k : WaitKind} {ne : Bool} {w b : Word} {s₀ s : State} (hsat : satisfies ne w b = true)
    (htop : w.getLsbD 59 = false ∨ w.getLsbD 60 = s.top) : mwaitRead f k ne w b s₀ s = .ok (s.endWait.setS (some 1) f.opD w) := by
  have typed : (w.getLsbD 59 && w.getLsbD 60 != s.endWait.top) = false := by
    obtain h | h := htop
    · rw [h, Bool.false_and]
    · rw [h, show s.endWait.top = s.top from rfl, bne_self_eq_false, Bool.and_false]
  unfold mwaitRead mwaitDone
  rw [if_pos hsat, if_neg (ne_true_of_eq_false typed)]

/-- A line that returns changes neither the bytes of global memory nor the queues (R233). -/
theorem touch_leaves (cluster pa : Nat) (s : State) :
    (s.touch cluster pa).pkg.mem = s.pkg.mem ∧ (s.touch cluster pa).pkg.descriptors = s.pkg.descriptors := by
  unfold State.touch State.lineReturn
  repeat' split
  all_goals exact ⟨rfl, rfl⟩

/-- Reading a word that is no queue's CLAIM gives the word in memory (R203, R251). -/
theorem streamWord_word {pa : Nat} {s : State} (h : s.isClaim pa 8 = false) :
    BitVec.ofNat 64 (s.streamWord pa).2 = (s.streamWord pa).1.pkg.mem.word pa := by
  have unclaimed : ¬(s.touch s.cl.index pa).isClaim pa 8 = true := by
    simpa only [State.isClaim, (touch_leaves s.cl.index pa s).2, Bool.not_eq_true] using h
  unfold State.streamWord
  dsimp only
  rw [if_neg unclaimed]
  rfl

/-- MWAIT of a global word at its home, which is sound, satisfies it and is not held by a refresh (R206, R241). -/
theorem mwaitGlobal_satisfied {f : Fields} {ea b : Word} {ne : Bool} {s : State} {r : Reached} {p : Part} {ps : List Part} :
    let m₀ := s.performAll.touch s.cl.index p.pa
    let m := (m₀.streamWord p.pa).1
    let w := BitVec.ofNat 64 (m₀.streamWord p.pa).2
    r.parts = p :: ps → s.isShadow = false → s.refreshHolds [p.pa] = false → m₀.poisoned p.pa 8 = false → satisfies ne w b = true →
      (w.getLsbD 59 = false ∨ w.getLsbD 60 = m.top) → mwaitGlobal f ea b ne s r = .ok (m.endWait.setS (some 1) f.opD w) := by
  intro m₀ m w hparts hown hfree sound hsat htop
  unfold mwaitGlobal
  rw [hparts]
  dsimp only
  rw [if_neg (ne_true_of_eq_false hown), if_neg (ne_true_of_eq_false hfree), if_neg (ne_true_of_eq_false sound)]
  exact mwaitRead_satisfied hsat htop

section
variable {f : Fields} {u : State} (hw : u.waitServed = false)
include hw

/-- MWAIT of a global word that its station accepts is performed at its home (R241). -/
theorem mwaitEffect_accepted {r : Reached} (hsel : f.sel.getLsbD 1 = false) (ha : accepted u true 0 (mwaitReached (u.val f.opA)) r) :
    mwaitEffect f u = mwaitGlobal f (u.val f.opA) (u.val f.opB) (f.sel.getLsbD 0) (atStation u r) r := by
  unfold mwaitEffect
  dsimp only
  rw [onServed_ask _ _ hw, if_neg (ne_true_of_eq_false hsel), station_accepted ha]

/-- MWAIT.L of a word of local store or of the context's own scratchpad reads it once what stands before is performed (R220, R241). -/
theorem mwaitEffect_local {pl : LPlace} (hsel : f.sel.getLsbD 1 = true) (hplace : u.lmemCheck (u.val f.opA) 8 false = .ok pl)
    (hpl : pl = .store ∨ pl = .spad) (hfoot : u.footprint pl (u.val f.opA).toNat 8 false = none)
    (hown : pl = .store ∨ u.caughtUp.isShadow = false) :
    mwaitEffect f u = mwaitRead f (.mwaitLocal (u.val f.opA).toNat (u.val f.opB) (f.sel.getLsbD 0)) (f.sel.getLsbD 0)
      (BitVec.ofNat 64 (u.caughtUp.lread pl (u.val f.opA).toNat 8)) (u.val f.opB) u.caughtUp u.caughtUp := by
  have allowed : ¬(pl != .store && pl != .spad) = true := by
    obtain rfl | rfl := hpl <;> decide
  have own : ¬(pl == .spad && u.caughtUp.isShadow) = true := by
    obtain rfl | h := hown
    · exact Bool.false_ne_true
    · simp [h]
  unfold mwaitEffect
  dsimp only
  rw [onServed_ask _ _ hw, if_pos hsel, hplace]
  dsimp only
  rw [if_neg allowed, hfoot]
  dsimp only
  rw [if_neg own]

end

/-! ### The event unit -/

section
variable {l : EvLine} {r : Nat} {v : Word} {f : Fields} {u w : State}

/-- A load of the event unit that need not wait completes with its value (R195, R245). -/
theorem evEffect_value {done : Word → State → Eff} (hw : u.core.wait = none) (hv : u.published.evLoad l r = .value w v) :
    u.evEffect l r done = done v w := by
  unfold State.evEffect
  rw [onServed_of_none _ _ hw]
  dsimp only
  rw [if_neg (by rw [published_wait hw]; exact Bool.false_ne_true), hv]

/-- A load of the event unit that its line has served completes with its value (R247). -/
theorem evEffect_served {done : Word → State → Eff} (h : u.servedWith v) : u.evEffect l r done = done v u.endWait := onServed_done _ _ h

/-- LDL of the event unit's window that its line has served completes with the value (R195, R247). -/
theorem ldlEffect_served (h : u.servedWith v) : ldlEffect f u = .ok (u.endWait.setS none f.opD v) := by
  unfold ldlEffect
  exact onServed_done _ _ h

/-- LDL of the event unit's window that need not wait (R195). -/
theorem ldlEffect_event
    (ha : u.localAccess (u.val f.opA + u.val f.opB) (selBytes f.sel) false = .ok .event)
    (hplace : evPlace (u.val f.opA + u.val f.opB).toNat = some (l, r)) (hw : u.core.wait = none)
    (hv : u.published.evLoad l r = .value w v) : ldlEffect f u = .ok (w.setS none f.opD v) := by
  unfold ldlEffect
  dsimp only
  rw [onServed_of_none _ _ hw, ha]
  dsimp only
  rw [if_pos rfl]
  unfold ldlEvent
  rw [hplace]
  exact evEffect_value hw hv

/-- STL to a writable word of the event unit's window (R195). -/
theorem stlEffect_event
    (ha : u.localAccess (u.val f.opA + u.val f.opB) (selBytes f.sel) true = .ok .event)
    (hplace : evPlace (u.val f.opA + u.val f.opB).toNat = some (l, r)) (hv : u.published.evStore l r (u.val f.opD) = some w) :
    stlEffect f u = .ok w := by
  unfold stlEffect
  dsimp only
  rw [ha]
  dsimp only
  rw [if_pos rfl]
  unfold stlEvent
  rw [hplace]
  dsimp only
  rw [hv]

end

/-- EVSIG.R to a cluster of the partition signals the line when it is this cluster, and leaves this machine when it is another (R245). -/
theorem evsigREffect_sends {f : Fields} {u : State} (hmember : u.cl.part.member = true) (hto : (u.val f.opB).toNat < u.cl.part.size) :
    evsigREffect f u = .ok (if (u.val f.opB).toNat = u.cl.part.pidx.toNat then u.published.eventSig (u.val f.opA).toNat 1
      else u.published) := by
  unfold evsigREffect partitioned
  rw [if_pos hmember]
  dsimp only
  rw [if_neg (Nat.not_le.2 hto)]
  split <;> rfl

/-! ### The gang barrier -/

/-- A core's bit in a set of cores. -/
theorem bit8_self {i : Nat} (h : i < 8) : (bit8 i).getLsbD i = true := by
  have cast : bit8 i = BitVec.ofNat 8 (1 <<< i) := rfl
  rw [cast, BitVec.getLsbD_ofNat, Nat.one_shiftLeft, Nat.testBit_two_pow_self, decide_eq_true h, Bool.and_true]

/-- A context belongs to the members of its own gang (R246). -/
theorem gangAll_self {s : State} (h : s.ctx.address < 8) : s.gangAll.getLsbD s.ctx.address = true := by
  rw [State.gangAll, BitVec.getLsbD_or, bit8_self h, Bool.or_true]

/-- The arrival of the gang's last member releases the barrier, and serves this core where it waits there (R246). -/
theorem gangArrive_last {core : Nat} {s : State} (hmember : s.gangAll.getLsbD core = true)
    (hlast : s.gangAll &&& ~~~((s.cl.gangArrived ||| bit8 core) &&& s.gangAll) = 0) :
    s.gangArrive core = { s with cl := { s.cl with gangArrived := 0 } }.serve (· == WaitKind.gang) 0 := by
  unfold State.gangArrive
  dsimp only
  rw [if_neg (by rw [hmember]; exact Bool.false_ne_true), if_pos (beq_iff_eq.2 hlast)]

/-- The gang's last member is served as it arrives (R246). -/
theorem gangArrive_served {m : State} (hlast : m.gangAll &&& ~~~((m.cl.gangArrived ||| bit8 m.ctx.address) &&& m.gangAll) = 0)
    (haddr : m.ctx.address < 8) :
    (m.waitFor .gang).gangArrive m.ctx.address = { m with
      cl := { m.cl with gangArrived := 0 }, core := { m.core with wait := some ⟨.gang, some 0, true⟩ } } :=
  gangArrive_last (s := m.waitFor .gang) (gangAll_self haddr) hlast

/-- BAR.G of the gang's last member completes at once (R246). -/
theorem barGEffect_last {u m : State} (hm : u.published = m) (hw : u.core.wait = none)
    (hlast : m.gangAll &&& ~~~((m.cl.gangArrived ||| bit8 m.ctx.address) &&& m.gangAll) = 0) (haddr : m.ctx.address < 8) :
    barGEffect u = .ok { m.endWait with cl := { m.cl with gangArrived := 0 } } := by
  have same : u.ctx.address = m.ctx.address := hm ▸ (congrArg Ctx.address (behind_published u).ctx).symm
  unfold barGEffect
  rw [onServed_of_none _ _ hw, if_neg (by rw [hw]; exact Bool.false_ne_true), same, hm]
  dsimp only
  rw [gangArrive_served hlast haddr]
  rfl

/-! ### Fences -/

/-- FENCE completes once every access of the core has been performed (R218). -/
theorem fenceEffect_performed {u : State} (h : u.drainStreams.core.fence = some true ∨ u.drainStreams.performedAll = true) :
    fenceEffect u = .ok { u.drainStreams with core := { u.drainStreams.core with fence := none } } := by
  unfold fenceEffect
  dsimp only
  rw [if_pos (by simpa using h)]

end Sys2Proof.Machine
end

section
/-! SUPPORT. The settled statements of the waits and of the gears. -/

open Sys2Proof Sys2Proof.Machine Sys2Proof.Claims

namespace Sys2Proof.Proofs

/-- Settles O48: a wait that has been served is done with its value; one that need not wait is answered at its place. -/
theorem waits : Obligations.Waits := by
  unfold Obligations.Waits
  refine fun f s => ⟨fun row hrow => ⟨fun r p ps v w h hw ha hparts hown sound hv => ?take, fun v hs => ?takeServed⟩,
    fun r p ps h hsel ha hparts hown hfree sound hsat htop => ⟨streamWord_word, ?mwait⟩,
    fun pl h hsel hplace hpl hfoot hown hsat htop => ?mwaitLocal, fun w v h hw hv => ?evwait, fun v hs => ?evwaitServed,
    fun w v h hw hv => ?bar, fun v hs => ?barServed, fun l r w v h ha hplace hw hv => ?ldl, fun v hs => ?ldlServed,
    fun l r w h ha hplace hv => ?stl, fun h => ?evsig, fun h hmember hto => ?evsigR, fun h hw hlast haddr => ?barG,
    fun v hs => ?barGServed, fun h hdone => ?fence⟩
  case take =>
    rw [exec_takeRow hrow]
    exact issue_ok h ((takeEffect_accepted hw ha).trans (takeAtHome_value hparts hown sound hv))
  case takeServed => rw [exec_takeRow hrow]; exact issue_ended hs (takeEffect_served hs)
  case mwait =>
    rw [exec_mwait, execMwait]
    exact issue_ok h ((mwaitEffect_accepted (ready_waitServed h) hsel ha).trans
      (mwaitGlobal_satisfied hparts hown hfree sound hsat htop))
  case mwaitLocal =>
    rw [exec_mwait, execMwait]
    exact issue_ok h ((mwaitEffect_local (ready_waitServed h) hsel hplace hpl hfoot hown).trans (mwaitRead_satisfied hsat htop))
  case evwait => rw [exec_evwait, execEvwait]; exact issue_ok h (evEffect_value hw hv)
  case evwaitServed => rw [exec_evwait, execEvwait]; exact issue_ended hs (evEffect_served hs)
  case bar => rw [exec_bar, execBar]; exact issue_ok h (evEffect_value hw hv)
  case barServed => rw [exec_bar, execBar]; exact issue_ended hs (evEffect_served hs)
  case ldl => rw [exec_ldl, execLdl]; exact issue_ok h (ldlEffect_event ha hplace hw hv)
  case ldlServed => rw [exec_ldl, execLdl]; exact issue_ended hs (ldlEffect_served hs)
  case stl => rw [exec_stl, execStl]; exact issue_ok h (stlEffect_event ha hplace hv)
  case evsig => rw [exec_evsig, execEvsig]; exact issue_ok h rfl
  case evsigR => rw [exec_evsigR, execEvsigR]; exact issue_ok h (evsigREffect_sends hmember hto)
  case barG => rw [exec_barG, execBarG]; exact issue_ok h (barGEffect_last rfl hw hlast haddr)
  case barGServed => rw [exec_barG, execBarG]; exact issue_ended hs (onServed_done _ _ hs)
  case fence => rw [exec_fence, execFence]; exact issue_ok h (fenceEffect_performed hdone)

/-- Settles O59: each step is an event; a handover, a sag and a refresh leave what their rules give. -/
theorem gearEvents : Obligations.GearEvents := by
  unfold Obligations.GearEvents
  exact fun s hp => ⟨fun on => ⟨happens_event hp rfl, liftGear_idle⟩, fun n => (happens_event hp (exec_railHandover n s) :),
    ⟨happens_event hp rfl, endHandover_idle, fun n due => endHandover_leaves⟩, fun c t boost dly stag => happens_event hp rfl,
    happens_of_eq hp rfl (stretch_eq s), happens_of_eq hp rfl (endSag_eq s), fun d k n t => happens_event hp rfl,
    fun c l => ⟨happens_event hp rfl, refresh_early, refresh_leaves, happens_event hp rfl, fun b => endRefresh_blocked⟩,
    fun pa bad => ⟨happens_event hp rfl, fun sound => sound ▸ scrubAt_sound⟩⟩

end Sys2Proof.Proofs
end

section
/-! SUPPORT. Accesses that work at their homes: the atomics, REDA and PUT, which join the outstanding accesses (R228, R231, R235, R238);
and the integer atomics as operations of bit vectors (R229). -/

open Sys2Proof.Claims

namespace Sys2Proof.Machine

/-! ### Acceptance -/

/-- The signature has been fed with the value `b` at each part, under its bytes (R313). -/
def State.signParts (b : Word) (ps : List Part) (s : State) : State :=
  ps.foldl (fun s p => s.sign p.va.toNat p.n (b.toNat % 2 ^ (8 * p.n))) s

/-- Feeding the signature changes the copy's record alone, and leaves which copy this is. -/
theorem signParts_leaves (b : Word) (ps : List Part) (s : State) :
    (∃ red, s.signParts b ps = { s with core := { s.core with red } }) ∧ (s.signParts b ps).isShadow = s.isShadow := by
  induction ps generalizing s with
  | nil => exact ⟨⟨s.core.red, rfl⟩, rfl⟩
  | cons p ps ih =>
    obtain ⟨first, hfirst⟩ := sign_leaves p.va.toNat p.n (b.toNat % 2 ^ (8 * p.n)) s
    obtain ⟨⟨red, hrest⟩, hshadow⟩ := ih (s.sign p.va.toNat p.n (b.toNat % 2 ^ (8 * p.n)))
    exact ⟨⟨red, hrest.trans (by rw [hfirst])⟩, hshadow.trans (sign_isShadow ..)⟩

/-- An access at its home that is no shadow's feeds the signature and joins the outstanding accesses. -/
theorem acceptHome_ok {kind : GKind} {ea b : Word} {dest : Dest} {s : State} {r : Reached}
    (hs : (s.signParts b r.parts).isShadow = false) :
    acceptHome kind ea b dest s r =
      .ok ((s.signParts b r.parts).enqueue (access (s.signParts b r.parts) ea kind r none 64 dest [])) := by
  obtain ⟨⟨red, hred⟩, hshadow⟩ := signParts_leaves b r.parts s
  have own : ¬s.isShadow = true := ne_true_of_eq_false (hshadow.symm.trans hs)
  have hacc : access (s.signParts b r.parts) ea kind r none 64 dest [] = access s ea kind r none 64 dest [] := by
    rw [hred]; rfl
  rw [hacc]
  exact if_neg own

/-- An accepted access that works at its home (R231, R235, R238). -/
theorem acceptHome_accepted {u : State} {span : Nat} {find : State → Except Trap Reached} {r : Reached} {ea b : Word} {dest : Dest}
    {kind : State → Reached → GKind} :
    let v := (atStation u r).signParts b r.parts
    accepted u (dest != .none) span find r → v.isShadow = false →
      station (dest != .none) span find u (fun s r => acceptHome (kind s r) ea b dest s r) =
        .ok (v.enqueue (access v ea (kind (atStation u r) r) r none 64 dest [])) :=
  fun ha hs => (station_accepted ha).trans (acceptHome_ok hs)

/-- An accepted atomic joins the outstanding accesses with the operation that its home performs (R228, R229). -/
theorem atomicEffect_accepted {op : AtomOp} {f : Fields} {u : State} {r : Reached} :
    let v := (atStation u r).signParts (u.val f.opB) r.parts
    let kind := GKind.atomic op r.fmt (atStation u r).rmode (u.val f.opB) (u.val f.opD) f.sel
    accepted u (scalarDest f.opD != .none) 1 (atomicReached op (u.val f.opA)) r → v.isShadow = false →
      atomicEffect op f u = .ok (v.enqueue (access v (u.val f.opA) kind r none 64 (scalarDest f.opD) [])) := by
  intro v kind ha hs
  unfold atomicEffect
  exact acceptHome_accepted ha hs

/-- An accepted REDA joins the outstanding accesses with its rank and its value (R238). -/
theorem redaEffect_accepted {f : Fields} {u : State} {r : Reached} :
    let v := (atStation u r).signParts (u.val f.opB) r.parts
    let kind := GKind.reda ((u.val f.opD).extractLsb' 0 16) (u.val f.opB)
    accepted u (scalarDest f.opD != .none) 4096 (sliceReached 64 (u.val f.opA)) r → v.isShadow = false →
      redaEffect f u = .ok (v.enqueue (access v (u.val f.opA) kind r none 64 (scalarDest f.opD) [])) := by
  intro v kind ha hs
  unfold redaEffect
  exact acceptHome_accepted ha hs

/-- An accepted PUT joins the outstanding accesses with its value (R235). -/
theorem putEffect_accepted {f : Fields} {u : State} {r : Reached} :
    let v := (atStation u r).signParts (u.val f.opB) r.parts
    accepted u (scalarDest f.opD != .none) 1 (sliceReached 8 (u.val f.opA)) r → v.isShadow = false →
      putEffect f u = .ok (v.enqueue (access v (u.val f.opA) (.put (u.val f.opB)) r none 64 (scalarDest f.opD) [])) := by
  intro v ha hs
  unfold putEffect
  exact acceptHome_accepted ha hs

/-- Every row of Table 12-2 issues with the effect of its operation. -/
theorem exec_atomicRow {row : (Fields → Instr) × AtomOp} (hr : row ∈ atomicRows) (f : Fields) (s : State) :
    exec (row.1 f) s = issue (row.1 f) f (atomicEffect row.2 f) s := by
  simp only [atomicRows, List.mem_cons, List.not_mem_nil, or_false] at hr
  obtain rfl | rfl | rfl | rfl | rfl | rfl | rfl | rfl | rfl | rfl | rfl | rfl | rfl := hr
  · exact exec_aadd f s
  · exact exec_aand f s
  · exact exec_aor f s
  · exact exec_axor f s
  · exact exec_amin f s
  · exact exec_amax f s
  · exact exec_aminu f s
  · exact exec_amaxu f s
  · exact exec_afadd f s
  · exact exec_afmin f s
  · exact exec_afmax f s
  · exact exec_aswp f s
  · exact exec_acas f s

/-! ### Results -/

section
variable {n : Nat} {m b d : BitVec (8 * n)} {fmt : BitVec 5} {rm : BitVec 3}

theorem atomicNew_add : atomicNew .add fmt rm n m.toNat b.toNat d.toNat = ((m + b).toNat, 0) := by
  rw [BitVec.toNat_add]; rfl

theorem atomicNew_and : atomicNew .and fmt rm n m.toNat b.toNat d.toNat = ((m &&& b).toNat, 0) := by
  rw [BitVec.toNat_and]; rfl

theorem atomicNew_or : atomicNew .or fmt rm n m.toNat b.toNat d.toNat = ((m ||| b).toNat, 0) := by
  rw [BitVec.toNat_or]; rfl

theorem atomicNew_xor : atomicNew .xor fmt rm n m.toNat b.toNat d.toNat = ((m ^^^ b).toNat, 0) := by
  rw [BitVec.toNat_xor]; rfl

/-- AMIN gives the word that MIN gives. -/
theorem atomicNew_min (hn : 0 < n) : atomicNew .min fmt rm n m.toNat b.toNat d.toNat = ((if m.slt b then m else b).toNat, 0) :=
  congrArg (·, 0) (result_min (k := 0) (Nat.mul_pos (Nat.succ_pos 7) hn))

/-- AMAX gives the word that MAX gives. -/
theorem atomicNew_max (hn : 0 < n) : atomicNew .max fmt rm n m.toNat b.toNat d.toNat = ((if m.slt b then b else m).toNat, 0) :=
  congrArg (·, 0) (result_max (k := 0) (Nat.mul_pos (Nat.succ_pos 7) hn))

/-- ACAS compares the numbers of two patterns, which are equal when the patterns are. -/
theorem atomicNew_cas : atomicNew .cas fmt rm n m.toNat b.toNat d.toNat = ((if m = d then b else m).toNat, 0) := by
  rw [apply_ite BitVec.toNat]
  simp only [← BitVec.toNat_inj]
  rfl

end

end Sys2Proof.Machine
end

section
/-! SUPPORT. The lines of the event unit: what each holds after a request, a store or a signal of a core (R242 to R244). -/

open Sys2Proof.Claims

namespace Sys2Proof.Machine

/-! ### Reading a line -/

section
variable {s : State} {k : Nat}

@[simp] theorem bar_setBar (hk : k < 16) (l : BarrierLine) : (s.setBar k l).bar k = l := vget_vset_same hk ..

@[simp] theorem mtx_setMtx (hk : k < 16) (l : Mutex) : (s.setMtx k l).mtx k = l := vget_vset_same hk ..

@[simp] theorem evl_setEvl (hk : k < 32) (l : EventLine) : (s.setEvl k l).evl k = l := vget_vset_same hk ..

/-- Serving this core's wait leaves the cluster. -/
@[simp] theorem serve_cl (p : WaitKind → Bool) (v : Word) : (s.serve p v).cl = s.cl := by
  unfold State.serve
  split
  · split <;> rfl
  · rfl

@[simp] theorem bar_serve (p : WaitKind → Bool) (v : Word) : (s.serve p v).bar k = s.bar k := by simp only [State.bar, serve_cl]

@[simp] theorem mtx_serve (p : WaitKind → Bool) (v : Word) : (s.serve p v).mtx k = s.mtx k := by simp only [State.mtx, serve_cl]

end

/-! ### Barriers -/

section
variable {s : State} {b : Nat} (hb : b < 16)
include hb

/-- A barrier line whose cores have all arrived counts a generation and clears ARRIVED (R242). -/
theorem bar_barRelease : (s.barRelease b).bar b =
    if (s.bar b).mask ≠ 0 ∧ (s.bar b).mask &&& ~~~(s.bar b).arrived = 0 then { s.bar b with gen := (s.bar b).gen + 1, arrived := 0 }
    else s.bar b := by
  unfold State.barRelease
  simp only [Bool.and_eq_true, bne_iff_ne, beq_iff_eq]
  split
  · rw [bar_serve, bar_setBar hb]
  · rfl

/-- A barrier line after a store to MASK (R242). -/
theorem bar_barMask (mask : BitVec 8) : (s.barMask b mask).bar b =
    if mask ≠ 0 ∧ mask &&& ~~~(s.bar b).arrived = 0 then ⟨mask, (s.bar b).gen + 1, 0⟩ else { s.bar b with mask } := by
  unfold State.barMask
  rw [bar_barRelease hb, bar_setBar hb]

/-- A barrier line after an arrival: a core outside MASK is ignored, and one in it makes MASK other than 0 (R242). -/
theorem bar_barArrive (core : Nat) : (s.barArrive b core).bar b =
    if (s.bar b).mask.getLsbD core = false then s.bar b
    else if (s.bar b).mask &&& ~~~((s.bar b).arrived ||| bit8 core) = 0 then { s.bar b with gen := (s.bar b).gen + 1, arrived := 0 }
    else { s.bar b with arrived := (s.bar b).arrived ||| bit8 core } := by
  unfold State.barArrive
  dsimp only
  cases hin : (s.bar b).mask.getLsbD core
  case false => rw [if_neg Bool.false_ne_true, if_pos rfl]
  case true =>
    have masked : (s.bar b).mask ≠ 0 := by
      intro h0
      rw [h0] at hin
      exact Bool.false_ne_true (BitVec.getLsbD_zero.symm.trans hin)
    rw [if_pos rfl, if_neg Bool.noConfusion, bar_barRelease hb, bar_setBar hb]
    simp only [masked, ne_eq, not_false_eq_true, true_and]

end

/-! ### Mutexes -/

section
variable {s : State} {x : Nat} (hx : x < 16) (core : Nat)
include hx

/-- A mutex after a request: a free one is taken, its holder errs, and any other core queues (R243). -/
theorem mtx_mutexLock : (s.mutexLock x core).1.mtx x =
    if (s.mtx x).held = false then { s.mtx x with held := true, owner := core }
    else if (s.mtx x).owner = core then { s.mtx x with err := true } else { s.mtx x with queue := (s.mtx x).queue ++ [core] } := by
  unfold State.mutexLock
  simp only [Bool.not_eq_true']
  split
  · exact mtx_setMtx hx _
  · split <;> exact mtx_setMtx hx _

/-- A mutex after a load of TRY (R243). -/
theorem mtx_mutexTry : (s.mutexTry x core).1.mtx x =
    if (s.mtx x).held = false then { s.mtx x with held := true, owner := core } else s.mtx x := by
  unfold State.mutexTry
  simp only [Bool.not_eq_true']
  split
  · exact mtx_setMtx hx _
  · rfl

/-- A mutex after a store to UNLOCK: one that is not the core's errs, and the holder's goes to the next of its queue (R243). -/
theorem mtx_mutexUnlock : (s.mutexUnlock x core).mtx x =
    if (s.mtx x).held = false ∨ (s.mtx x).owner ≠ core then { s.mtx x with err := true }
    else match (s.mtx x).queue with
      | [] => { s.mtx x with held := false, owner := (Config.noOwner s.tick).toNat }
      | c :: rest => { s.mtx x with owner := c, queue := rest } := by
  have refused : (!((s.mtx x).held && decide ((s.mtx x).owner = core))) = true ↔ (s.mtx x).held = false ∨ (s.mtx x).owner ≠ core := by
    simp
  unfold State.mutexUnlock
  simp only [refused]
  split
  case isTrue => exact mtx_setMtx hx _
  case isFalse =>
    cases (s.mtx x).queue with
    | nil => exact mtx_setMtx hx _
    | cons c rest =>
      dsimp only
      split
      · rw [mtx_serve, mtx_setMtx hx]
      · exact mtx_setMtx hx _

end

/-! ### Event lines -/

section
variable {s : State} {e : Nat} (he : e < 32)
include he

/-- A line for which no core waits, after a store to PEND (R244). -/
theorem evl_eventPend (hq : (s.evl e).queue = []) (n : BitVec 16) :
    (s.eventPend e n).evl e = { s.evl e with pend := n, sat := false } := by
  unfold State.eventPend
  dsimp only
  rw [hq]
  exact evl_setEvl he _

/-- A line for which no core waits, after a store to SIG: PEND saturates at 65,535, and then sets SAT (R244). -/
theorem evl_eventSig (hq : (s.evl e).queue = []) (n : BitVec 16) :
    ((s.eventSig e n).evl e).pend.toNat = min 65535 ((s.evl e).pend.toNat + n.toNat) ∧
      ((s.eventSig e n).evl e).sat = ((s.evl e).sat || decide (65535 < (s.evl e).pend.toNat + n.toNat)) := by
  unfold State.eventSig
  dsimp only
  split
  case isTrue h =>
    rw [hq]
    simp only [List.length_nil, State.eventServe, evl_setEvl he]
    exact ⟨(min_eq_left h.le).symm, by simp [h]⟩
  case isFalse h =>
    rw [hq]
    simp only [List.length_nil, State.eventServe, evl_setEvl he]
    refine ⟨?_, by simp [h]⟩
    rw [BitVec.toNat_ofNat, min_eq_right (not_lt.1 h), Nat.mod_eq_of_lt (by omega)]

/-- A line after a load of WAIT: a signal that no core waits for is taken, and else the core waits (R244). -/
theorem evl_eventWait (core : Nat) : (s.eventWait e core).1.evl e =
    if (s.evl e).pend ≠ 0 ∧ (s.evl e).queue = [] then { s.evl e with pend := (s.evl e).pend - 1 }
    else { s.evl e with queue := (s.evl e).queue ++ [core] } := by
  unfold State.eventWait
  simp only [Bool.and_eq_true, bne_iff_ne, List.isEmpty_iff]
  split <;> exact evl_setEvl he _

end

/-! ### Events of cores -/

section
variable {s : State} {i : Instr} {core : Nat} {g : State → State} (hp : s.pkg.power = true) (hi : exec i s = event (·.byOther core g) s)
include hp hi

/-- With power an event of another core happens as its change. -/
theorem happens_byOther (hc : core ≠ s.core.idx) : happens i s (g s) := happens_of_eq hp hi (if_neg hc)

/-- An event of this core changes nothing: it is its instruction (log entry 6). -/
theorem happens_byItself (hc : core = s.core.idx) : happens i s s := happens_of_eq hp hi (if_pos hc)

end

/-- The arrival of another core at a barrier line, which is none of the other places where a core arrives (R242). -/
theorem exec_barrierArrive_line {b core : Nat} {s : State} (hb : b < 16) :
    exec (.barrierArrive b core) s = event (·.byOther core (·.barArrive b core)) s := by
  rw [exec_barrierArrive, execBarrierArrive]
  split
  case h_7 => rfl
  all_goals omega

end Sys2Proof.Machine
end

section
/-! SUPPORT. The settled statements of the atomics and of the event unit. -/

open Sys2Proof Sys2Proof.Machine Sys2Proof.Claims

namespace Sys2Proof.Proofs

/-- Settles O46: the station accepts the access, which feeds the signature and joins the outstanding ones. -/
theorem atomicAccesses : Obligations.AtomicAccesses := by
  unfold Obligations.AtomicAccesses
  refine fun f s r => ⟨fun row hrow h ha hs => ?atomic, fun h ha hs => ?reda, fun h ha hs => ?put⟩
  case atomic => rw [exec_atomicRow hrow]; exact issue_ok h (atomicEffect_accepted ha hs)
  case reda => rw [exec_reda, execReda]; exact issue_ok h (redaEffect_accepted ha hs)
  case put => rw [exec_put, execPut]; exact issue_ok h (putEffect_accepted ha hs)

/-- Settles O47: one lemma for each operation; AMINU, AMAXU and ASWP are defined on the numbers that the statement names. -/
theorem atomicOperations : Obligations.AtomicOperations := by
  unfold Obligations.AtomicOperations
  intro n hn m b d fmt rm r
  have wide : 0 < n := by
    simp only [List.mem_cons, List.not_mem_nil, or_false] at hn
    omega
  exact ⟨atomicNew_add, atomicNew_and, atomicNew_or, atomicNew_xor, atomicNew_min wide, atomicNew_max wide, rfl, rfl, rfl, atomicNew_cas⟩

/-- Settles O54: each event is the change that its rule gives, and the line holds what that leaves. -/
theorem eventUnitEvents : Obligations.EventUnitEvents := by
  unfold Obligations.EventUnitEvents
  refine fun s hp => ⟨fun b mask hb => ⟨happens_event hp rfl, bar_barMask hb mask⟩,
    fun b core hb hc => ⟨happens_byOther hp (exec_barrierArrive_line hb) hc, happens_byOther hp (exec_barrierSync ..) hc, bar_barArrive hb core⟩,
    fun x core hx hc => ⟨happens_byOther hp (exec_mutexLock ..) hc, mtx_mutexLock hx core, happens_byOther hp (exec_mutexTry ..) hc,
      mtx_mutexTry hx core, happens_byOther hp (exec_mutexUnlock ..) hc, mtx_mutexUnlock hx core⟩,
    fun x hx => (happens_event hp (exec_mutexErrClear ..) :),
    fun e n he => ⟨happens_event hp rfl, happens_event hp rfl, happens_event hp rfl,
      fun hq => ⟨evl_eventPend he hq n, evl_eventSig he hq n⟩⟩,
    fun e core he hc => ⟨happens_byOther hp (exec_eventWait ..) hc, evl_eventWait he core⟩, fun i hi => ?itself⟩
  case itself =>
    obtain ⟨n, rfl | rfl | rfl | rfl | rfl | rfl⟩ := hi
    · exact happens_byItself hp (exec_barrierArrive ..) rfl
    · exact happens_byItself hp (exec_barrierSync ..) rfl
    · exact happens_byItself hp (exec_mutexLock ..) rfl
    · exact happens_byItself hp (exec_mutexTry ..) rfl
    · exact happens_byItself hp (exec_mutexUnlock ..) rfl
    · exact happens_byItself hp (exec_eventWait ..) rfl

end Sys2Proof.Proofs
end

section
/-! SUPPORT. The copy instructions: what a submission does where its checks pass and its queue has room (R251, R269), and the images and
the circular buffers of the others (R264, R270 to R272). -/

namespace Sys2Proof.Machine

/-! ### Submissions -/

/-- The claim number `i` of a slot that translates: the packet goes into the slot, and the claim is entered (R251, R269). -/
theorem submitInto_translated {kind img pa i : Nat} {f : Fields} {a : Word} {table : List Claim} {s : State} {p : Page} {ks : List Kept}
    (slot : s.translate s.me .write (s.slotOf pa i) = .ok (p, ks)) :
    let x := packetImage img s.core.idx kind s.top (i + 1)
    submitInto kind f a img pa i table s = .ok ((s.writePacket p.pa x).submitted f a (s.slotOf pa i) x i table) := by
  intro x
  unfold submitInto
  rw [slot]

/-- A claim that the home answers with a number goes on with that number, and waits no more (R251). -/
theorem submitAnswer_number {kind img pa : Nat} {f : Fields} {a : Word} {table : List Claim} {r : State × Word}
    (number : r.2 ≠ BitVec.allOnes 64) :
    submitAnswer kind f a img pa table r = submitInto kind f a img pa r.2.toNat table r.1.endWait :=
  if_neg (by rw [beq_iff_eq]; exact number)

/-- A submission with room in the claim table, by a context that is no shadow, claims once what the core issued before is performed
(R269, R310). -/
theorem submitClaim_own {kind img pa : Nat} {f : Fields} {a : Word} {table : List Claim} {s₀ s : State}
    (room : s.claimRoom a = some table) (own : s.isShadow = false) :
    submitClaim kind f a img pa s₀ s = submitAnswer kind f a img pa table (s.published.claimAt pa) := by
  unfold submitClaim
  rw [room]
  exact if_neg (ne_true_of_eq_false own)

/-- A submission whose image is read, whose queue is the context's own and in slice memory, and whose ring translates and is ready claims
a slot (R269). -/
theorem submitEffect_checked {kind img : Nat} {f : Fields} {u : State} {d : Page} {ks ks' : List Kept} {pas : List Nat} :
    let a := u.val f.opA
    let c := u.desc d.pa 0x28
    u.imageAt (u.val f.opB) 64 = .ok img → a.toNat % 64 = 0 → u.translate u.me .readWrite a = .ok (d, ks) →
      u.homes [(a, d.pa)] = none → u.poisoned d.pa 64 = false → tierOf d.pa = .slice → c.getLsbD 47 = true →
      c.extractLsb' 48 16 = u.ctx.sys.pid → u.translateAll .write (ringPages (u.desc d.pa 0x20) (64 * u.slots d.pa)) = .ok (pas, ks') →
      u.homes (pas.map fun pa => (a, pa)) = none →
      submitEffect kind f u = submitClaim kind f a img d.pa u (u.keep (ks ++ ks')) := by
  intro a c image aligned descriptor ready clean slice valid pid ring ringReady
  have queue : (tierOf d.pa != .slice || !c.getLsbD 47 || c.extractLsb' 48 16 != u.ctx.sys.pid) = false := by
    rw [slice, valid, pid, bne_self_eq_false, bne_self_eq_false]
    rfl
  unfold submitEffect
  dsimp only
  rw [image]
  dsimp only
  rw [if_neg (by rw [bne_iff_ne]; exact not_not_intro aligned), descriptor]
  dsimp only
  rw [ready]
  dsimp only
  rw [if_neg (ne_true_of_eq_false clean), if_neg (ne_true_of_eq_false queue), ring]
  dsimp only
  rw [ringReady]

/-- CPOST, CGATH and CWIN issue as submissions of kind 0, 1 and 2 (R269). -/
theorem exec_submitRow {row : (Fields → Instr) × Nat} (hr : row ∈ [(Instr.cpost, 0), (Instr.cgath, 1), (Instr.cwin, 2)])
    (f : Fields) (s : State) : exec (row.1 f) s = issue (row.1 f) f (submitEffect row.2 f) s := by
  simp only [List.mem_cons, List.not_mem_nil, or_false] at hr
  obtain rfl | rfl | rfl := hr
  · exact exec_cpost f s
  · exact exec_cgath f s
  · exact exec_cwin f s

/-! ### Images and circular buffers -/

/-- CLINK of an image in local store or scratchpad whose bytes no command has still to read: NEXT, then LINK, once what stands before is
performed (R270). -/
theorem clinkEffect_links {f : Fields} {u : State} {pl : LPlace} :
    let a := u.val f.opA
    let b := u.val f.opB
    let m := u.caughtUp
    let w0 : Word := (BitVec.ofNat 64 (m.lread pl a.toNat 8) &&& ~~~(1#64 <<< 60)) ||| (bit01 (b != 0) <<< 60)
    u.lmemCheck a 64 true = .ok pl → pl = .store ∨ pl = .spad → b.toNat % 64 = 0 → u.footprint pl a.toNat 64 true = none →
      u.storeHeld pl a.toNat 64 = false →
      clinkEffect f u = .ok ((m.dataWrite pl (a.toNat + 56) 8 b.toNat).dataWrite pl a.toNat 8 w0.toNat) := by
  intro a b m w0 image place aligned sound free
  have data : ¬(pl != .store && pl != .spad) = true := by
    obtain rfl | rfl := place <;> decide
  unfold clinkEffect
  dsimp only
  rw [image]
  dsimp only
  rw [if_neg data, if_neg (by rw [bne_iff_ne]; exact not_not_intro aligned), sound]
  exact if_neg (ne_true_of_eq_false free)

/-- CBINIT of a buffer that no started job names and no core waits for configures it (R271). -/
theorem cbinitEffect_idle {f : Fields} {u : State} (idle : u.bufferBusy (u.val f.opD).toNat = false) :
    cbinitEffect f u = .ok (u.setCb (u.val f.opD).toNat
      { init := true, config := u.val f.opA, free := ((u.val f.opA).extractLsb' 40 8).toNat, fill := 0, cp := 0, ep := 0, relp := 0
        done := 0, taken := [], waiting := 0 }) :=
  if_neg (ne_true_of_eq_false idle)

/-- An instruction on a configured buffer passes its check (R272). -/
theorem check_of_init {c : CircBuf} {α : Type} {x y : α} (init : c.init = true) : (if !c.init then x else y) = y :=
  if_neg (by rw [init]; exact Bool.false_ne_true)

/-- CBGET with a slot to take: the slot is the core's, and D holds its address (R264, R272). -/
theorem cbgetEffect_takes {f : Fields} {u : State} {c : CircBuf} {k : Nat} (init : (u.cb (u.val f.opA).toNat).init = true)
    (take : (u.cb (u.val f.opA).toNat).coreTake = some (c, k)) :
    cbgetEffect f u = .ok ((u.published.endWait.setCb (u.val f.opA).toNat c).setS (some 1) f.opD
      (BitVec.ofNat 64 (c.base + c.size * k))) := by
  unfold cbgetEffect
  dsimp only
  rw [check_of_init init, take]

/-- CBPUT of a slot that CBGET handed out returns it, once what the core issued before is performed (R272). -/
theorem cbputEffect_returns {f : Fields} {u : State} {k : Nat} :
    let c := u.cb (u.val f.opA).toNat
    c.init = true → (c.taken.find? fun k => u.val f.opB == BitVec.ofNat 64 (c.base + c.size * k)) = some k →
      cbputEffect f u = .ok (u.published.setCb (u.val f.opA).toNat (c.put k)) := by
  intro c init taken
  unfold cbputEffect
  dsimp only
  rw [check_of_init init, taken]

end Sys2Proof.Machine
end

section
/-! SUPPORT. The settled statement of the copy instructions. -/

open Sys2Proof Sys2Proof.Machine Sys2Proof.Claims

namespace Sys2Proof.Proofs

/-- Settles O43: a submission passes its checks, claims, and writes its packet; CLINK and the buffers' instructions complete as they are
written. -/
theorem copyInstructions : Obligations.CopyInstructions := by
  unfold Obligations.CopyInstructions
  refine ⟨fun row hrow f s img d p ks ks' kept pas table r h image aligned descriptor ready clean slice valid pid ring ringReady room own
      answer number slot => ?submit,
    fun f s => ⟨fun pl h image place aligned sound free => ?clink, fun h idle => ?cbinit, fun c k h init take => ?cbget,
      fun k h init taken => ?cbput⟩⟩
  case submit =>
    subst answer
    rw [exec_submitRow hrow]
    refine issue_ok h ?_
    rw [submitEffect_checked image aligned descriptor ready clean slice valid pid ring ringReady, submitClaim_own room own,
      submitAnswer_number number, submitInto_translated slot]
  case clink => rw [exec_clink, execClink]; exact issue_ok h (clinkEffect_links image place aligned sound free)
  case cbinit => rw [exec_cbinit, execCbinit]; exact issue_ok h (cbinitEffect_idle idle)
  case cbget => rw [exec_cbget, execCbget]; exact issue_ok h (cbgetEffect_takes init take)
  case cbput => rw [exec_cbput, execCbput]; exact issue_ok h (cbputEffect_returns init taken)

end Sys2Proof.Proofs
end

section
/-! SUPPORT. The transactions' instructions where they complete: what each leaves of its context's transaction (R294 to R297). -/

namespace Sys2Proof.Machine

/-! ### Declarations -/

/-- TDECL of a region for which the set has room, by its entries and by the granules that it covers, adds it (R294). -/
theorem tdeclEffect_adds {write : Bool} {f : Fields} {u : State} :
    let d := u.ctx.tx.decl ++ [⟨u.val f.opA, u.val f.opB, write⟩]
    u.ctx.tx.decl.length < 16 → coverCount d ≤ 1024 → tdeclEffect write f u = .ok (u.setTx { u.ctx.tx with decl := d }) := by
  intro d entries granules
  unfold tdeclEffect
  dsimp only
  rw [if_neg (Nat.not_le.mpr entries), if_neg (Nat.not_lt.mpr granules)]

/-- TDECL.R and TDECL.W issue as declarations of their sense (R294). -/
theorem exec_tdeclRow {row : (Fields → Instr) × Bool} (hr : row ∈ [(Instr.tdeclR, false), (Instr.tdeclW, true)]) (f : Fields)
    (s : State) : exec (row.1 f) s = issue (row.1 f) f (tdeclEffect row.2 f) s := by
  simp only [List.mem_cons, List.not_mem_nil, or_false] at hr
  obtain rfl | rfl := hr
  · exact exec_tdeclR f s
  · exact exec_tdeclW f s

/-! ### Submissions -/

/-- Joining a transaction whose grant has arrived opens it, and D holds its beat (R295). -/
theorem joinTx_granted {f : Fields} {u : State} (granted : u.ctx.tx.granted = true) :
    joinTx f u =
      .ok ((u.endWait.setTx { u.ctx.tx with state := 2 }).setS (some 1) f.opD (BitVec.ofNat 64 u.ctx.tx.key.beat)) :=
  if_pos granted

/-- TSUB in a context that has submitted joins its transaction (R295). -/
theorem tsubEffect_joins {f : Fields} {u : State} (submitted : u.ctx.tx.state = 1) (plain : u.ctx.tx.d = false) :
    tsubEffect false f u = joinTx f u :=
  if_pos (by rw [submitted, plain, Bool.not_false, Bool.or_true]; rfl)

/-- A submission of a context's own set whose tiles translate, by no shadow, feeds the signature with the regions and submits under a new
key (R279, R295). -/
theorem submitOwn_submits {d g : Bool} {f : Fields} {u : State} {tiles : List (Nat × Bool)} {ks : List Kept} :
    let x := u.ctx.tx
    let v := x.decl.foldl (fun s r => s.sign r.base.toNat 0 0) (u.keep ks)
    u.tilesOf x.decl [] [] = .ok (tiles, ks) → v.isShadow = false →
      submitOwn d g f u = submitted d f (v.setTx { x with
        seq := x.seq + 1, state := 1, d, g, flt := false, key := v.newKey d g (x.seq + 1), sstep := v.cl.part.sstep, tiles
        granted := false }) := by
  intro x v translated own
  unfold submitOwn
  dsimp only
  rw [translated]
  exact if_neg (ne_true_of_eq_false own)

/-- TSUB with a selector without .G, of a set that is not empty and by a context in no transaction, submits the context's own (R295). -/
theorem tsubEffect_own {d : Bool} {f : Fields} {u : State} (idle : u.ctx.tx.state = 0) (declared : u.ctx.tx.decl ≠ [])
    (alone : f.sel.getLsbD 1 = false) : tsubEffect d f u = submitOwn d false f u := by
  have ready : (u.ctx.tx.state != 0 || u.ctx.tx.decl.isEmpty) = false := by
    rw [idle, List.isEmpty_eq_false_iff.mpr declared]
    rfl
  unfold tsubEffect
  dsimp only
  rw [alone, Bool.false_and, Bool.false_and, if_neg (by rw [idle]; exact Bool.false_ne_true), if_neg (ne_true_of_eq_false ready),
    if_neg Bool.false_ne_true]
  split
  · next h => exact h.symm
  · rfl

/-- TSUB.D by a member of a partition submits its own set and returns SSTEPN at once (R281, R295). -/
theorem tsubD_submits {f : Fields} {u : State} {tiles : List (Nat × Bool)} {ks : List Kept} :
    let x := u.ctx.tx
    let v := x.decl.foldl (fun s r => s.sign r.base.toNat 0 0) (u.keep ks)
    u.cl.part.member = true → x.state = 0 → x.decl ≠ [] → f.sel = 1 → u.tilesOf x.decl [] [] = .ok (tiles, ks) → v.isShadow = false →
      partitioned 0x241 u (tsubEffect true f u) = .ok ((v.setTx { x with
        seq := x.seq + 1, state := 1, d := true, g := false, flt := false, key := v.newKey true false (x.seq + 1)
        sstep := v.cl.part.sstep, tiles, granted := false }).endWait.setS (some 1) f.opD v.cl.part.sstep) := by
  intro x v member idle declared sel translated own
  unfold partitioned
  rw [if_pos member, tsubEffect_own idle declared (by rw [sel]; rfl), submitOwn_submits translated own]
  rfl

/-! ### Ends -/

/-- TEND and TEND.G without a transaction leave the machine (R296). -/
theorem tendEffect_idle {g : Bool} {u : State} (idle : u.ctx.tx.state = 0) : tendEffect g u = .ok u :=
  if_pos (beq_iff_eq.mpr idle)

/-- The end that its transaction's form asks for, by no shadow and once the grant has arrived and every access to a declared tile is
performed, releases (R296). -/
theorem tendEffect_ends {g : Bool} {u m e : State} (hm : u.endWait.drainStreams = m)
    (he : (if m.inGangTx then m.gangEnd m.ctx.address else m) = e) (busy : u.ctx.tx.state ≠ 0) (form : u.ctx.tx.g = g)
    (own : u.isShadow = false) (granted : u.ctx.tx.granted = true) (quiet : m.tilesQuiet = true) :
    tendEffect g u =
      if g then (if e.inGangTx then .hold e else .ok e.clearTx) else .ok (m.release u.ctx.tx.key).clearTx := by
  unfold tendEffect
  dsimp only
  rw [if_neg (by rw [beq_iff_eq]; exact busy), if_neg (by rw [form, bne_self_eq_false]; exact Bool.false_ne_true),
    if_neg (by rw [own, Bool.false_and]; exact Bool.false_ne_true), if_neg (by rw [granted]; exact Bool.false_ne_true), hm, he,
    if_neg (by rw [quiet]; exact Bool.false_ne_true)]

/-- TEND sends the releases of its context's transaction (R296). -/
theorem tendEffect_releases {u m : State} (hm : u.endWait.drainStreams = m) (busy : u.ctx.tx.state ≠ 0) (alone : u.ctx.tx.g = false)
    (own : u.isShadow = false) (granted : u.ctx.tx.granted = true) (quiet : m.tilesQuiet = true) :
    tendEffect false u = .ok (m.release u.ctx.tx.key).clearTx :=
  (tendEffect_ends hm rfl busy alone own granted quiet).trans (if_neg Bool.false_ne_true)

/-- TEND.G of the member with which its gang's transaction is over ends its own (R296). -/
theorem tendEffect_gangEnds {u m e : State} (hm : u.endWait.drainStreams = m)
    (he : (if m.inGangTx then m.gangEnd m.ctx.address else m) = e) (busy : u.ctx.tx.state ≠ 0) (gang : u.ctx.tx.g = true)
    (own : u.isShadow = false) (granted : u.ctx.tx.granted = true) (quiet : m.tilesQuiet = true) (ended : e.inGangTx = false) :
    tendEffect true u = .ok e.clearTx := by
  rw [tendEffect_ends hm he busy gang own granted quiet, if_pos rfl, if_neg (ne_true_of_eq_false ended)]

/-! ### Status -/

/-- TSTAT.W of a transaction that does not wait for its grant gives the status word (R297). -/
theorem tstatWEffect_status {f : Fields} {u : State} (settled : u.ctx.tx.state ≠ 1) :
    tstatWEffect f u = .ok (u.endWait.setS (some 1) f.opD u.ctx.tx.status) :=
  if_pos (bne_iff_ne.mpr settled)

/-- TSTAT.W of a granted submission that is not a .D one of this superstep gives the status word, in which a .D transaction is open
(R281, R297). -/
theorem tstatWEffect_opens {f : Fields} {u : State} :
    let x := u.ctx.tx
    let o := if x.d then u.endWait.setTx { x with state := 2 } else u.endWait
    x.state = 1 → (x.d = false ∨ x.sstep ≠ u.cl.part.sstep) → x.granted = true →
      tstatWEffect f u = .ok (o.setS (some 1) f.opD o.ctx.tx.status) := by
  intro x o submitted due granted
  have passed : (x.d && x.sstep == u.cl.part.sstep && !u.isShadow) = false := by
    obtain plain | later := due
    · rw [plain, Bool.false_and, Bool.false_and]
    · rw [beq_false_of_ne later, Bool.and_false, Bool.false_and]
  unfold tstatWEffect
  dsimp only
  rw [if_neg (by rw [bne_iff_ne]; exact not_not_intro submitted), if_neg (ne_true_of_eq_false passed), if_pos granted]

end Sys2Proof.Machine
end

section
/-! SUPPORT. The steps of the order-first sequencer and of its slices: where each changes nothing, and what a grant and a release leave
(R278 to R287). -/

namespace Sys2Proof.Machine

section
variable {s : State}

/-- A beat that is not over does not end (R280). -/
theorem endBeat_early {b : Nat} (early : s.beatOver b = false) : s.endBeat b = s := if_pos (by rw [early]; rfl)

/-- A beat that is not due is not merged (R280, R282). -/
theorem mergeOrder_early {b : Nat} {others : List Entry} (early : s.mergeable b = false) : s.mergeOrder b others = s :=
  if_pos (by rw [early]; rfl)

/-! ### Grants -/

section
variable {k : Nat} {r : TileReq} (hr : s.pkg.seq.reqs[k]? = some r)
include hr

/-- A request may be granted when it stands in its slice's queue, has no grant, and meets no earlier request of its tile with a write among
the two (R283). -/
theorem grantable_iff : s.grantable k = true ↔
    r.queued = true ∧ r.granted = false ∧
      ∀ j e, j < k → s.pkg.seq.reqs[j]? = some e → e.tile = r.tile → e.write = false ∧ r.write = false := by
  have clear (e : TileReq) : (e.tile != r.tile || !(e.write || r.write)) = true ↔
      (e.tile = r.tile → e.write = false ∧ r.write = false) := by
    rw [Bool.or_eq_true, bne_iff_ne, Bool.not_eq_true', Bool.or_eq_false_iff, ← imp_iff_not_or]
  unfold State.grantable
  rw [hr]
  simp only [Bool.and_eq_true, Bool.not_eq_true', List.all_eq_true, clear, and_assoc, List.mem_iff_getElem?]
  refine and_congr_right fun _ => and_congr_right fun _ => ⟨fun h j e hj he => h e ⟨j, ?_⟩, fun h e ⟨j, he⟩ => ?_⟩
  · rw [List.getElem?_take_of_lt hj, he]
  · rw [List.getElem?_take, Option.ite_none_right_eq_some] at he
    obtain ⟨hj, he⟩ := he
    exact h j e hj he

/-- A request that may not be granted stays as it is (R283). -/
theorem grantTile_refused (refused : s.grantable k = false) : s.grantTile k = s := by
  unfold State.grantTile
  rw [hr]
  exact if_neg (ne_true_of_eq_false refused)

/-- A grant is noted in its request with its cycle (R283). -/
theorem grantTile_granted (free : s.grantable k = true) :
    (s.grantTile k).pkg.seq.reqs[k]? = some { r with granted := true, when := s.pkg.cycle } := by
  unfold State.grantTile
  rw [hr]
  dsimp only
  rw [if_pos free]
  exact List.getElem?_set_self (List.getElem?_eq_some_iff.mp hr).1

end

/-- The full grant reaches its context (R283). -/
theorem deliverGrant_granted (coming : s.grantComing = true) : s.deliverGrant.ctx.tx.granted = true := by
  unfold State.deliverGrant
  rw [if_pos coming]
  rfl

/-- A grant that is not full, or that has been delivered, is not delivered (R283). -/
theorem deliverGrant_absent (absent : s.grantComing = false) : s.deliverGrant = s := if_neg (ne_true_of_eq_false absent)

end

/-! ### Releases -/

/-- Requests that enter the queues keep their keys and their places (R282). -/
theorem enterQueues_keys (done rest : List TileReq) : (enterQueues done rest).map (·.key) = (done ++ rest).map (·.key) := by
  induction rest generalizing done with
  | nil => rw [List.append_nil]; rfl
  | cons r rest ih =>
    unfold enterQueues
    rw [ih]
    simp only [List.map_append, List.map_cons, List.append_assoc, List.singleton_append]

/-- After a release no request is the transaction's (R287). -/
theorem release_keys {s : State} {k : TxKey} : ∀ r ∈ (s.release k).pkg.seq.reqs, r.key.same k = false := by
  intro r hr
  have kept : r.key ∈ (s.pkg.seq.reqs.filter fun r => !r.key.same k).map (·.key) := by
    have entered := enterQueues_keys [] (s.pkg.seq.reqs.filter fun r => !r.key.same k)
    rw [List.nil_append] at entered
    exact entered ▸ List.mem_map_of_mem hr
  obtain ⟨e, he, same⟩ := List.mem_map.mp kept
  rw [← same]
  exact (Bool.not_eq_true' _).mp (List.mem_filter.mp he).2

end Sys2Proof.Machine
end

section
/-! SUPPORT. The settled statements of order-first transactions. -/

open Sys2Proof Sys2Proof.Machine Sys2Proof.Claims

namespace Sys2Proof.Proofs

/-- Settles O45: each form completes where its checks pass and its grant has arrived, with what that leaves of the transaction. -/
theorem transactions : Obligations.Transactions := by
  unfold Obligations.Transactions
  refine fun f s => ⟨fun row hrow h entries granules => ?tdecl, fun h => ?tdeclClr, fun h state plain granted => ?tsub,
    fun tiles ks h member idle declared sel translated own => ?tsubD,
    fun h => ⟨fun idle => ?tendIdle, fun busy alone own granted quiet => ?tend⟩,
    fun h => ⟨fun idle => ?tendGIdle, fun busy gang own granted quiet ended => ?tendG⟩, fun h => ?tstat,
    fun h => ⟨fun settled => ?tstatW, fun state due granted => ?tstatWOpens⟩⟩
  case tdecl => rw [exec_tdeclRow hrow]; exact issue_ok h (tdeclEffect_adds entries granules)
  case tdeclClr => rw [exec_tdeclClr, execTdeclClr]; exact issue_ok h rfl
  case tsub => rw [exec_tsub, execTsub]; exact issue_ok h ((tsubEffect_joins state plain).trans (joinTx_granted granted))
  case tsubD => rw [exec_tsubD, execTsubD]; exact issue_ok h (tsubD_submits member idle declared sel translated own)
  case tendIdle => rw [exec_tend, execTend]; exact issue_ok h (tendEffect_idle idle)
  case tend => rw [exec_tend, execTend]; exact issue_ok h (tendEffect_releases rfl busy alone own granted quiet)
  case tendGIdle => rw [exec_tendG, execTendG]; exact issue_ok h (tendEffect_idle idle)
  case tendG => rw [exec_tendG, execTendG]; exact issue_ok h (tendEffect_gangEnds rfl rfl busy gang own granted quiet ended)
  case tstat => rw [exec_tstat, execTstat]; exact issue_ok h rfl
  case tstatW => rw [exec_tstatW, execTstatW]; exact issue_ok h (tstatWEffect_status settled)
  case tstatWOpens => rw [exec_tstatW, execTstatW]; exact issue_ok h (tstatWEffect_opens state due granted)

/-- Settles O57: each step is an event that changes nothing where it may not happen; a grant meets no earlier conflict, and a release
leaves no request of its transaction. -/
theorem orderEvents : Obligations.OrderEvents := by
  unfold Obligations.OrderEvents
  refine fun s hp => ⟨fun key tiles => happens_event hp (exec_sequencerSubmission ..),
    fun b => ⟨happens_event hp (exec_beatEnd ..), endBeat_early⟩,
    fun b others => ⟨happens_event hp (exec_orderMerged ..), mergeOrder_early⟩,
    fun k r hr => ⟨happens_event hp (exec_sliceGrant ..), grantTile_refused hr, fun free => ?grant⟩,
    ⟨happens_event hp (exec_grantDelivery ..), deliverGrant_granted, deliverGrant_absent⟩,
    fun key => ⟨happens_event hp (exec_releasePerform ..), release_keys⟩⟩
  case grant =>
    obtain ⟨queued, _, clear⟩ := (grantable_iff hr).mp free
    exact ⟨grantTile_granted hr free, queued, clear⟩

end Sys2Proof.Proofs
end

section
/-! SUPPORT. Entering and leaving a trap: what entry saves and sets, what a double trap leaves and records, and what a return restores
(R372, R375, R395, R400, R406). -/

namespace Sys2Proof.Machine

/-! ### The sherd ring -/

/-- The latest element of a ring that keeps some is the one that has just entered. -/
theorem latest_getLast {α : Type} (n : Nat) (l : List α) (x : α) : (latest (n + 1) (l ++ [x])).getLast? = some x := by
  simp [latest]

/-- The fields of a sherd word: the kind stands above the unit, and the unit above the detail (R406). -/
theorem sherdWord_fields {u : Nat} (hu : u < 2 ^ 12) (kind : Nat) (detail : Word) :
    let w := (BitVec.ofNat 64 kind <<< 56) ||| (BitVec.ofNat 64 u <<< 44) ||| (detail &&& 0xFFFFFFFFFFF)
    w.extractLsb' 56 8 = BitVec.ofNat 8 kind ∧ w.extractLsb' 0 44 = detail.extractLsb' 0 44 := by
  have mask (j : Nat) (hj : j < 64) : (0xFFFFFFFFFFF : Word).getLsbD j = decide (j < 44) := by
    rw [show (0xFFFFFFFFFFF : Word) = BitVec.ofNat 64 (2 ^ 44 - 1) from rfl, BitVec.getLsbD_ofNat, Nat.testBit_two_pow_sub_one]
    simp [hj]
  constructor <;> refine BitVec.eq_of_getLsbD_eq fun i hi => ?_
  · have high : u.testBit (56 + i - 44) = false :=
      Nat.testBit_lt_two_pow (hu.trans_le (Nat.pow_le_pow_right (by omega) (by omega)))
    simp only [BitVec.getLsbD_extractLsb', BitVec.getLsbD_or, BitVec.getLsbD_and, BitVec.getLsbD_shiftLeft, BitVec.getLsbD_ofNat,
      mask (56 + i) (by omega), high, hi, Nat.add_sub_cancel_left]
    simp [show i < 64 by omega, show 56 + i < 64 by omega, show ¬56 + i < 44 by omega]
  · simp only [BitVec.getLsbD_extractLsb', BitVec.getLsbD_or, BitVec.getLsbD_and, BitVec.getLsbD_shiftLeft,
      Nat.zero_add, mask i (by omega)]
    simp [hi, show i < 56 by omega]

/-- The latest sherd record has the kind and the detail of the event that has been recorded (R406). -/
theorem sherd_latest (kind : Nat) (detail : Word) (s : State) :
    ((s.sherd kind detail).pkg.sherd.getLast?.map fun e => (e.w.extractLsb' 56 8, e.w.extractLsb' 0 44)) =
      some (BitVec.ofNat 8 kind, detail.extractLsb' 0 44) := by
  unfold State.sherd
  dsimp only
  rw [latest_getLast]
  exact congrArg some (Prod.ext_iff.mpr (sherdWord_fields (by omega) kind detail))

/-! ### Entry -/

section
variable {s : State} {c val pc : Word}

/-- A control core's trap is recorded in the package alone (R406). -/
theorem recordTrap_leaves (c : Word) (s : State) : (s.recordTrap c).core = s.core ∧ (s.recordTrap c).ctx = s.ctx := by
  unfold State.recordTrap
  split <;> exact ⟨rfl, rfl⟩

/-- Trap entry ends at the handler, and its trace record leaves the rest (R372, R390). -/
theorem toHandler_leaves (c : Word) (s : State) :
    (s.toHandler c).ctx = { s.ctx with pc := s.core.handler.zeroExtend 64 } ∧
      (s.toHandler c).core = { s.core with trn := (s.toHandler c).core.trn } := by
  obtain ⟨hctx, -, hcore⟩ := trace_leaves 3 c s
  have handler : (s.trace 3 c).core.handler = s.core.handler := by rw [hcore]
  unfold State.toHandler
  dsimp only
  rw [hctx, handler]
  exact ⟨rfl, hcore⟩

/-- A trap that is taken saves what step 4 of R372 names of what has settled, and goes on at HANDLER in kernel mode. -/
theorem enterTrap_leaves (hd : (s.core.k && !s.core.saved) = false) : ∃ w, Settles s w ∧
    (s.enterTrap c val pc).ctx = { w.ctx with
      trap := ⟨s.core.k, if s.settle.2.isSome then 0x11 else c, pc.extractLsb' 0 22, s.settle.2.getD val, s.ctx.rep⟩
      rep := none, pc := s.core.handler.zeroExtend 64 } ∧
    (s.enterTrap c val pc).core = { w.core with
      k := true, saved := false, pre := none, armed := false, fence := none
      badCtx := w.core.badCtx.filter fun a => !trapOffsets.contains a, trn := (s.enterTrap c val pc).core.trn } := by
  obtain ⟨w, hw, he⟩ := enterTrap_takes (c := c) (val := val) (pc := pc) hd
  refine ⟨w, hw, ?_⟩
  have rep : w.ctx.rep = s.ctx.rep := by rw [hw.ctx]
  rw [he]
  generalize (if s.settle.2.isSome then (0x11 : Word) else c) = cause
  obtain ⟨recCore, recCtx⟩ := recordTrap_leaves cause w
  obtain ⟨hctx, hcore⟩ := toHandler_leaves cause ((w.recordTrap cause).saveTrap cause (s.settle.2.getD val) pc)
  constructor
  · rw [hctx]
    simp only [State.saveTrap, recCore, recCtx, hw.k, hw.handler, rep]
  · refine hcore.trans ?_
    simp only [State.saveTrap, recCore]

/-! ### Double traps -/

/-- A trap in kernel mode before CTXSV is a double trap of what has settled (R375). -/
theorem enterTrap_doubleTrap (hk : s.core.k = true) (hs : s.core.saved = false) :
    s.enterTrap c val pc = s.settle.1.withdraw.doubleTrap pc := by
  have h := settles_entry s
  unfold State.enterTrap
  exact if_pos (by rw [h.k, h.saved, hk, hs]; rfl)

/-- A double trap freezes a compute core in place, with its context, and is recorded (R375, R406). -/
theorem doubleTrap_compute (hc : s.core.control = false) :
    (s.doubleTrap pc).core = { s.core with run := .frozen, pre := none } ∧ (s.doubleTrap pc).ctx = s.ctx ∧
      (s.doubleTrap pc).pkg = (s.sherd 2 pc).pkg := by
  unfold State.doubleTrap
  rw [if_neg (ne_true_of_eq_false hc)]
  exact ⟨rfl, rfl, rfl⟩

/-- A kernel crash records its reason, freezes the partitions, and resets a control core with its context (R400). -/
theorem crash_leaves (hc : s.core.control = true) (reason : Nat) :
    (s.crash reason).pkg.frozen = true ∧ (s.crash reason).pkg.sherd = (s.sherd 5 (BitVec.ofNat 64 reason)).pkg.sherd ∧
      (s.crash reason).ctx = Ctx.reset ∧ (s.crash reason).core.run = .free ∧ (s.crash reason).core.k = true := by
  unfold State.crash
  dsimp only
  rw [haltFreeze_control, if_pos]
  · exact ⟨rfl, rfl, rfl, rfl, rfl⟩
  · exact hc
  · exact hc

/-- A double trap of a control core is a kernel crash of reason 1 (R375, R400). -/
theorem doubleTrap_control (hc : s.core.control = true) :
    (s.doubleTrap pc).pkg.frozen = true ∧ (s.doubleTrap pc).pkg.sherd = ((s.sherd 2 pc).sherd 5 1).pkg.sherd ∧
      (s.doubleTrap pc).ctx = Ctx.reset ∧ (s.doubleTrap pc).core.run = .free ∧ (s.doubleTrap pc).core.k = true := by
  unfold State.doubleTrap
  rw [if_pos hc]
  exact crash_leaves (s := s.sherd 2 pc) hc 1

end

/-! ### Return -/

/-- An instruction that is traced where it stands and then retires counts in RETIRED, and leaves the trap registers, the kind
of the core and STEP (R390, R395). -/
theorem retire_traced (kind : Nat) (v pc : Word) (flow : Flow) (f : Fields) (s : State) :
    let t := (s.trace kind v).retire f pc flow
    t.ctx.retired = s.ctx.retired + 1 ∧ t.ctx.trap = s.ctx.trap ∧ t.core.control = s.core.control ∧
      t.core.dbgStep = s.core.dbgStep := by
  obtain ⟨hctx, -, hcore⟩ := trace_leaves kind v s
  dsimp only
  rw [retire_ctx, retire_core, hctx, hcore]
  exact ⟨rfl, rfl, rfl, rfl⟩

/-- What a return from a trap restores from the trap registers, and what it leaves of them (R395, log entry 19). -/
theorem leaveTrap_restores (s : State) : s.leaveTrap.ctx.pc = s.ctx.trap.pc.zeroExtend 64 ∧
    s.leaveTrap.core.k = (s.ctx.trap.pk || s.core.control) ∧ s.leaveTrap.core.armed = s.core.dbgStep ∧
    s.leaveTrap.ctx.trap = { s.ctx.trap with rep := none } ∧ s.leaveTrap.ctx.retired = s.ctx.retired :=
  ⟨rfl, rfl, rfl, rfl, rfl⟩

/-- The step of a ready ERET retires it where it stands and restores what the trap registers hold (R395). -/
theorem eret_returns {f : Fields} {s : State} (h : s.ready (.eret f) f = true) : ∃ t, exec (.eret f) s = .next t ∧
    t.ctx.retired = s.ctx.retired + 1 ∧ t.ctx.pc = s.ctx.trap.pc.zeroExtend 64 ∧
    t.core.k = (s.ctx.trap.pk || s.core.control) ∧ t.core.armed = s.core.dbgStep ∧ t.ctx.trap = { s.ctx.trap with rep := none } := by
  have ht := timed_atIssue (.eret f) f s
  rw [exec_eret, execEret]
  refine ⟨_, issue_stay h rfl, ?_⟩
  generalize s.atIssue (.eret f) f = u at ht ⊢
  obtain ⟨retired, trap, control, step⟩ := retire_traced 4 (u.ctx.trap.pc.zeroExtend 64) (u.ctx.trap.pc.zeroExtend 64) .taken f u
  obtain ⟨hpc, hk, harmed, htrap, hretired⟩ := leaveTrap_restores
    ((u.trace 4 (u.ctx.trap.pc.zeroExtend 64)).retire f (u.ctx.trap.pc.zeroExtend 64) .taken)
  have uretired : u.ctx.retired = s.ctx.retired := by rw [ht.ctx]
  have ustep : u.core.dbgStep = s.core.dbgStep := by rw [ht.core]
  rw [hpc, hk, harmed, htrap, hretired, retired, trap, control, step, ht.trap, ht.control, uretired, ustep]
  exact ⟨rfl, rfl, rfl, rfl, rfl⟩

end Sys2Proof.Machine
end

section
/-! SUPPORT. The settled statements of traps: their entry, the double trap, and the return. -/

open Sys2Proof Sys2Proof.Machine Sys2Proof.Claims

namespace Sys2Proof.Proofs

/-- Settles O13: what entry saves is that of the settled core, whose outstanding load may give the cause and the value. -/
theorem trapEntry : Obligations.TrapEntry := by
  unfold Obligations.TrapEntry
  intro s c val pc hd
  obtain ⟨w, hw, hctx, hcore⟩ := enterTrap_leaves (c := c) (val := val) (pc := pc) hd
  dsimp only
  rw [hctx, hcore]
  refine ⟨rfl, rfl, rfl, rfl, rfl, hw.gq, hw.pend, fun none => ?sound, fun va bad => ?bad, hw.retired, ?pid, hw.handler⟩
  case sound => rw [none]; exact ⟨rfl, rfl⟩
  case bad => rw [bad]; exact ⟨rfl, rfl⟩
  case pid => rw [hw.sys]

/-- Settles O14: the double trap is of the settled core; after CTXSV it is an entry like another. -/
theorem doubleTrap : Obligations.DoubleTrap := by
  unfold Obligations.DoubleTrap
  refine fun s c val pc => ⟨fun hk hs hc => ?compute, fun hk hs hc => ?control, fun saved => ?again⟩
  case compute =>
    have hw := settles_entry s
    obtain ⟨hcore, hctx, hpkg⟩ := doubleTrap_compute (pc := pc) (hw.control.trans hc)
    rw [enterTrap_doubleTrap hk hs, hcore, hctx, hpkg]
    exact ⟨rfl, hw.trap, hw.pc, rfl, rfl, sherd_latest 2 pc _⟩
  case control =>
    obtain ⟨frozen, ring, hctx, hrun, hmode⟩ := doubleTrap_control (pc := pc) ((settles_entry s).control.trans hc)
    rw [enterTrap_doubleTrap hk hs, ring, sherd_latest 5]
    exact ⟨frozen, hrun, hmode, hctx, rfl⟩
  case again =>
    have entered : (s.core.k && !s.core.saved) = false := by rw [saved, Bool.not_true, Bool.and_false]
    obtain ⟨w, hw, hctx, hcore⟩ := enterTrap_leaves (c := c) (val := val) (pc := pc) entered
    rw [hctx, hcore]
    exact ⟨rfl, hw.run⟩

/-- Settles O16: ERET retires and then leaves the trap; in user mode its check of privilege fails. -/
theorem returnFromTrap : Obligations.ReturnFromTrap := by
  unfold Obligations.ReturnFromTrap
  refine fun f s => ⟨fun h => ?returns, fun hp hw ha hk hpre hb => ?user⟩
  case returns =>
    obtain ⟨t, ht, retired, hpc, hk, armed, trap⟩ := eret_returns h
    exact ⟨t, ht, retired, hpc, hk, armed, by rw [trap], by rw [trap], by rw [trap]⟩
  case user =>
    exact (privilegeTraps (.eret f) f s rfl hp hw ha hk hb fun p e => nomatch hpre.symm.trans e).1 0x334#10 (by simp)

end Sys2Proof.Proofs
end

section
/-! SUPPORT. The images of a context and of a cluster, and invalidation: each form acts once no Kiln command stands in its way and
its region passes the checks (R370, R378 to R383). -/

namespace Sys2Proof.Machine

/-! ### Contexts -/

section
variable {f : Fields} {u : State}

/-- CTXSV with no Kiln command left and a region that stands saves the context (R380). -/
theorem ctxsvEffect_saves (idle : u.core.kq = []) (stands : u.regionCheck u.region 0x41000 = none) :
    ctxsvEffect f u = .ok (u.saveContext ((u.val f.opA).getLsbD 0)) := by
  unfold ctxsvEffect
  rw [idle, stands]
  rfl

/-- What is performed before an instruction publishes leaves CTXBUF, and the region that it names (R378). -/
theorem published_ctxbuf (u : State) : u.published.ctx.sys.ctxbuf = u.ctx.sys.ctxbuf ∧ u.published.region = u.region := by
  have same : u.published.ctx.sys.ctxbuf = u.ctx.sys.ctxbuf := by rw [(behind_published u).ctx]
  exact ⟨same, by unfold State.region; rw [same]⟩

/-- An image whose header stands and that records the CTXBUF in force fits (R378, R381). -/
theorem imageFits_of_header (stands : 0 < (u.pkg.mem.word u.region).toNat) (size : (u.pkg.mem.word u.region).toNat ≤ 0x40000)
    (records : u.pkg.mem.word (u.region + 0xAE8) = u.ctx.sys.ctxbuf) : u.imageFits = true := by
  unfold State.imageFits
  simp only [Bool.and_eq_true, bne_iff_ne, decide_eq_true_eq, beq_iff_eq]
  exact ⟨⟨Nat.pos_iff_ne_zero.mp stands, size⟩, records⟩

/-- CTXLD with no Kiln command left and a region that stands loads the context that fits, once what stands before is performed (R381). -/
theorem ctxldEffect_loads (idle : u.core.kq = []) (stands : u.regionCheck u.region 0x41000 = none)
    (fits : u.published.imageFits = true) : ctxldEffect u = .ok u.published.loadContext := by
  unfold ctxldEffect
  rw [idle, if_neg (by simp), stands]
  exact if_pos fits

/-! ### Clusters -/

/-- Both cluster forms go on at an aligned region that stands, once the cluster's Kiln commands have completed and no buffer is
busy (R382). -/
theorem clusterForm_goes {go : Nat → Eff} (aligned : (u.val f.opA).toNat % 65536 = 0) (idle : u.kilnCmds = [])
    (free : ∀ b < 8, u.bufferBusy b = false) (stands : u.regionCheck (u.val f.opA).toNat clusterSize = none) :
    clusterForm f u go = go (u.val f.opA).toNat := by
  have quiet : (List.range 8).any u.bufferBusy = false :=
    List.any_eq_false.mpr fun b hb => ne_true_of_eq_false (free b (List.mem_range.mp hb))
  unfold clusterForm
  dsimp only
  rw [aligned, idle, quiet, stands]
  rfl

/-- CTXLD.CL of an image whose buffer records all hold up loads it (R382, R383). -/
theorem ctxldClEffect_loads (aligned : (u.val f.opA).toNat % 65536 = 0) (idle : u.kilnCmds = [])
    (free : ∀ b < 8, u.bufferBusy b = false) (stands : u.regionCheck (u.val f.opA).toNat clusterSize = none)
    (sound : ∀ i < 8, cbBad (u.published.imageFrom (u.val f.opA).toNat clusterSize) (0x21800 + 64 * i) = false) :
    ctxldClEffect f u = .ok (u.published.loadCluster (u.val f.opA).toNat) := by
  have records : ((List.range 8).any fun i =>
      cbBad (u.published.imageFrom (u.val f.opA).toNat clusterSize) (0x21800 + 64 * i)) = false :=
    List.any_eq_false.mpr fun i hi => ne_true_of_eq_false (sound i (List.mem_range.mp hi))
  unfold ctxldClEffect
  rw [clusterForm_goes aligned idle free stands]
  exact if_neg (ne_true_of_eq_false records)

/-! ### Invalidation -/

/-- STINV removes the entries once the Kiln has read all that it translated (R370). -/
theorem invalidates_of_read {p : Kept → Bool} (read : u.unread = false) : invalidates p u = .ok (u.invalidate p) :=
  if_neg (ne_true_of_eq_false read)

end

end Sys2Proof.Machine
end

section
/-! SUPPORT. The settled statement of the context instructions. -/

open Sys2Proof Sys2Proof.Machine Sys2Proof.Claims

namespace Sys2Proof.Proofs

/-- Settles O53: each form issues, and its checks pass. -/
theorem contextInstructions : Obligations.ContextInstructions := by
  unfold Obligations.ContextInstructions
  refine fun f s => ⟨fun h idle stands => ?ctxsv, fun h idle stands pos size records => ?ctxld,
    fun h aligned idle free stands => ?ctxsvCl, fun h aligned idle free stands sound => ?ctxldCl, fun h read => ?stinvVa,
    fun h read => ?stinvPid, fun h read => ?stinvAll, fun h => ?tmark⟩
  case ctxsv => rw [exec_ctxsv, execCtxsv]; exact issue_ok h (ctxsvEffect_saves idle stands)
  case ctxld =>
    obtain ⟨ctxbuf, region⟩ := published_ctxbuf (s.atIssue (.ctxld f) f)
    rw [← region] at pos size records
    rw [exec_ctxld, execCtxld]
    exact issue_ok h (ctxldEffect_loads idle stands (imageFits_of_header pos size (records.trans ctxbuf.symm)))
  case ctxsvCl => rw [exec_ctxsvCl, execCtxsvCl]; exact issue_ok h (clusterForm_goes aligned idle free stands)
  case ctxldCl => rw [exec_ctxldCl, execCtxldCl]; exact issue_ok h (ctxldClEffect_loads aligned idle free stands sound)
  case stinvVa => rw [exec_stinvVa, execStinvVa]; exact issue_ok h (invalidates_of_read read)
  case stinvPid => rw [exec_stinvPid, execStinvPid]; exact issue_ok h (invalidates_of_read read)
  case stinvAll => rw [exec_stinvAll, execStinvAll]; exact issue_ok h (invalidates_of_read read)
  case tmark => rw [exec_tmark, execTmark]; exact issue_ok h rfl

end Sys2Proof.Proofs
end

section
/-! SUPPORT. Forwarding chains, the exchange's waits and program, and the requests of a gear (R318 to R324, R341, R343). -/

namespace Sys2Proof.Machine

section
variable {f : Fields} {u s : State} {v : Word}

/-- What a member of a partition may execute has its effect (R412). -/
theorem partitioned_member {op : BitVec 10} {k : Eff} (member : u.cl.part.member = true) : partitioned op u k = k := if_pos member

/-! ### Chains -/

/-- SLAVE.L in no chain forms it where every core that it offers has executed SLAVE (R321). -/
theorem slaveLEffect_forms (waiting : u.waitServed = false) (alone : u.core.chain = none)
    (offered : u.offered (u.val f.opA).toNat = true) :
    slaveLEffect f u = .ok ((u.takeOffers (u.val f.opA).toNat).endWait.joinChain true (u.val f.opA).toNat) := by
  unfold slaveLEffect
  dsimp only
  rw [onServed_ask _ _ waiting, alone, if_neg (by simp), if_pos offered]

/-- SLAVE.L leads the chain that its offered cores have completed (R321). -/
theorem slaveLEffect_served (h : s.servedWith v) : slaveLEffect f s = .ok (s.endWait.joinChain true (s.val f.opA).toNat) := by
  unfold slaveLEffect
  exact onServed_done _ _ h

/-- SLAVE follows in the chain that a leader has formed (R321). -/
theorem slaveEffect_served (h : s.servedWith v) : slaveEffect s = .ok (s.endWait.joinChain false 0) := onServed_done _ _ h

/-! ### The exchange -/

/-- XWAIT.E completes with SSTEPN once the compute phase is over (R320). -/
theorem xwaitEEffect_served (h : s.servedWith v) : xwaitEEffect f s = .ok (s.endWait.setS (some 1) f.opD s.endWait.cl.part.sstep) :=
  onServed_done _ _ h

/-- XWAIT with no landed transfer of the other TOP takes the landings and completes with SSTEPN (R320). -/
theorem xwaitDone_sound (sound : (u.cl.xeng.landed.find? fun x => mismatched x.1 x.2 u.top) = none) :
    xwaitDone f u = .ok ((u.setXeng { u.cl.xeng with landed := [] }).setS (some 1) f.opD u.cl.part.sstep) := by
  unfold xwaitDone
  dsimp only
  rw [sound]

/-- XWAIT completes once the exchange phase is over (R320). -/
theorem xwaitEffect_served (h : s.servedWith v) : xwaitEffect f s = xwaitDone f s.endWait := onServed_done _ _ h

/-- XRUN of an aligned program that the core may read, in an exchange phase whose engine no core has used, arms the engine (R318, R319). -/
theorem xrunEffect_arms (member : u.cl.part.member = true) (aligned : (u.val f.opA).toNat % 16 = 0)
    (within : (u.val f.opA).toNat + 16 * (u.val f.opB).toNat ≤ (if u.core.k then 0x20000 else 0x1E000))
    (phase : u.cl.part.exchange = true) (unused : u.cl.xeng.used = false) :
    xrunEffect f u = .ok (u.arm u.core.idx (u.val f.opA).toNat (u.val f.opB).toNat u.top) := by
  unfold xrunEffect
  rw [partitioned_member member]
  dsimp only
  rw [aligned, phase, unused, if_neg (by simp), if_neg (Nat.not_lt.mpr within)]
  rfl

end

/-! ### Gears -/

/-- GEAR.F and GEAR.N issue with the request of their gear (R343). -/
theorem exec_gearRow {row : (Fields → Instr) × Bool} (hr : row ∈ [(Instr.gearF, false), (Instr.gearN, true)]) (f : Fields)
    (s : State) : exec (row.1 f) s = issue (row.1 f) f (gearEffect row.2 f) s := by
  simp only [List.mem_cons, List.not_mem_nil, or_false] at hr
  obtain rfl | rfl := hr
  · exact exec_gearF f s
  · exact exec_gearN f s

end Sys2Proof.Machine
end

section
/-! SUPPORT. The settled statement of the phases and the chains. -/

open Sys2Proof Sys2Proof.Machine Sys2Proof.Claims

namespace Sys2Proof.Proofs

/-- Settles O50: a wait that has been served is done; the others complete where their checks pass. -/
theorem phasesAndChains : Obligations.PhasesAndChains := by
  unfold Obligations.PhasesAndChains
  refine fun f s => ⟨fun h alone offered => ?slaveL, fun v hs => ⟨?slaveLServed, ?slaveServed, ?xwaitE⟩, fun v hs sound => ?xwait,
    fun h => ?detach, fun h member aligned within phase unused => ?xrun, fun row hrow h => ?gear⟩
  case slaveL => rw [exec_slaveL, execSlaveL]; exact issue_ok h (slaveLEffect_forms (ready_waitServed h) alone offered)
  case slaveLServed => rw [exec_slaveL, execSlaveL]; exact issue_ended hs (slaveLEffect_served hs)
  case slaveServed => rw [exec_slave, execSlave]; exact issue_ended hs (slaveEffect_served hs)
  case xwaitE => rw [exec_xwaitE, execXwaitE]; exact issue_ended hs (xwaitEEffect_served hs)
  case xwait => rw [exec_xwait, execXwait]; exact issue_ended hs ((xwaitEffect_served hs).trans (xwaitDone_sound sound))
  case detach => rw [exec_detach, execDetach]; exact issue_ok h rfl
  case xrun => rw [exec_xrun, execXrun]; exact issue_ok h (xrunEffect_arms member aligned within phase unused)
  case gear => rw [exec_gearRow hrow]; exact issue_ok h rfl

end Sys2Proof.Proofs
end

section
/-! SUPPORT. The steps of a partition: where each changes nothing, and what the start of an exchange and of a compute phase leave
(R302 to R317, R334, R353). -/

namespace Sys2Proof.Machine

section
variable {s : State}

/-! ### Launches and tasks -/

/-- No record returns from the overflow where it is empty, or to a launch queue that is full (R306). -/
theorem returnOverflow_idle (h : s.cl.overflow = [] ∨ 256 ≤ s.cl.launchQ.length) : s.returnOverflow = s := by
  unfold State.returnOverflow
  split
  · rfl
  · next r rest waiting =>
    have full : 256 ≤ s.cl.launchQ.length := h.resolve_left fun empty => nomatch waiting.symm.trans empty
    exact if_neg (Nat.not_lt.mpr full)

/-- A dispatch that is not possible changes nothing (R308). -/
theorem dispatch_idle (h : s.dispatchable = false) : s.dispatch = s := if_pos (by rw [h]; rfl)

/-- Without a reservation that is due none is made (R334). -/
theorem reserve_idle {p : Nat} (h : s.nextReservation = none) : s.reserve p = s := by
  unfold State.reserve
  rw [h]

/-- A cluster that is reserved makes no other reservation (R334). -/
theorem nextReservation_reserved (h : s.cl.part.reserved = true) : s.nextReservation = none :=
  if_pos (by rw [h, Bool.or_true])

/-- Without a migration that is due no gang leaves (R334). -/
theorem migrate_idle {cores : BitVec 8} {d : Nat} (h : s.nextMigration = none) : s.migrate cores d = s := by
  unfold State.migrate
  rw [h]

/-- Out of replay no gang migrates before the head record has waited through six periods (R334). -/
theorem nextMigration_early (live : s.traceMode ≠ 2) (early : s.headPeriods < 6) : s.nextMigration = none := by
  unfold State.nextMigration
  split
  · rfl
  · rw [if_neg (by simpa using live), if_pos (by simp [early])]

/-- While no launch is over none completes (R302). -/
theorem completeLaunch_idle (h : s.pkg.launches.any (·.over) = false) : s.completeLaunch = s := by
  have none : s.pkg.launches.find? (·.over) = none := List.find?_eq_none.mpr (List.any_eq_false.mp h)
  unfold State.completeLaunch
  rw [none]

/-- A context that may not be discarded stays (R310). -/
theorem discard_idle (h : s.discardable = false) : s.discard = s := if_pos (by rw [h]; rfl)

/-! ### Phases -/

/-- The compute phase goes on until every arrival (R314). -/
theorem openExchange_idle (h : s.computeOver = false) : s.openExchange = s := if_pos (by rw [h]; rfl)

/-- The exchange phase starts at the cycle of its barrier's release, X0 (R314). -/
theorem openExchange_starts (h : s.computeOver = true) :
    s.openExchange.cl.part.exchange = true ∧ s.openExchange.cl.part.x0 = s.pkg.cycle := by
  unfold State.openExchange
  rw [h, if_neg (by simp)]
  dsimp only
  rw [serve_cl]
  exact ⟨rfl, rfl⟩

/-- A transfer that is not due does not start (R316). -/
theorem startTransfer_idle {l : Bool} (h : s.transferDue = false) : s.startTransfer l = s := if_pos (by rw [h]; rfl)

/-- The exchange phase goes on until every arrival, landing and delivery (R314, R317). -/
theorem closeExchange_idle {rs : List ArrivedRecord} (h : s.exchangeOver = false) : s.closeExchange rs = s := if_pos (by rw [h]; rfl)

/-- A compute phase does not start before its cycle (R353). -/
theorem startPhase_idle (h : s.phaseDue = false) : s.startPhase = s := if_neg (ne_true_of_eq_false h)

/-- A compute phase that starts is that of the next superstep (R353). -/
theorem startPhase_starts (h : s.phaseDue = true) :
    s.startPhase.cl.part.exchange = false ∧ s.startPhase.cl.part.sstep = s.cl.part.sstep + 1 := by
  unfold State.startPhase
  rw [if_pos h, serve_cl]
  exact ⟨rfl, rfl⟩

/-- Out of an exchange phase nothing is delivered (R317). -/
theorem deliverRecord_idle (h : s.exchanging = false) : s.deliverRecord = s := if_pos (by rw [h]; rfl)

end

end Sys2Proof.Machine
end

section
/-! SUPPORT. The settled statement of the partition's events. -/

open Sys2Proof Sys2Proof.Machine Sys2Proof.Claims

namespace Sys2Proof.Proofs

/-- Settles O58: each step is an event, and changes nothing where its condition fails; an arrival of another core at lines 16 to 22 is the
event of its place. -/
theorem partitionEvents : Obligations.PartitionEvents := by
  unfold Obligations.PartitionEvents
  exact fun s hp => ⟨fun who desc pnum cs n => happens_event hp (exec_launch ..),
    happens_event hp (exec_overflowReturn ..), returnOverflow_idle,
    happens_event hp (exec_taskDispatch ..), dispatch_idle,
    fun p => ⟨happens_event hp (exec_recordReservation ..), reserve_idle, nextReservation_reserved⟩,
    fun cores d => ⟨happens_event hp (exec_gangMigration ..), migrate_idle, nextMigration_early⟩,
    happens_event hp (exec_launchComplete ..), completeLaunch_idle,
    happens_event hp (exec_contextDiscard ..), discard_idle,
    happens_event hp (exec_computeBarrierRelease ..), openExchange_idle, openExchange_starts,
    fun l => ⟨happens_event hp (exec_exchangeTransferStart ..), startTransfer_idle⟩,
    fun k => happens_event hp (exec_exchangeLanding ..),
    fun rs => ⟨happens_event hp (exec_exchangeBarrierRelease ..), closeExchange_idle⟩,
    happens_event hp (exec_computePhaseStart ..), startPhase_idle, startPhase_starts,
    fun core d => happens_event hp (exec_messageDelivery ..),
    happens_event hp (exec_recordDelivery ..), deliverRecord_idle,
    fun core other => ⟨happens_byOther (g := (·.gangArrive core)) hp rfl other, happens_byOther (g := (·.otherTend core)) hp rfl other,
      happens_byOther (g := (·.arriveStep core)) hp rfl other, happens_byOther (g := (·.otherSlave core)) hp rfl other,
      happens_byOther (g := (·.chainForms core)) hp rfl other, happens_byOther (g := (·.lead)) hp rfl other⟩⟩

end Sys2Proof.Proofs
end
